-- ==== Sys2Proof/Word.lean ====
section
/-! DEFINITION. The plain arithmetic of the manual: bit fields, two's complement, rounding half up, saturation. -/

namespace Sys2Proof

/-- Bits [lo + w - 1 : lo] of v (R3). -/
def bitsAt (v lo w : Nat) : Nat := v / 2 ^ lo % 2 ^ w

/-- v with bits [lo + w - 1 : lo] replaced by x. -/
def setBitsAt (v lo w x : Nat) : Nat :=
  v % 2 ^ lo + (x % 2 ^ w) * 2 ^ lo + (v / 2 ^ (lo + w)) * 2 ^ (lo + w)

/-- Bit i of v. -/
def bitAt (v i : Nat) : Bool := v.testBit i

/-- 1 for true, 0 for false. -/
def b2n (b : Bool) : Nat := if b then 1 else 0

/-- The two's complement value of the low w bits of v. -/
def toSigned (w v : Nat) : Int :=
  if v % 2 ^ w < 2 ^ (w - 1) then ((v % 2 ^ w : Nat) : Int) else ((v % 2 ^ w : Nat) : Int) - 2 ^ w

/-- The low w bits of i in two's complement. -/
def ofSigned (w : Nat) (i : Int) : Nat := (i % (2 ^ w : Int)).toNat

/-- v / 2^s rounded half up (R106); rhu v 0 = v. -/
def rhu (v : Int) (s : Nat) : Int := if s = 0 then v else (v + 2 ^ (s - 1)) / 2 ^ s

/-- v clamped to w-bit two's complement (R106). -/
def satS (v : Int) (w : Nat) : Int := max (-(2 ^ (w - 1) : Int)) (min v (2 ^ (w - 1) - 1))

/-- n / d rounded up. -/
def ceilDiv (n d : Nat) : Nat := (n + d - 1) / d

/-- n / d rounded half up, for d above 0. -/
def divHalfUp (n d : Int) : Int := (2 * n + d) / (2 * d)

/-- v clamped to lo .. hi. -/
def clampN (lo hi v : Nat) : Nat := max lo (min v hi)

/-- A counter that stops at top. -/
def satInc (top v : Nat) : Nat := min top (v + 1)

end Sys2Proof
end

