-- ==== Sys2Proof/Syntax.lean ====
section
/-! DEFINITION. The commands the block takes, one constructor a row of spec/opcode_table.json. An operand t is the
instant of the command on the node's tick axis, in fine units of 1/512 tick since power-on (log entry 10). -/

namespace Sys2Proof

/-- The fields of a chain's configuration whose change restarts it (R127). -/
inductive DecField where
  | div | d | hb1 | hb2 | firSet | sh0 | sh1 | sh2 | sh3 | sh4 | decEn
  deriving DecidableEq, Repr

/-- A command: a write, a read, an event on a pin or a link, or the end of something timed. -/
inductive Instr where
  /-- R5: A host write to a W0 register field that has no row of its own sets, clears, clamps or discards the field by its access code. -/
  | registerWrite (t : Nat) (die : Bool) (off : BitVec 26) (be : BitVec 8) (value : BitVec 64)
  /-- R582: A 32-bit read of the low half of a 64-bit register latches the high half for the next read. -/
  | halfReadLatch (t : Nat) (die : Bool) (off : BitVec 26 ⊕ BitVec 20) (len : BitVec 13)
  /-- R250: A read of PLUMB_NOW.SEC latches the tick and fine parts of the current Plumb time. -/
  | plumbNowRead (t : Nat)
  /-- R531: A Mortise supply leaves its range and PO is asserted, resetting all PO state and turning the part off. -/
  | powerOnAssert (t : Nat)
  /-- R520: PO is released 2 ms after the last supply is declared in range and BOOT starts. -/
  | powerOnRelease (t : Nat)
  /-- R527: RST_N held low for at least 1 µs applies PN and, after release, restarts BOOT. -/
  | pinReset (t : Nat)
  /-- R568: PERST_N low applies an HO to the die's endpoint. -/
  | perst (t : Nat) (die : Bool)
  /-- R423: A PCIe hot reset or function-level reset stops fetching, cancels descriptors silently and returns every ring field and EV_MAP to reset. -/
  | hostReset (t : Nat) (die : Bool)
  /-- R564: A supply stays outside ±5 % for 2 µs and its die is isolated, reset or declared faulty. -/
  | supplyOutOfRange (t : Nat) (tenon : Option (Fin 6)) (die : Bool) (supply : Fin 8)
  /-- R564: A supply stays within ±4 % for 100 µs and is declared in range again. -/
  | supplyInRange (t : Nat) (tenon : Option (Fin 6)) (die : Bool) (supply : Fin 8)
  /-- R532: VEXP or VEXN falls below 10.0 V and the Tenon's excitation, IEPE sources and pulsers turn off. -/
  | vexLowSet (t : Nat) (tenon : Fin 6)
  /-- R532: Both excitation rails rise to 10.3 V or more and VEX_LOW clears. -/
  | vexLowClear (t : Nat) (tenon : Fin 6)
  /-- R521: REFCLK_P/N appears and BOOT leaves its wait at step 1. -/
  | refclkArrival (t : Nat) (die : Bool)
  /-- R520: A BOOT step completes and the next dependent step starts. -/
  | bootStepDone (t : Nat) (die : Bool) (step : Fin 2)
  /-- R327: The fill of a die's protected memories with valid zero words completes, releasing its engines. -/
  | memoryFillDone (t : Nat) (tenon : Option (Fin 6)) (die : Bool)
  /-- R521: A Tenon or Mortise self-test completes; failure isolates the Tenon or holds the Mortise in BOOT. -/
  | selfTestDone (t : Nat) (tenon : Option (Fin 6)) (die ok : Bool)
  /-- R541: At BOOT step 5 each governing boot bundle is read, verified and loaded into its core. -/
  | bootBundleVerify (t : Nat) (die : Bool)
  /-- R520: Tenon counters are loaded and the device enters SETUP with Plumb state FREE. -/
  | bootComplete (t : Nat) (die : Bool)
  /-- R19: A Tenon's TCLK PLL reports lock after the forwarded clock arrives. -/
  | tclkPllLock (t : Nat) (tenon : Fin 6)
  /-- R20: A Tenon's TCLK PLL loses lock; the Tenon stops acquisition within 1 µs and enters ISOLATED. -/
  | lossOfLock (t : Nat) (tenon : Fin 6)
  /-- R270: A command from the Mortise loads a Tenon's tick counter at a named marked tick and acquisition starts. -/
  | tenonCounterLoad (t : Nat) (tenon : Fin 6)
  /-- R271: At every whole second the Mortise compares each Tenon's counter with its own and schedules a reload if it differs. -/
  | tenonCounterCheck (t : Nat) (tenon : Fin 6) (slip : Int)
  /-- R271: A Tenon whose counter differed is reloaded at the next whole second, as a step, and TENON_SLIP is set. -/
  | tenonReload (t : Nat) (tenon : Fin 6)
  /-- R22: A tenon-link frame is received; a CRC-32C mismatch discards it and requests replay. -/
  | tenonLinkFrameRx (t : Nat) (tenon : Fin 6) (dir : Bool × Bool) (frame : Nat × Bool)
  /-- R23: After eight failed attempts to deliver one frame the tenon-link port is declared down. -/
  | tenonPortDown (t : Nat) (tenon : Fin 6) (portB : Bool)
  /-- R488: A Tenon receives a numbered command and executes it only if it is the next number, replaying stored replies for repeats. -/
  | tenonCommand (t : Nat) (tenon : Fin 6) (num : Bool × BitVec 32) (off : BitVec 23) (write : Bool) (be : BitVec 8) (value : BitVec 64)
  /-- R30: A W0 access to a Tenon block is forwarded over the tenon link and completes within 2 µs, or with all ones on a down port. -/
  | tenonRegisterAccess (t : Nat) (die : Bool) (tenon : Fin 6) (off : BitVec 23) (write : Bool) (be : BitVec 8) (value : BitVec 64)
  /-- R24: When transmit FIFO space returns the Tenon sends a loss record for records it discarded. -/
  | tenonLossRecord (t : Nat) (tenon : Fin 6) (portB : Bool) (stream : BitVec 16)
  /-- R42: A fast channel takes a sample at an aperture instant, applies quality, and feeds fast stream, chain, capture and loop. -/
  | sample (t : Nat) (tenon : Fin 6) (ch : Fin 128) (code : BitVec 16)
  /-- R46: The over-range comparator trips at 105 % of FS and clamping with quality 1 begins. -/
  | overRangeTrip (t : Nat) (tenon : Fin 6) (ch : Fin 128) (positive : Bool)
  /-- R46: The comparator releases below 104 % of FS and the 2 µs and 5 µs quality-2 spans begin. -/
  | overRangeRelease (t : Nat) (tenon : Fin 6) (ch : Fin 128)
  /-- R36: A ball leaves its operating range and samples are clamped with CM_NOW and CM set. -/
  | commonModeExcursion (t : Nat) (tenon : Fin 6) (ch : Fin 128)
  /-- R45: A write changing RANGE takes effect at the next aperture instant with 1.2 µs of quality 3 and no edges. -/
  | rangeChange (t : Nat) (tenon : Fin 6) (ch : Fin 128) (range : BitVec 3)
  /-- R37: A write changing COUPLING, IEPE_EN or ENABLE from 0 to 1 starts the quality-3 settling span. -/
  | couplingChange (t : Nat) (tenon : Fin 6) (ch : Fin 128) (coupling : BitVec 2) (iepe enable : Bool)
  /-- R59: ENABLE changes to 0; sampling stops and the fast stream ends with a padded quad word. -/
  | enableOff (t : Nat) (tenon : Fin 6) (ch : Fin 128)
  /-- R59: FS_EN changes and the fast stream starts with a new quad word or ends after the one in progress. -/
  | fsEnChange (t : Nat) (tenon : Fin 6) (ch : Fin 128) (on : Bool)
  /-- R37: A quality-3 span ends and it becomes the change instant of the chain. -/
  | settlingSpanEnd (t : Nat) (tenon : Fin 6) (ch : Fin 128)
  /-- R41: Every 10 ms the IEPE bias monitor reads the DC level and updates live and sticky bits. -/
  | iepeBiasReading (t : Nat) (tenon : Fin 6) (ch : Fin 128) (bias : BitVec 16)
  /-- R50: A channel over-range for OPEN_DWELL ms raises the dwell contribution to OPEN_NOW. -/
  | openDwellExpiry (t : Nat) (tenon : Fin 6) (ch : Fin 128)
  /-- R51: A continuity check falls due, takes conversion A and drives 10 µA for 50 µs. -/
  | contCheckStart (t : Nat) (tenon : Fin 6) (ch : Fin 128) (convA : Int)
  /-- R53: At pulse end conversion B is taken, ΔV is stored and the check's open contribution is set. -/
  | contCheckPulseEnd (t : Nat) (tenon : Fin 6) (ch : Fin 128) (convB : Int)
  /-- R52: The 50 µs recovery after a check ends and the quality-2 span closes. -/
  | contCheckRecoveryEnd (t : Nat) (tenon : Fin 6) (ch : Fin 128)
  /-- R55: The discriminator passes an edge and the stamping unit stamps it. -/
  | discriminatorEdge (t : Nat) (tenon : Fin 6) (ch : Fin 128) (falling : Bool) (edge : Fin 32 × Nat)
  /-- R56: A write changing THRESH or HYST disarms both edges and starts 200 ns without edges. -/
  | discThresholdChange (t : Nat) (tenon : Fin 6) (ch : Fin 128) (thresh : BitVec 12) (hyst : BitVec 6)
  /-- R57: A write of 1 to CH_PULSER.FIRE fires the test pulser once, subject to the 15 µs rule. -/
  | pulserFire (t : Nat) (tenon : Fin 6) (ch : Fin 128)
  /-- R590: In MODE 1 the pulser fires at each whole multiple of PERIOD ms of Plumb time. -/
  | pulserPeriodicFire (t : Nat) (tenon : Fin 6) (ch : Fin 128)
  /-- R5: A write of 1 to CH_OR_COUNT.CLR sets OR_COUNT to 0. -/
  | orCountClr (tenon : Fin 6) (ch : Fin 128)
  /-- R282: FS_TIMEOUT ms after its first sample a fast-stream block closes at the end of the quad word in progress. -/
  | fsBlockTimeout (t : Nat) (tenon : Fin 6) (ch : Fin 128)
  /-- R282: DEC_TIMEOUT ms after its first word a decimated block closes. -/
  | decBlockTimeout (t : Nat) (tenon : Fin 6) (ch : Fin 128)
  /-- R62: BENT_CTRL.USE changes; the outgoing user stops and the excitation ramps to zero. -/
  | useChange (t : Nat) (tenon : Fin 6) (bent : Fin 16) (use : BitVec 2)
  /-- R83: An excitation ramp completes and the incoming user or entry takes the driver. -/
  | excitationRampEnd (t : Nat) (tenon : Fin 6) (bent : Fin 16)
  /-- R67: SEQ_RUN changes to 1 and the first pass waits for the next start instant. -/
  | seqRunStart (t : Nat) (tenon : Fin 6) (bent : Fin 16)
  /-- R67: SEQ_RUN changes to 0; the entry in progress completes and the sequencer stops. -/
  | seqRunStop (t : Nat) (tenon : Fin 6) (bent : Fin 16)
  /-- R65: A pass start instant arrives and a pass starts, or the instant is skipped and counted. -/
  | passStart (t : Nat) (tenon : Fin 6) (bent : Fin 16)
  /-- R69: A scanner entry starts: router opening, discharge, lead step and ramp as due. -/
  | entryStart (t : Nat) (tenon : Fin 6) (bent : Fin 16)
  /-- R64: At the latest of discharge, lead-step and ramp ends the router connects the entry's source. -/
  | entryConnect (t : Nat) (tenon : Fin 6) (bent : Fin 16)
  /-- R90: A lead step completes and stores half of each loop's resistance. -/
  | leadStepEnd (t : Nat) (tenon : Fin 6) (bent : Fin 16) (loopP loopN : Nat)
  /-- R87: A demodulation period ends; I and Q accumulate and the wiring-open checks are made. -/
  | demodPeriodEnd (t : Nat) (tenon : Fin 6) (bent : Fin 16) (xs : List Int) (phases : List Nat) (cur : Int) (dropP dropN : Nat) (rev : Bool)
  /-- R69: Halfway through a DC-reversing entry the excitation reverses and settle and fill run again. -/
  | polarityReversal (t : Nat) (tenon : Fin 6) (bent : Fin 16)
  /-- R71: An entry's sampling time ends and its result or drift record is queued. -/
  | entrySamplingEnd (t : Nat) (tenon : Fin 6) (bent : Fin 16)
  /-- R80: The listen span of a vibrating-wire entry ends and its scanner result is produced. -/
  | vwListenEnd (t : Nat) (tenon : Fin 6) (bent : Fin 16) (amp : Int)
  /-- R84: The driver reaches its current limit or force swing during sampling and the result carries EXC_LIMIT. -/
  | excCurrentLimit (t : Nat) (tenon : Fin 6) (bent : Fin 16)
  /-- R85: The current stays at its limit for 50 µs and the driver shuts down, setting EXC_SHORT_NOW. -/
  | excShutdown (t : Nat) (tenon : Fin 6) (bent : Fin 16)
  /-- R85: Once every second a shut-down driver retries. -/
  | excRetry (t : Nat) (tenon : Fin 6) (bent : Fin 16) (shorted : Bool)
  /-- R93: A write of 1 to BENT_URGENT.GO requests an urgent entry, accepted only while the sequencer is stopped or waiting. -/
  | urgentGo (t : Nat) (tenon : Fin 6) (bent : Fin 16)
  /-- R96: REC_TIMEOUT ms after its oldest result the scanner-results record closes. -/
  | scanRecordTimeout (t : Nat) (tenon : Fin 6) (bent : Fin 16)
  /-- R5: A write of 1 to BENT_COUNT.CLR sets URGENT_DROPS and PASS_SKIPS to 0. -/
  | bentCountClr (tenon : Fin 6) (bent : Fin 16)
  /-- R102: A write that changes a calibration constant increments the matching epoch. -/
  | calConstantWrite (t : Nat) (tenon : Fin 6) (bent : Fin 16) (off : BitVec 12) (value : BitVec 32)
  /-- R92: A host write to LEAD_P or LEAD_N increments the bent's scanner epoch. -/
  | leadWrite (t : Nat) (tenon : Fin 6) (bent : Fin 16) (input : Fin 8) (neg : Bool) (value : BitVec 20)
  /-- R502: GUARD µs before the end of a paired bent's slot its driver goes high-impedance and the router opens. -/
  | pairGuardStart (t : Nat) (tenon : Fin 6) (bent : Fin 16)
  /-- R124: A change of DIV, D, HB1_EN, HB2_EN, FIR_SET or a shift recomputes Δ, may move the grid and restarts the chain. -/
  | decConfigChange (t : Nat) (tenon : Fin 6) (ch : Fin 128) (field : DecField) (value : Nat)
  /-- R111: A write of 1 to UF_COMMIT.COMMIT copies the shadow user set to the active set between FIR input samples. -/
  | userSetCommit (t : Nat) (tenon : Fin 6) (set : Fin 4)
  /-- R115: DCB_EN changes; from 0 to 1 the DC block starts acquisition, to 0 subtraction stops. -/
  | dcbEnableChange (t : Nat) (tenon : Fin 6) (ch : Fin 128) (on : Bool)
  /-- R116: DCB_FREEZE changes; 1 holds m, and 1 to 0 while DCB_EN is 1 restarts acquisition. -/
  | dcbFreezeChange (t : Nat) (tenon : Fin 6) (ch : Fin 128) (on : Bool)
  /-- R122: A falling edge on SYNC_N schedules an alignment at the first whole second at least 1 ms later. -/
  | syncNEdge (t lowNs : Nat)
  /-- R123: A Plumb-timed sync command reaches a node and schedules alignment at S or is refused as late. -/
  | syncCommand (t : Nat) (sec : BitVec 40)
  /-- R121: At S each chain with SYNC_EN 1 is cleared, the grid placed and the chain restarted. -/
  | alignment (t : Nat) (tenon : Fin 6)
  /-- R5: A write of 1 to DEC_SYNC_STAT.CLR sets LATE_COUNT to 0. -/
  | decSyncClr (tenon : Fin 6)
  /-- R134: A change of PAGES or AVG clamps it, discards segments of affected channels and re-clamps geometry. -/
  | allotmentChange (t : Nat) (tenon : Fin 6) (ch : Fin 128) (pages : BitVec 12) (avg : BitVec 4)
  /-- R141: A bent cross-trigger reaches a channel and is applied or refused as blind. -/
  | crossTrigger (t : Nat) (tenon : Fin 6) (ch : Fin 128)
  /-- R142: A Plumb-timed trigger reaches the Tenon and is applied, late or not, or counted in FAB_LATE. -/
  | plumbTimedTrigger (t : Nat) (tenon : Fin 6) (time : BitVec 80)
  /-- R144: A write of 1 to CAP_FORCE.FORCE triggers the channel on its next value. -/
  | captureForce (t : Nat) (tenon : Fin 6) (ch : Fin 128)
  /-- R150: 0.8 µs after the last value of a segment the channel re-arms. -/
  | rearmInstant (t : Nat) (tenon : Fin 6) (ch : Fin 128)
  /-- R160: When the whole record fits, a segment record is written into the Tenon transmit FIFO. -/
  | segmentRecordEnqueue (t : Nat) (tenon : Fin 6) (ch : Fin 128)
  /-- R5: A write of 1 to CAP_COUNT.CLR sets BLIND and BUSY to 0. -/
  | capCountClr (tenon : Fin 6) (ch : Fin 128)
  /-- R5: A write of 1 to CAP_FAB.CLR sets FAB_LATE to 0. -/
  | capFabClr (tenon : Fin 6)
  /-- R168: A vernier conversion ends 400 ns after the edge, with coincidence or replaced by the phase stamp. -/
  | vernierDone (t : Nat) (tenon : Fin 6) (ch : Fin 128) (steps : Option (Fin 512))
  /-- R170: A stamp leaves its unit 480 ns after its TCLK edge and goes to stream, intervals, capture and regression. -/
  | stampRelease (t : Nat) (tenon : Fin 6) (ch : Fin 128)
  /-- R171: At every whole Plumb second each stamping unit starts a calibration run for each interpolator. -/
  | calRunStart (t : Nat) (tenon : Fin 6) (ch : Fin 128)
  /-- R173: A calibration run completes and its valid table replaces the one in use, or it is abandoned. -/
  | calRunEnd (t : Nat) (tenon : Fin 6) (ch : Fin 128) (vernier : Bool) (hist : List Nat)
  /-- R182: BATCH_TIMEOUT µs after its first item a stamp batch closes. -/
  | stampBatchTimeout (t : Nat) (tenon : Fin 6) (stream : Fin 4)
  /-- R5: A write of 1 to ST_COUNT.CLR sets DEAD and FIFO_OVF to 0. -/
  | stCountClr (tenon : Fin 6) (ch : Fin 128)
  /-- R186: After 16 ticks a held stop is judged against its window. -/
  | intervalStopHoldEnd (t : Nat) (tenon : Fin 6) (unit : Fin 16)
  /-- R190: The merged stamp order passes a + WINDOW and the interval window closes. -/
  | intervalWindowExpiry (t : Nat) (tenon : Fin 6) (unit : Fin 16)
  /-- R192: REC_TIMEOUT ms after its oldest result an interval-results record closes. -/
  | intervalRecordTimeout (t : Nat) (tenon : Fin 6) (unit : Fin 16)
  /-- R5: A write of 1 to the INT_CFG CLR bit sets EARLY_STOP and OUT_WINDOW to 0. -/
  | intCountClr (tenon : Fin 6) (unit : Fin 16)
  /-- R194: A write of 1 to PE_CTRL.GO starts a pulse-echo check or refuses it. -/
  | peCheckGo (t : Nat) (tenon : Fin 6) (ch : Fin 128)
  /-- R195: Every 15 µs during a check the pulser fires and launch and echo are stamped. -/
  | peFire (t : Nat) (tenon : Fin 6) (ch : Fin 128) (launch : Option (Nat × Fin 32 × Option (Fin 512))) (echo : Option (Nat × Fin 32 × Option (Fin 512) × Bool))
  /-- R196: The last fire's echo window ends and PE_RES status, spread and distance are written. -/
  | peCheckEnd (t : Nat) (tenon : Fin 6) (ch : Fin 128)
  /-- R200: A regression unit's gate opens at its mode's opening instant. -/
  | gateOpen (t : Nat) (tenon : Fin 6) (unit : Fin 32)
  /-- R204: A gate closes and the unit computes FREQ and RESID or a FEW result. -/
  | gateClose (t : Nat) (tenon : Fin 6) (unit : Fin 32)
  /-- R203: The 2^24-th stamp is used and the gate closes with FULL. -/
  | gateFull (t : Nat) (tenon : Fin 6) (unit : Fin 32)
  /-- R200: A write of 1 to REG_CTRL.GO schedules a single gate GATE_DELAY ms later. -/
  | regGo (t : Nat) (tenon : Fin 6) (unit : Fin 32)
  /-- R209: Once the merged stamp order passes the closing instant the result enters the frequency stream. -/
  | regResultEnter (t : Nat) (tenon : Fin 6)
  /-- R210: REC_TIMEOUT ms after its oldest result a frequency-results record closes. -/
  | freqRecordTimeout (t : Nat) (tenon : Fin 6)
  /-- R5: A write of 1 to REG_COUNT.CLR sets BUSY and IGNORED to 0. -/
  | regCountClr (tenon : Fin 6) (unit : Fin 32)
  /-- R215: A watched value enters the cell pool and an accumulator takes, skips or closes a block on it. -/
  | statValue (t : Nat) (acc : Fin 64)
  /-- R219: A write to STAT_CFG discards the block in progress and starts a new one. -/
  | statCfgWrite (t : Nat) (acc : Fin 64) (word : Fin 2) (value : BitVec 32)
  /-- R218: Back-pressure ends and a held statistics record is written. -/
  | statRecordRelease (t : Nat) (acc : Fin 64)
  /-- R224: The loop sample reaches the bent and the slice runs supervision and law within 60 ns. -/
  | loopPeriod (t : Nat) (tenon : Fin 6) (bent : Fin 16)
  /-- R225: OUT_PHASE ticks after the loop instant the holding register is converted by the DAC. -/
  | loopDacWrite (t : Nat) (tenon : Fin 6) (bent : Fin 16)
  /-- R238: RUN and USE 2 both hold and at the next boundary the slice clears state and hands over to LAW. -/
  | loopStart (t : Nat) (tenon : Fin 6) (bent : Fin 16)
  /-- R239: RUN goes to 0 or USE leaves 2 and the output ramps to zero over 100 µs. -/
  | loopStop (t : Nat) (tenon : Fin 6) (bent : Fin 16)
  /-- R235: A write of 1 to COMMIT0 copies LAW0's shadow set to active at the next boundary. -/
  | loopCommit0 (t : Nat) (tenon : Fin 6) (bent : Fin 16)
  /-- R235: A write of 1 to COMMIT1 copies LAW1's shadow set to active at the next boundary. -/
  | loopCommit1 (t : Nat) (tenon : Fin 6) (bent : Fin 16)
  /-- R236: A write of LOOP_CTRL.LAW hands over to the other law at the next boundary without an output step. -/
  | lawHandover (t : Nat) (tenon : Fin 6) (bent : Fin 16) (law : Bool)
  /-- R242: A write of 1 to REARM while tripped restarts the slice from the output in use. -/
  | loopRearm (t : Nat) (tenon : Fin 6) (bent : Fin 16)
  /-- R232: A pulse edge on SPX is counted or timed for the set-point. -/
  | spxEdge (t : Nat) (tenon : Fin 6) (bent : Fin 16) (rising : Bool)
  /-- R248: REC_TIMEOUT ms after its oldest item a loop-telemetry record closes. -/
  | telemetryRecordTimeout (t : Nat) (tenon : Fin 6) (bent : Fin 16)
  /-- R5: A write of 1 to LOOP_COUNT.CLR sets HELD_PERIODS and TRIPS to 0. -/
  | loopCountClr (tenon : Fin 6) (bent : Fin 16)
  /-- R253: A grandmaster stamps a PPS edge, corrects its offset and advances NEXT_SEC. -/
  | ppsEdge (t : Nat) (falling : Bool)
  /-- R254: No PPS edge arrives within 1.1 s and the grandmaster enters HOLDOVER with PPS_LOST. -/
  | ppsMissing (t : Nat)
  /-- R267: A write of PLUMB_CTRL.ROLE makes the node grandmaster or sends it into HOLDOVER as a follower. -/
  | roleChange (t : Nat) (role : Bool)
  /-- R257: At each whole 1/16 s a follower sends PLUMB_REQ on its port in use. -/
  | plumbReqSend (t : Nat) (port : Fin 8 × Nat)
  /-- R257: A PLUMB_REQ frame arrives and the node answers with PLUMB_RSP carrying T2 and T3. -/
  | plumbReq (t : Nat) (port : Fin 8) (seq : BitVec 16) (t3 : Nat)
  /-- R259: A PLUMB_RSP arrives, is validated, and θ drives the phase loop, parent choice and lock state. -/
  | plumbRsp (t : Nat) (port : Fin 8) (seq : BitVec 16) (hops : BitVec 8) (state : BitVec 3) (gm : BitVec 16) (t2 t3 : BitVec 80) (phase : List Int)
  /-- R260: No valid response arrives within 1 ms and the exchange counts as missed, possibly entering HOLDOVER. -/
  | exchangeTimeout (t : Nat) (port : Fin 8)
  /-- R264: At the named tick boundary the Plumb counter steps in the Mortise and every Tenon. -/
  | plumbStep (t : Nat)
  /-- R5: A write of 1 to PLUMB_STEPLOG.CLR sets STEP_COUNT to 0. -/
  | steplogClr
  /-- R309: A tenon-link receive port admits a record whole at its first frame or discards it as pending loss. -/
  | recordAdmit (t : Nat) (tenon : Fin 6) (portB : Bool)
  /-- R310: When the queue can take it and the next record, the receive port writes its pending loss record. -/
  | portLossRecord (t : Nat) (tenon : Fin 6)
  /-- R311: A stalled Mortise producer completes its cell write once R307 allows it. -/
  | producerResume (t : Nat) (producer : Fin 256)
  /-- R320: A corrected word is written back in the next idle cycle of its bank. -/
  | eccWriteback (t : Nat) (mem : Fin 48) (addr : Nat)
  /-- R323: A write of 1 to QCMD.RESUME removes a halted queue's head packet, replacing it with a loss record. -/
  | queueResume (queue : Fin 4096)
  /-- R5: A write of 1 to QDROP.CLR sets DROPS and HIGH_WATER to 0. -/
  | qdropClr (queue : Fin 4096)
  /-- R5: A write of 1 to MEM_ECC.CLR sets the memory's counts and BAD_VALID to 0. -/
  | memEccClr (mem : Fin 48)
  /-- R325: A SCRUB descriptor starts a scrub of a memory range. -/
  | scrub (t : Nat) (sq : Fin 256)
  /-- R325: A scrub completes and its summary is written to the host buffer and SCRUB_LAST. -/
  | scrubDone (t : Nat) (sq : Fin 256)
  /-- R330: A BANK_REPAIR descriptor starts a ROW, RETIRE or RESTORE repair, or completes BUSY. -/
  | bankRepair (t : Nat) (sq : Fin 256)
  /-- R331: A live cell of the bank under repair is moved through the shim buffer to another bank when R307 allows. -/
  | cellMigrate (t : Nat)
  /-- R331: Migration and pattern check end and the repair completes DONE or FAILED. -/
  | bankRepairDone (t : Nat) (ok : Bool)
  /-- R348: A compression engine in queue mode takes a record from one of its queues. -/
  | seifRecordTake (t : Nat) (engine : Fin 2)
  /-- R347: A Seif block leaves its engine and the record or job advances or completes. -/
  | seifBlockDone (t : Nat) (engine : Fin 3)
  /-- R352: A SEIF_COMPRESS descriptor starts a compression job from host memory. -/
  | seifCompress (t : Nat) (sq : Fin 256)
  /-- R355: A SEIF_DECOMPRESS descriptor starts a class A or B decompression job. -/
  | seifDecompress (t : Nat) (sq : Fin 256)
  /-- R5: A write of 1 to SEIF_CNT.CLR sets the engine's counts to 0. -/
  | seifCntClr (engine : Fin 2)
  /-- R5: A write of 1 to SEIF_DFAULT.CLR sets the four fault counts to 0. -/
  | seifDfaultClr
  /-- R386: Zillo instruction that does nothing. -/
  | nop (t : Nat) (core : Fin 4)
  /-- R386: Zillo instruction g_d := g_a + g_b modulo 2^32. -/
  | add (t : Nat) (core : Fin 4)
  /-- R386: Zillo instruction g_d := g_a − g_b modulo 2^32. -/
  | sub (t : Nat) (core : Fin 4)
  /-- R386: Zillo instruction g_d := g_a AND g_b. -/
  | and (t : Nat) (core : Fin 4)
  /-- R386: Zillo instruction g_d := g_a OR g_b. -/
  | or (t : Nat) (core : Fin 4)
  /-- R386: Zillo instruction g_d := g_a XOR g_b. -/
  | xor (t : Nat) (core : Fin 4)
  /-- R386: Zillo instruction shifting g_a left by g_b[4:0]. -/
  | shl (t : Nat) (core : Fin 4)
  /-- R386: Zillo instruction shifting g_a logically right by g_b[4:0]. -/
  | shr (t : Nat) (core : Fin 4)
  /-- R386: Zillo instruction shifting g_a arithmetically right by g_b[4:0]. -/
  | sar (t : Nat) (core : Fin 4)
  /-- R386: Zillo instruction g_d := low 32 bits of g_a × g_b. -/
  | mul (t : Nat) (core : Fin 4)
  /-- R386: Zillo instruction setting g_d to 1 if g_a < g_b signed. -/
  | clt (t : Nat) (core : Fin 4)
  /-- R386: Zillo instruction adding a sign-extended immediate. -/
  | addi (t : Nat) (core : Fin 4)
  /-- R386: Zillo instruction ANDing a zero-extended immediate. -/
  | andi (t : Nat) (core : Fin 4)
  /-- R386: Zillo instruction shifting left by an immediate. -/
  | shli (t : Nat) (core : Fin 4)
  /-- R386: Zillo instruction shifting logically right by an immediate. -/
  | shri (t : Nat) (core : Fin 4)
  /-- R386: Zillo instruction loading a sign-extended 22-bit immediate. -/
  | movi (t : Nat) (core : Fin 4)
  /-- R386: Zillo instruction setting the upper 16 bits of g_d. -/
  | movh (t : Nat) (core : Fin 4)
  /-- R366: Zillo instruction loading a 32-bit word at EA. -/
  | ldw (t : Nat) (core : Fin 4)
  /-- R366: Zillo instruction storing a 32-bit word at EA. -/
  | stw (t : Nat) (core : Fin 4)
  /-- R366: Zillo instruction loading a 64-bit word into a register pair. -/
  | ldd (t : Nat) (core : Fin 4)
  /-- R366: Zillo instruction storing a register pair as a 64-bit word. -/
  | std (t : Nat) (core : Fin 4)
  /-- R369: Zillo instruction keeping the maximum word and its repetition index. -/
  | maxm (t : Nat) (core : Fin 4)
  /-- R369: Zillo instruction keeping the minimum word and its repetition index. -/
  | minm (t : Nat) (core : Fin 4)
  /-- R386: Zillo instruction setting address register a_n. -/
  | seta (t : Nat) (core : Fin 4)
  /-- R386: Zillo instruction setting buffer register c_n and step s_n. -/
  | setc (t : Nat) (core : Fin 4)
  /-- R386: Zillo instruction reading address register a_n. -/
  | geta (t : Nat) (core : Fin 4)
  /-- R367: Zillo instruction post-modifying a_n by an offset. -/
  | adda (t : Nat) (core : Fin 4)
  /-- R368: Zillo instruction complex multiply-accumulate from two memory operands. -/
  | cmac (t : Nat) (core : Fin 4)
  /-- R368: Zillo instruction complex multiply-accumulate from two registers. -/
  | cmacr (t : Nat) (core : Fin 4)
  /-- R386: Zillo instruction clearing an accumulator. -/
  | clra (t : Nat) (core : Fin 4)
  /-- R368: Zillo instruction extracting a packed complex word from an accumulator. -/
  | extc (t : Nat) (core : Fin 4)
  /-- R368: Zillo instruction extracting one part of an accumulator to 32 bits. -/
  | extr (t : Nat) (core : Fin 4)
  /-- R386: Zillo unconditional branch. -/
  | b (t : Nat) (core : Fin 4)
  /-- R386: Zillo branch if g_a is zero. -/
  | bz (t : Nat) (core : Fin 4)
  /-- R386: Zillo branch if g_a is not zero. -/
  | bnz (t : Nat) (core : Fin 4)
  /-- R386: Zillo branch if g_a < g_b signed. -/
  | blt (t : Nat) (core : Fin 4)
  /-- R386: Zillo call writing the return address to g15. -/
  | call (t : Nat) (core : Fin 4)
  /-- R386: Zillo jump to the address in g_a. -/
  | jr (t : Nat) (core : Fin 4)
  /-- R370: Zillo instruction repeating the next instruction cnt + 1 times. -/
  | rpt (t : Nat) (core : Fin 4)
  /-- R370: Zillo instruction repeating the next instruction g_a times, clamped. -/
  | rptr (t : Nat) (core : Fin 4)
  /-- R374: Zillo instruction stopping the core clock until an enabled line is pending. -/
  | wait (t : Nat) (core : Fin 4)
  /-- R372: Zillo instruction returning from an interrupt to EPC and the main bank. -/
  | reti (t : Nat) (core : Fin 4)
  /-- R361: Zillo instruction reading a control register. -/
  | mfc (t : Nat) (core : Fin 4)
  /-- R361: Zillo instruction writing a control register. -/
  | mtc (t : Nat) (core : Fin 4)
  /-- R371: Zillo instruction latching interrupt line 3 of another core. -/
  | sig (t : Nat) (core : Fin 4)
  /-- R382: Zillo instruction halting the core and setting FW_HALT. -/
  | halt (t : Nat) (core : Fin 4)
  /-- R376: Zillo instruction opening the head packet of the core's queues. -/
  | qopen (t : Nat) (core : Fin 4)
  /-- R376: Zillo instruction reading the next 64-bit word of the open packet. -/
  | qrdd (t : Nat) (core : Fin 4)
  /-- R376: Zillo instruction copying words of the open packet into memory. -/
  | qblk (t : Nat) (core : Fin 4)
  /-- R376: Zillo instruction reporting the open packet delivered and closing it. -/
  | qdone (t : Nat) (core : Fin 4)
  /-- R378: Zillo instruction opening an output record in a KIND 14 stream. -/
  | qnew (t : Nat) (core : Fin 4)
  /-- R378: Zillo instruction appending a 64-bit word to the output record. -/
  | qwrd (t : Nat) (core : Fin 4)
  /-- R378: Zillo instruction appending words from memory to the output record. -/
  | qpblk (t : Nat) (core : Fin 4)
  /-- R379: Zillo instruction closing or discarding the output record. -/
  | qclose (t : Nat) (core : Fin 4)
  /-- R380: An undefined opcode traps the core with ILLEGAL. -/
  | illegalOpcode (t : Nat) (core : Fin 4)
  /-- R372: At an instruction boundary with an enabled line pending the core enters the shadow bank at 0x0_0020. -/
  | interruptTake (t : Nat) (core : Fin 4)
  /-- R371: The core TIMER reaches 0 and latches line 2. -/
  | coreTimerExpiry (t : Nat) (core : Fin 4)
  /-- R371: A host write to ZC_MBOX_IN word 3 latches line 1 of the core. -/
  | mboxInWrite (core : Fin 4) (value : BitVec 32)
  /-- R381: PERIOD µs pass without a WDK write and the core takes a WD reset. -/
  | watchdogExpiry (t : Nat) (core : Fin 4)
  /-- R382: A write of 1 to ZC_CTRL.RUN on a halted or trapped core clears it and starts it at 0x0_0000. -/
  | coreRun (t : Nat) (core : Fin 4)
  /-- R382: A write of 0 to ZC_CTRL.RUN halts the core at the next boundary with no output record open. -/
  | coreHaltRequest (t : Nat) (core : Fin 4)
  /-- R382: An output record still open 1 ms after the halt request is discarded and the core halts. -/
  | coreHaltTimeout (t : Nat) (core : Fin 4)
  /-- R5: A write of 1 to ZC_CYCLES.CLR sets COUNT to 0. -/
  | zcCyclesClr (t : Nat) (core : Fin 4)
  /-- R383: A ZILLO_LOAD descriptor stages, verifies and loads a bundle into a core, or completes BUSY. -/
  | zilloLoad (t : Nat) (sq : Fin 256)
  /-- R539: Verification of a staged bundle ends and its sections are written or the load fails with a code. -/
  | bundleVerifyDone (t : Nat)
  /-- R390: A doorbell write sets the tail of a submission ring. -/
  | sqTail (t : Nat) (page : Fin 256) (be : BitVec 4) (value : BitVec 32)
  /-- R390: A doorbell write sets the head of a completion ring. -/
  | cqHead (t : Nat) (page : Fin 256) (be : BitVec 4) (value : BitVec 32)
  /-- R390: A doorbell write sets the tail of a record ring. -/
  | rrTail (t : Nat) (page : Fin 256) (j : Fin 4) (be : BitVec 4) (value : BitVec 32)
  /-- R421: A write to REMOTE_DB sends, or holds for, a doorbell message to another node. -/
  | remoteDb (t : Nat) (page : Fin 256) (half : Fin 3) (be : BitVec 8) (value : BitVec 64)
  /-- R392: The device fetches up to 8 descriptors from the highest-priority eligible submission ring. -/
  | descriptorFetch (t : Nat)
  /-- R397: A NOP descriptor completes DONE. -/
  | nopDescriptor (t : Nat) (sq : Fin 256)
  /-- R408: An ABORT descriptor cancels its target if still in execution or completes ALREADY_DONE. -/
  | abort (t : Nat) (sq : Fin 256)
  /-- R587: A REG_READ descriptor reads a W0 register of this or another node. -/
  | regRead (t : Nat) (sq : Fin 256)
  /-- R587: A REG_WRITE descriptor writes a W0 register of this or another node. -/
  | regWrite (t : Nat) (sq : Fin 256)
  /-- R154: A CAPTURE_ARM descriptor discards stored segments and sets named channels to pre-fill. -/
  | captureArm (t : Nat) (sq : Fin 256)
  /-- R157: A CAPTURE_STOP descriptor stops named channels at once. -/
  | captureStop (t : Nat) (sq : Fin 256)
  /-- R158: A CAPTURE_READ descriptor sends complete named segments as segment records. -/
  | captureRead (t : Nat) (sq : Fin 256)
  /-- R398: A TRIGGER_AT descriptor hands a Plumb-timed trigger to its Tenons and, for SCOPE 1, the fabric. -/
  | triggerAt (t : Nat) (sq : Fin 256)
  /-- R399: A PULSE_AT descriptor fires a channel's pulser at T, or completes LATE or IGNORED. -/
  | pulseAt (t : Nat) (sq : Fin 256)
  /-- R400: A SYNC_AT descriptor issues a sync command for second S to this node and, for SCOPE 1, the fabric. -/
  | syncAt (t : Nat) (sq : Fin 256)
  /-- R542: An ATTEST descriptor writes a signed attestation record. -/
  | attest (t : Nat) (sq : Fin 256)
  /-- R546: SECURITY GET_ID returns own and peer public keys and the cross-signature. -/
  | getId (t : Nat) (sq : Fin 256)
  /-- R546: SECURITY ENROL_ID generates a seed into the next BLANK identity slot. -/
  | enrolId (t : Nat) (sq : Fin 256)
  /-- R546: SECURITY ENROL_OWNER makes an owner key slot LIVE. -/
  | enrolOwner (t : Nat) (sq : Fin 256)
  /-- R546: SECURITY REVOKE_OWNER makes an owner slot REVOKED. -/
  | revokeOwner (t : Nat) (sq : Fin 256)
  /-- R546: SECURITY STORE_BOOT appends a verified bundle to the boot store and writes its table entry. -/
  | storeBoot (t : Nat) (sq : Fin 256)
  /-- R546: SECURITY ADVANCE_SVN programs the rollback counter to a new SVN. -/
  | advanceSvn (t : Nat) (sq : Fin 256)
  /-- R549: SECURITY DEBUG_OPEN erases the identity, zeroises keys, counts the opening and opens debug. -/
  | debugOpen (t : Nat) (sq : Fin 256)
  /-- R550: SECURITY DEBUG_CLOSE closes debug access. -/
  | debugClose (t : Nat) (sq : Fin 256)
  /-- R470: A PROBE descriptor sends a source-routed probe, possibly assigning an ID. -/
  | probe (t : Nat) (sq : Fin 256)
  /-- R474: A FABRIC_RESET descriptor sends an authenticated FA_REQ to a node. -/
  | fabricReset (t : Nat) (sq : Fin 256)
  /-- R395: A descriptor with an unknown opcode has no effect and completes BAD_OPCODE. -/
  | badOpcode (t : Nat) (sq : Fin 256)
  /-- R405: A completion entry held in the engine is written once its ring has room. -/
  | completionEntryWrite (t : Nat) (ring : Fin 256)
  /-- R406: TIME µs after the first unsignalled entry the completion ring's MSI-X vector is written. -/
  | completionIrqTimer (t : Nat) (ring : Fin 256)
  /-- R411: A record ring with a posted buffer takes the next packet into it, closing the buffer if it does not fit. -/
  | recordRingTake (t : Nat) (ring : Fin 1024)
  /-- R411: FLUSH µs after its first record the buffer closes with a KIND 1 completion entry. -/
  | recordBufferFlush (t : Nat) (ring : Fin 1024)
  /-- R419: RING_CFG.EN from 0 to 1 resets head, tail and PHASE and clears RING_ERR. -/
  | ringEnable (t : Nat) (kind : Fin 3) (ring : Fin 1024)
  /-- R419: RING_CFG.EN to 0 stops the ring by its kind without cancelling anything. -/
  | ringDisable (t : Nat) (kind : Fin 3) (ring : Fin 1024)
  /-- R414: The host unmasks a vector whose PBA bit is set and its message is written. -/
  | msixUnmask (t : Nat) (vector : Fin 2048)
  /-- R415: A proxied host read without an answer within PROXY_TIMEOUT is reissued or fails. -/
  | proxyTimeoutRetry (t : Nat)
  /-- R417: A buffer or entry without acknowledgement within PROXY_TIMEOUT is resent or its ring halts. -/
  | hostWriteResend (t : Nat)
  /-- R416: A proxied read waiting in the gateway's proxy table is issued on PCIe when a tag frees. -/
  | proxyPcieIssue (t : Nat)
  /-- R416: A PCIe read completion arrives and is used or answered to its requesting node. -/
  | pcieReadCompletion (t : Nat) (tag : BitVec 10) (err : Bool) (data : List (BitVec 64))
  /-- R5: A write of 1 to HR_PROXY.CLR sets HIGH_WATER to 0. -/
  | hrProxyClr
  /-- R429: A receive pair loses signal, block lock or declares HI_BER, and the lane goes down and retrains. -/
  | laneLoss (t : Nat) (lane : Fin 16) (cause : Fin 3) (hdrErrs : Nat)
  /-- R428: After 64 valid sync headers the receiver gains block lock. -/
  | blockLock (t : Nat) (lane : Fin 16)
  /-- R428: After 21,212 blocks without an invalid header HI_BER clears. -/
  | hiBerClear (t : Nat) (lane : Fin 16)
  /-- R430: Training converges and the lane becomes ACTIVE. -/
  | trainingComplete (t : Nat) (lane : Fin 16)
  /-- R430: A write of 1 to LANE_CTRL.RETRAIN starts training. -/
  | retrain (t : Nat) (lane : Fin 16)
  /-- R435: A PSTATE write moves the lane between ACTIVE, QUIET and DEEP within 1 µs. -/
  | pstateWrite (t : Nat) (lane : Fin 16) (pstate : BitVec 2)
  /-- R431: After 4,096 consecutive IDLE blocks the transmitter sends TRAIN blocks in place of IDLE. -/
  | trainingIdleStart (t : Nat) (lane : Fin 16)
  /-- R432: A TRAIN block is received and checked against PRBS31 before use for adaptation. -/
  | trainBlockRx (t : Nat) (lane : Fin 16) (payload : BitVec 56)
  /-- R433: After 4,096 IDLE blocks without TRAIN the receiver freezes adaptation. -/
  | adaptationFreeze (t : Nat) (lane : Fin 16)
  /-- R437: A frame handed to a QUIET lane with AUTO_WAKE returns its transmitter to ACTIVE. -/
  | quietAutoWake (t : Nat) (lane : Fin 16)
  /-- R438: A DEEP lane with WAKE_DET sees signal for 10 µs, leaves DEEP and trains. -/
  | deepWake (t : Nat) (lane : Fin 16)
  /-- R442: A write of 1 to LANE_INJ.GO injects a BIT, BURST or HEADER error on the next block. -/
  | laneInject (t : Nat) (lane : Fin 8)
  /-- R439: A write to LANE_TEST sets generator, checker or loopback only while the lane is ISOLATED. -/
  | laneTestWrite (t : Nat) (lane : Fin 8) (value : BitVec 32)
  /-- R5: A write of 1 to LANE_CNT.CLR sets the three counts to 0. -/
  | laneCntClr (lane : Fin 8)
  /-- R5: A write of 1 to LANE_BERT CLR sets BITS and ERRORS to 0. -/
  | laneBertClr (lane : Fin 8)
  /-- R448: Every 10 µs an enabled port not yet initialised sends LINK_INIT. -/
  | linkInitTimer (t : Nat) (port : Fin 16)
  /-- R448: A LINK_INIT frame is received and the port comes UP or flags a width mismatch. -/
  | linkInit (t : Nat) (port : Fin 16) (node : BitVec 16) (peerPort : Fin 8) (width : BitVec 2) (die standby : Bool) (credits : BitVec 64)
  /-- R453: A LINK_CTL frame returns acknowledgements, NAKs and credits. -/
  | linkCtl (t : Nat) (port : Fin 16) (ackSeq : BitVec 12) (nak : Bool) (credits : BitVec 64)
  /-- R453: The receiver sends LINK_CTL every 1 µs with news or every 100 µs otherwise. -/
  | linkCtlTimer (t : Nat) (port : Fin 16)
  /-- R454: No acknowledgement progress in the replay interval causes a replay, or after eight the port goes DOWN. -/
  | replayTimeout (t : Nat) (port : Fin 16)
  /-- R460: A port goes DOWN and its queued frames are rerouted and replay frames discarded. -/
  | fabricPortDown (t : Nat) (port : Fin 16)
  /-- R458: A routed frame not for this node is received and forwarded by the route table or discarded. -/
  | frameForward (t : Nat) (port : Fin 16) (lseq : BitVec 12) (dest src : BitVec 16) (vc : Fin 4) (ty hops : BitVec 6) (first last : Bool) (tag : BitVec 14) (aux : BitVec 32) (words : List (BitVec 64))
  /-- R461: A frame held DWELL_MAX µs without starting transmission is discarded. -/
  | dwellExpiry (t : Nat) (port : Fin 16)
  /-- R470: A PROBE frame arrives; the node records its arrival port and forwards or replies. -/
  | probeFrame (t : Nat) (port : Fin 16) (lseq : BitVec 12) (src : BitVec 16) (tag : BitVec 14) (hopsLeft : BitVec 6) (fwd : BitVec 72) (hops index : BitVec 5) (assign : BitVec 16) (rev : BitVec 72)
  /-- R473: A probe reply reaches its originator and its body is written to OUT. -/
  | probeRsp (t : Nat) (port : Fin 16) (lseq : BitVec 12) (tag : BitVec 14) (words : List (BitVec 64))
  /-- R467: A broadcast frame arrives, is acted on once and flooded onward. -/
  | bcast (t : Nat) (port : Fin 16) (lseq : BitVec 12) (src : BitVec 16) (tag : BitVec 14) (hops : BitVec 6) (aux : BitVec 32) (w0 w1 : BitVec 64)
  /-- R422: A remote EVENT frame reaches the gateway, which writes the named MSI-X vector. -/
  | event (t : Nat) (port : Fin 16) (lseq : BitVec 12) (body : BitVec 64) (vector : BitVec 11) (usable : Bool)
  /-- R475: An FA_REQ authenticator arrives and is judged; FA_RSP is sent and the nonce redrawn. -/
  | faReq (t : Nat) (port : Fin 16) (lseq : BitVec 12) (src : BitVec 16) (tag : BitVec 14) (words : List (BitVec 64))
  /-- R476: An FA_RSP reaches the originator and completes its FABRIC_RESET. -/
  | faRsp (t : Nat) (port : Fin 16) (lseq : BitVec 12) (tag : BitVec 14) (accepted : Bool)
  /-- R476: After the FA_RSP leaves, an accepted fabric reset flushes frames, restarts ports and applies SCOPE. -/
  | fabricResetAct (t : Nat)
  /-- R416: A proxied host read arrives at the gateway and enters its proxy table. -/
  | hostRd (t : Nat) (port : Fin 16) (lseq : BitVec 12) (src : BitVec 16) (tag : BitVec 14) (addr : BitVec 64) (bytes : BitVec 9) (usable : Bool)
  /-- R421: A DOORBELL message sets a ring index at its node and is acknowledged. -/
  | doorbell (t : Nat) (port : Fin 16) (lseq : BitVec 12) (src : BitVec 16) (tag : BitVec 14) (value : BitVec 64)
  /-- R587: A REG_RD frame reads the node's W0 and is answered by REG_RSP. -/
  | regRd (t : Nat) (port : Fin 16) (lseq : BitVec 12) (src : BitVec 16) (tag : BitVec 14) (off : BitVec 26) (w64 : Bool)
  /-- R587: A REG_WR frame writes the node's W0 and is answered by REG_RSP. -/
  | regWr (t : Nat) (port : Fin 16) (lseq : BitVec 12) (src : BitVec 16) (tag : BitVec 14) (off : BitVec 26) (w64 : Bool) (value : BitVec 64)
  /-- R415: Data for a proxied host read arrives at the requester for a live tag. -/
  | hostRdData (t : Nat) (port : Fin 16) (lseq : BitVec 12) (tag : BitVec 14) (err : Bool) (data : List (BitVec 64))
  /-- R417: A HOST_ACK arrives and the acknowledged buffer, entry or doorbell is done. -/
  | hostAck (t : Nat) (port : Fin 16) (lseq : BitVec 12) (tag : BitVec 14)
  /-- R587: A REG_RSP arrives and completes the remote REG_READ or REG_WRITE. -/
  | regRsp (t : Nat) (port : Fin 16) (lseq : BitVec 12) (tag : BitVec 14) (value : BitVec 64)
  /-- R417: A remote completion entry arrives at the gateway, is written on PCIe and acknowledged. -/
  | entryWr (t : Nat) (port : Fin 16) (lseq : BitVec 12) (src : BitVec 16) (tag : BitVec 14) (addr w1 w2 : BitVec 64) (usable : Bool)
  /-- R422: A remote MSI-X frame arrives and the gateway writes the vector. -/
  | msix (t : Nat) (port : Fin 16) (lseq : BitVec 12) (vector : BitVec 11) (usable : Bool)
  /-- R417: Remote record-buffer data arrives at the gateway, is written on PCIe and acknowledged. -/
  | hostWr (t : Nat) (port : Fin 16) (lseq : BitVec 12) (src : BitVec 16) (tag : BitVec 14) (addr : BitVec 64) (data : List (BitVec 64)) (usable : Bool)
  /-- R469: A forwarded record arrives at an inbound slot and is admitted or discarded. -/
  | record (t : Nat) (port : Fin 16) (lseq : BitVec 12) (src : BitVec 16) (tag : BitVec 14) (first last : Bool) (slot fwd : BitVec 6) (words : List (BitVec 64))
  /-- R468: An FWD_ACK arrives and the forwarder reports its records delivered. -/
  | fwdAck (t : Nat) (port : Fin 16) (lseq : BitVec 12) (src : BitVec 16) (tag : BitVec 14) (slot : BitVec 6)
  /-- R465: A doorbell without HOST_ACK within PROXY_TIMEOUT is resent or halts with HALT. -/
  | doorbellResendTimeout (t : Nat) (page : Fin 256)
  /-- R468: An enabled forwarder with fewer than 16 unacknowledged records takes a record and sends it. -/
  | forwarderTake (t : Nat) (fwd : Fin 64)
  /-- R468: After PROXY_TIMEOUT without progress the forwarder resends its unacknowledged records. -/
  | forwarderResend (t : Nat) (fwd : Fin 64)
  /-- R5: A write of 1 to FAB_DROP.CLR sets the four discard counts to 0. -/
  | fabDropClr
  /-- R5: A write of 1 to a port's counter CLR sets REPLAYS, DISCARDS and CRC_ERRS to 0. -/
  | fabPcntClr (port : Fin 8)
  /-- R481: A VT8 Mortise leaving BOOT requests the PEG line, Mortise B after a 100 ms wait. -/
  | pegRequest (t : Nat) (die : Bool)
  /-- R483: The interlock grants PEG to a requesting standby after release or 10 µs without PEG_KEEP. -/
  | pegGrant (t : Nat)
  /-- R484: At each 10 µs cutoff the active closes the cycle's journal and sends it with a heartbeat. -/
  | duplexCutoff (t : Nat)
  /-- R494: At t_n + 5 µs the active sends a mid-cycle heartbeat as Scarf frame and PEG_KEEP pulse. -/
  | heartbeatTimer (t : Nat)
  /-- R484: The standby receives a complete cycle, applies it and acknowledges within 0.5 µs. -/
  | journalCycleRx (t : Nat)
  /-- R485: The active receives a cycle acknowledgement and performs the actions that cycle journals. -/
  | cycleAck (t : Nat)
  /-- R495: A heartbeat fails to arrive within 1 µs; two in a row make a READY standby request PEG. -/
  | heartbeatMissed (t : Nat)
  /-- R496: Three cutoffs pass without acknowledgement and the active treats the standby as LAGGING. -/
  | standbyLagTimeout (t : Nat)
  /-- R495: The active declares itself faulty, sends FAULT, releases PEG and enters ISOLATED. -/
  | activeFault (t : Nat) (kind : Fin 4)
  /-- R499: A write of 1 to DX_CTRL.SWITCH starts a planned switch-over with a FINAL cycle. -/
  | switch (t : Nat) (die : Bool)
  /-- R495: A write of 1 to DX_CTRL.FORCE_TAKE on the standby forces it to request PEG. -/
  | forceTake (t : Nat) (die : Bool)
  /-- R501: The bulk copy to the standby completes and readiness is judged. -/
  | bulkCopyDone (t : Nat)
  /-- R5: A write of 1 to DX_COUNT.CLR sets SWITCHES and UNPLANNED to 0. -/
  | dxCountClr (die : Bool)
  /-- R5: A write of 1 to DX_SCARF.CLR sets HOLD_MAX to 0. -/
  | dxScarfClr (die : Bool)
  /-- R536: On VT8 each die with a LIVE identity signs the other's public key over the Scarf link. -/
  | crossCertify (t : Nat)
  /-- R510: MODE_CTRL.REQ 2 enters SETUP, stopping streams, capture, sequencers, gates and chains. -/
  | reqSetup (t : Nat)
  /-- R511: MODE_CTRL.REQ 3 enters RUN, restarting chains and starting streams and sequencers. -/
  | reqRun (t : Nat)
  /-- R522: MODE_CTRL.REQ 5 starts entry to DORMANT with the drain. -/
  | reqDormant (t : Nat)
  /-- R512: MODE_CTRL.REQ 6 enters SERVICE. -/
  | reqService (t : Nat)
  /-- R514: MODE_CTRL.REQ 7 enters SAFE, tripping slices and stopping everything that leaves the channels. -/
  | reqSafe (t : Nat)
  /-- R513: A Tenon or the PEG Mortise stays above Tj 150 °C for 1 ms and the device enters SAFE or switches over. -/
  | overTemperature (t : Nat) (tenon : Option (Fin 6)) (die hot : Bool)
  /-- R522: After DRAIN ms or empty queues DORMANT entry closes streams and powers parts down. -/
  | dormantDrainEnd (t : Nat)
  /-- R523: DUTY_LEAD ms before a start instant a duty-cycled bent powers up for its pass. -/
  | dutyPowerUp (t : Nat) (tenon : Fin 6) (bent : Fin 16)
  /-- R523: A duty-cycled bent powers down at the end of its pass. -/
  | dutyPowerDown (t : Nat) (tenon : Fin 6) (bent : Fin 16)
  /-- R524: Plumb time reaches WAKE_SEC with WAKE_EN 1 and the node wakes from DORMANT. -/
  | wakeTimer (t : Nat)
  /-- R524: A PCIe request with HOST_WAKE 1 wakes the node from DORMANT. -/
  | wakeHost (t : Nat)
  /-- R519: A switched power domain is powered and its memories filled before use. -/
  | domainPowered (t : Nat) (kind : Fin 6) (index : Fin 96)
  /-- R517: PART_CMD ISOLATE takes the selected part out of service. -/
  | partIsolate (t : Nat)
  /-- R517: PART_CMD RELEASE returns an isolated part with its BE, DI or retrain. -/
  | partRelease (t : Nat)
  /-- R517: PART_CMD RESET applies BE, DI, core restart or lane retrain to the selected part. -/
  | partReset (t : Nat)
  /-- R516: A Tenon with no frame on any port for 1 ms powers down bent domains not running a slice. -/
  | tenonSilenceTimeout (t : Nat) (tenon : Fin 6)
  /-- R560: At each whole multiple of PERIOD seconds the active Mortise writes a health record. -/
  | healthRecord (t : Nat) (mortA mortB : BitVec 16) (ten0 ten1 ten2 ten3 ten4 ten5 : BitVec 16)
  /-- R548: TAP instruction selecting the bypass register. -/
  | bypass (t : Nat) (tdi : List Bool)
  /-- R548: TAP instruction selecting the IDCODE register. -/
  | idcode (t : Nat) (tdi : List Bool)
  /-- R548: TAP instruction sampling or preloading the boundary register. -/
  | samplePreload (t : Nat) (pins tdi : List Bool)
  /-- R548: TAP instruction driving the boundary register, only in BOOT or SETUP. -/
  | extest (t : Nat) (pins tdi : List Bool)
  /-- R548: TAP instruction clamping outputs, only in BOOT or SETUP. -/
  | clamp (t : Nat) (tdi : List Bool)
  /-- R548: TAP instruction placing outputs high-impedance, only in BOOT or SETUP. -/
  | highz (t : Nat) (tdi : List Bool)
  /-- R548: TAP instruction for internal scan, only while debug is open. -/
  | intscan (t : Nat) (tdi : List Bool)
  /-- R548: TAP instruction for Zillo debug, only while debug is open. -/
  | zdebug (t : Nat) (tdi : List Bool)
  /-- R399: When Plumb time reaches the T of an accepted PULSE_AT, the named channel's test pulser fires, subject to R58. -/
  | pulseAtFire (t : Nat) (tenon : Fin 6) (ch : Fin 128)
  /-- R36: Both balls return inside their operating range, CM_NOW clears and clamping with quality 1 stops. -/
  | commonModeReturn (t : Nat) (tenon : Fin 6) (ch : Fin 128)
  /-- R430: Receive signal appears on a lane waiting in training and acquisition starts, with the 2.5 ms bound counted from it. -/
  | laneSignalArrival (t : Nat) (lane : Fin 16)
  /-- R453: A fabric frame arrives with a CRC-32C error, an LSEQ gap or an unlisted TYPE or VC; it and later frames are discarded and a NAK is sent or the drop counted. -/
  | frameRxError (t : Nat) (port : Fin 16) (kind : Fin 3) (lseq : BitVec 12) (vc : Fin 4) (len : BitVec 12)
  /-- R420: A GW_DOWN answer from the gateway reaches the requesting node, which halts the ring concerned with CAUSE GATEWAY and sets HR_STATUS.GW_DOWN. -/
  | gwDownAnswer (t : Nat) (port : Fin 16) (lseq : BitVec 12) (tag : BitVec 14)
  /-- R466: PROXY_TIMEOUT after a resend the node lifts its hold on frames to the same host addresses, doorbell or buffer entry. -/
  | resendHoldExpiry (t : Nat)
  /-- R533: A signature, verification or fuse-programming operation of the security island completes and its descriptor, judgement or record proceeds. -/
  | securityOpDone (t : Nat)
  /-- R559: A radiation upset flips a stored bit of a protected memory or shim buffer, to be found at the next read or scrub. -/
  | singleEventUpset (t : Nat) (mem : Fin 48) (addr : Nat) (mask : BitVec 80)
  deriving DecidableEq, Repr

end Sys2Proof
end

