-- ==== Sys2Proof/Decode.lean ====
section
/-! DEFINITION. Words to commands, and the 32-bit instructions of the Zillo cores with their encoding (R386). No row
of spec/opcode_table.json gives bits, so no word spells a command: a core's instruction lies in its core memory. -/

namespace Sys2Proof

/-- The command a word spells by the table's bits: none, since the table gives its rows no bits. -/
def decodeTableWord (_nbits _w : Nat) : Option Instr := none

/-- An instruction of a Zillo core with its fields (R386). -/
inductive ZOp where
  | nop
  | add (d : Fin 16) (a : Fin 16) (b : Fin 16)
  | sub (d : Fin 16) (a : Fin 16) (b : Fin 16)
  | and (d : Fin 16) (a : Fin 16) (b : Fin 16)
  | or (d : Fin 16) (a : Fin 16) (b : Fin 16)
  | xor (d : Fin 16) (a : Fin 16) (b : Fin 16)
  | shl (d : Fin 16) (a : Fin 16) (b : Fin 16)
  | shr (d : Fin 16) (a : Fin 16) (b : Fin 16)
  | sar (d : Fin 16) (a : Fin 16) (b : Fin 16)
  | mul (d : Fin 16) (a : Fin 16) (b : Fin 16)
  | clt (d : Fin 16) (a : Fin 16) (b : Fin 16)
  | addi (d : Fin 16) (a : Fin 16) (imm : BitVec 18)
  | andi (d : Fin 16) (a : Fin 16) (imm : BitVec 18)
  | shli (d : Fin 16) (a : Fin 16) (imm : BitVec 18)
  | shri (d : Fin 16) (a : Fin 16) (imm : BitVec 18)
  | movi (d : Fin 16) (imm : BitVec 22)
  | movh (d : Fin 16) (imm : BitVec 16)
  | ldw (d : Fin 16) (n : Fin 8) (am : Fin 8) (off : BitVec 16)
  | stw (d : Fin 16) (n : Fin 8) (am : Fin 8) (off : BitVec 16)
  | ldd (d : Fin 16) (n : Fin 8) (am : Fin 8) (off : BitVec 16)
  | std (d : Fin 16) (n : Fin 8) (am : Fin 8) (off : BitVec 16)
  | maxm (d : Fin 16) (n : Fin 8) (am : Fin 8) (off : BitVec 16)
  | minm (d : Fin 16) (n : Fin 8) (am : Fin 8) (off : BitVec 16)
  | seta (n : Fin 8) (a : Fin 16)
  | setc (n : Fin 8) (a : Fin 16) (b : Fin 16)
  | geta (d : Fin 16) (n : Fin 8)
  | adda (n : Fin 8) (off : BitVec 16)
  | cmac (k : Fin 4) (n : Fin 8) (m : Fin 8) (cj : Bool) (px : Bool) (py : Bool) (sub : Bool)
  | cmacr (k : Fin 4) (a : Fin 16) (b : Fin 16) (cj : Bool) (sub : Bool)
  | clra (k : Fin 4)
  | extc (d : Fin 16) (k : Fin 4) (s : Fin 32)
  | extr (d : Fin 16) (k : Fin 4) (im : Bool) (s : Fin 32)
  | b (disp : BitVec 26)
  | bz (a : Fin 16) (disp : BitVec 22)
  | bnz (a : Fin 16) (disp : BitVec 22)
  | blt (a : Fin 16) (b : Fin 16) (disp : BitVec 18)
  | call (disp : BitVec 26)
  | jr (a : Fin 16)
  | rpt (cnt : BitVec 16)
  | rptr (a : Fin 16)
  | wait
  | reti
  | mfc (d : Fin 16) (creg : Fin 32)
  | mtc (a : Fin 16) (creg : Fin 32)
  | sig (z : Fin 4)
  | halt
  | qopen (d : Fin 16)
  | qrdd (d : Fin 16)
  | qblk (a : Fin 16) (n : Fin 8)
  | qdone
  | qnew (a : Fin 16)
  | qwrd (a : Fin 16)
  | qpblk (a : Fin 16) (n : Fin 8)
  | qclose (x : Bool)
  deriving DecidableEq, Repr

/-- What decoding also demands of the fields: d even in a pair instruction, AM from 0 to 3, a control register that
exists (R361, R366, R380). -/
def ZOp.wf : ZOp → Bool
  | .nop => true
  | .add _ _ _ => true
  | .sub _ _ _ => true
  | .and _ _ _ => true
  | .or _ _ _ => true
  | .xor _ _ _ => true
  | .shl _ _ _ => true
  | .shr _ _ _ => true
  | .sar _ _ _ => true
  | .mul _ _ _ => true
  | .clt _ _ _ => true
  | .addi _ _ _ => true
  | .andi _ _ _ => true
  | .shli _ _ _ => true
  | .shri _ _ _ => true
  | .movi _ _ => true
  | .movh _ _ => true
  | .ldw _ _ am _ => decide (am.val < 4)
  | .stw _ _ am _ => decide (am.val < 4)
  | .ldd d _ am _ => d.val % 2 == 0 && decide (am.val < 4)
  | .std d _ am _ => d.val % 2 == 0 && decide (am.val < 4)
  | .maxm d _ am _ => d.val % 2 == 0 && decide (am.val < 4)
  | .minm d _ am _ => d.val % 2 == 0 && decide (am.val < 4)
  | .seta _ _ => true
  | .setc _ _ _ => true
  | .geta _ _ => true
  | .adda _ _ => true
  | .cmac _ _ _ _ _ _ _ => true
  | .cmacr _ _ _ _ _ => true
  | .clra _ => true
  | .extc _ _ _ => true
  | .extr _ _ _ _ => true
  | .b _ => true
  | .bz _ _ => true
  | .bnz _ _ => true
  | .blt _ _ _ => true
  | .call _ => true
  | .jr _ => true
  | .rpt _ => true
  | .rptr _ => true
  | .wait => true
  | .reti => true
  | .mfc _ creg => decide (creg.val < 23)
  | .mtc _ creg => decide (creg.val < 23)
  | .sig _ => true
  | .halt => true
  | .qopen _ => true
  | .qrdd d => d.val % 2 == 0
  | .qblk _ _ => true
  | .qdone => true
  | .qnew _ => true
  | .qwrd a => a.val % 2 == 0
  | .qpblk _ _ => true
  | .qclose _ => true

/-- Whether an instruction is marked R: RPT may repeat it (R370, R386). -/
def ZOp.repeatable : ZOp → Bool
  | .nop => true
  | .add _ _ _ => true
  | .sub _ _ _ => true
  | .and _ _ _ => true
  | .or _ _ _ => true
  | .xor _ _ _ => true
  | .shl _ _ _ => true
  | .shr _ _ _ => true
  | .sar _ _ _ => true
  | .mul _ _ _ => true
  | .clt _ _ _ => true
  | .addi _ _ _ => true
  | .andi _ _ _ => true
  | .shli _ _ _ => true
  | .shri _ _ _ => true
  | .movi _ _ => true
  | .movh _ _ => true
  | .ldw _ _ _ _ => true
  | .stw _ _ _ _ => true
  | .ldd _ _ _ _ => true
  | .std _ _ _ _ => true
  | .maxm _ _ _ _ => true
  | .minm _ _ _ _ => true
  | .seta _ _ => true
  | .setc _ _ _ => true
  | .geta _ _ => true
  | .adda _ _ => true
  | .cmac _ _ _ _ _ _ _ => true
  | .cmacr _ _ _ _ _ => true
  | .clra _ => true
  | .extc _ _ _ => true
  | .extr _ _ _ _ => true
  | .b _ => false
  | .bz _ _ => false
  | .bnz _ _ => false
  | .blt _ _ _ => false
  | .call _ => false
  | .jr _ => false
  | .rpt _ => false
  | .rptr _ => false
  | .wait => false
  | .reti => false
  | .mfc _ _ => false
  | .mtc _ _ => false
  | .sig _ => false
  | .halt => false
  | .qopen _ => false
  | .qrdd _ => false
  | .qblk _ _ => false
  | .qdone => false
  | .qnew _ => false
  | .qwrd _ => false
  | .qpblk _ _ => false
  | .qclose _ => false

/-- A field's value put at bit lo of a word. -/
def fieldAt (v lo : Nat) : Nat := v * 2 ^ lo

/-- The bits of a word from bit lo on. -/
def fieldsFrom (w lo : Nat) : Nat := w / 2 ^ lo

/-- The word of an instruction: opcode in [31:26] and its fields (R386). -/
def zEncode : ZOp → Nat
  | .nop => fieldAt 0x00 26
  | .add d a b => fieldAt 0x01 26 + fieldAt (d.val) 22 + fieldAt (a.val) 18 + fieldAt (b.val) 14
  | .sub d a b => fieldAt 0x02 26 + fieldAt (d.val) 22 + fieldAt (a.val) 18 + fieldAt (b.val) 14
  | .and d a b => fieldAt 0x03 26 + fieldAt (d.val) 22 + fieldAt (a.val) 18 + fieldAt (b.val) 14
  | .or d a b => fieldAt 0x04 26 + fieldAt (d.val) 22 + fieldAt (a.val) 18 + fieldAt (b.val) 14
  | .xor d a b => fieldAt 0x05 26 + fieldAt (d.val) 22 + fieldAt (a.val) 18 + fieldAt (b.val) 14
  | .shl d a b => fieldAt 0x06 26 + fieldAt (d.val) 22 + fieldAt (a.val) 18 + fieldAt (b.val) 14
  | .shr d a b => fieldAt 0x07 26 + fieldAt (d.val) 22 + fieldAt (a.val) 18 + fieldAt (b.val) 14
  | .sar d a b => fieldAt 0x08 26 + fieldAt (d.val) 22 + fieldAt (a.val) 18 + fieldAt (b.val) 14
  | .mul d a b => fieldAt 0x09 26 + fieldAt (d.val) 22 + fieldAt (a.val) 18 + fieldAt (b.val) 14
  | .clt d a b => fieldAt 0x0A 26 + fieldAt (d.val) 22 + fieldAt (a.val) 18 + fieldAt (b.val) 14
  | .addi d a imm => fieldAt 0x10 26 + fieldAt (d.val) 22 + fieldAt (a.val) 18 + imm.toNat
  | .andi d a imm => fieldAt 0x11 26 + fieldAt (d.val) 22 + fieldAt (a.val) 18 + imm.toNat
  | .shli d a imm => fieldAt 0x12 26 + fieldAt (d.val) 22 + fieldAt (a.val) 18 + imm.toNat
  | .shri d a imm => fieldAt 0x13 26 + fieldAt (d.val) 22 + fieldAt (a.val) 18 + imm.toNat
  | .movi d imm => fieldAt 0x14 26 + fieldAt (d.val) 22 + imm.toNat
  | .movh d imm => fieldAt 0x15 26 + fieldAt (d.val) 22 + imm.toNat
  | .ldw d n am off => fieldAt 0x18 26 + fieldAt (d.val) 22 + fieldAt (n.val) 19 + fieldAt (am.val) 16 + off.toNat
  | .stw d n am off => fieldAt 0x19 26 + fieldAt (d.val) 22 + fieldAt (n.val) 19 + fieldAt (am.val) 16 + off.toNat
  | .ldd d n am off => fieldAt 0x1A 26 + fieldAt (d.val) 22 + fieldAt (n.val) 19 + fieldAt (am.val) 16 + off.toNat
  | .std d n am off => fieldAt 0x1B 26 + fieldAt (d.val) 22 + fieldAt (n.val) 19 + fieldAt (am.val) 16 + off.toNat
  | .maxm d n am off => fieldAt 0x1C 26 + fieldAt (d.val) 22 + fieldAt (n.val) 19 + fieldAt (am.val) 16 + off.toNat
  | .minm d n am off => fieldAt 0x1D 26 + fieldAt (d.val) 22 + fieldAt (n.val) 19 + fieldAt (am.val) 16 + off.toNat
  | .seta n a => fieldAt 0x20 26 + fieldAt (n.val) 22 + fieldAt (a.val) 18
  | .setc n a b => fieldAt 0x21 26 + fieldAt (n.val) 22 + fieldAt (a.val) 18 + fieldAt (b.val) 14
  | .geta d n => fieldAt 0x22 26 + fieldAt (d.val) 22 + fieldAt (n.val) 19
  | .adda n off => fieldAt 0x23 26 + fieldAt (n.val) 22 + off.toNat
  | .cmac k n m cj px py sub => fieldAt 0x24 26 + fieldAt (k.val) 24 + fieldAt (n.val) 21 + fieldAt (m.val) 18 + fieldAt (b2n cj) 17 + fieldAt (b2n px) 16 + fieldAt (b2n py) 15 + fieldAt (b2n sub) 14
  | .cmacr k a b cj sub => fieldAt 0x25 26 + fieldAt (k.val) 24 + fieldAt (a.val) 18 + fieldAt (b.val) 14 + fieldAt (b2n cj) 13 + fieldAt (b2n sub) 12
  | .clra k => fieldAt 0x26 26 + fieldAt (k.val) 24
  | .extc d k s => fieldAt 0x27 26 + fieldAt (d.val) 22 + fieldAt (k.val) 20 + s.val
  | .extr d k im s => fieldAt 0x28 26 + fieldAt (d.val) 22 + fieldAt (k.val) 20 + fieldAt (b2n im) 5 + s.val
  | .b disp => fieldAt 0x29 26 + disp.toNat
  | .bz a disp => fieldAt 0x2A 26 + fieldAt (a.val) 22 + disp.toNat
  | .bnz a disp => fieldAt 0x2B 26 + fieldAt (a.val) 22 + disp.toNat
  | .blt a b disp => fieldAt 0x2C 26 + fieldAt (a.val) 22 + fieldAt (b.val) 18 + disp.toNat
  | .call disp => fieldAt 0x2D 26 + disp.toNat
  | .jr a => fieldAt 0x2E 26 + fieldAt (a.val) 18
  | .rpt cnt => fieldAt 0x2F 26 + cnt.toNat
  | .rptr a => fieldAt 0x30 26 + fieldAt (a.val) 18
  | .wait => fieldAt 0x31 26
  | .reti => fieldAt 0x32 26
  | .mfc d creg => fieldAt 0x33 26 + fieldAt (d.val) 22 + creg.val
  | .mtc a creg => fieldAt 0x34 26 + fieldAt (a.val) 18 + creg.val
  | .sig z => fieldAt 0x35 26 + z.val
  | .halt => fieldAt 0x36 26
  | .qopen d => fieldAt 0x38 26 + fieldAt (d.val) 22
  | .qrdd d => fieldAt 0x39 26 + fieldAt (d.val) 22
  | .qblk a n => fieldAt 0x3A 26 + fieldAt (a.val) 22 + fieldAt (n.val) 19
  | .qdone => fieldAt 0x3B 26
  | .qnew a => fieldAt 0x3C 26 + fieldAt (a.val) 18
  | .qwrd a => fieldAt 0x3D 26 + fieldAt (a.val) 18
  | .qpblk a n => fieldAt 0x3E 26 + fieldAt (a.val) 22 + fieldAt (n.val) 19
  | .qclose x => fieldAt 0x3F 26 + b2n x

/-- The fields of a word by its opcode; a bit outside the instruction's fields must be 0 (R380, R386). -/
def zFields (w : Nat) : Option ZOp :=
  let op := bitsAt w 26 6
  if op = 0x00 then if bitsAt w 0 26 == 0 then some (.nop) else none
  else if op = 0x01 then if bitsAt w 0 14 == 0 then some (.add (Fin.ofNat 16 (fieldsFrom w 22)) (Fin.ofNat 16 (fieldsFrom w 18)) (Fin.ofNat 16 (fieldsFrom w 14))) else none
  else if op = 0x02 then if bitsAt w 0 14 == 0 then some (.sub (Fin.ofNat 16 (fieldsFrom w 22)) (Fin.ofNat 16 (fieldsFrom w 18)) (Fin.ofNat 16 (fieldsFrom w 14))) else none
  else if op = 0x03 then if bitsAt w 0 14 == 0 then some (.and (Fin.ofNat 16 (fieldsFrom w 22)) (Fin.ofNat 16 (fieldsFrom w 18)) (Fin.ofNat 16 (fieldsFrom w 14))) else none
  else if op = 0x04 then if bitsAt w 0 14 == 0 then some (.or (Fin.ofNat 16 (fieldsFrom w 22)) (Fin.ofNat 16 (fieldsFrom w 18)) (Fin.ofNat 16 (fieldsFrom w 14))) else none
  else if op = 0x05 then if bitsAt w 0 14 == 0 then some (.xor (Fin.ofNat 16 (fieldsFrom w 22)) (Fin.ofNat 16 (fieldsFrom w 18)) (Fin.ofNat 16 (fieldsFrom w 14))) else none
  else if op = 0x06 then if bitsAt w 0 14 == 0 then some (.shl (Fin.ofNat 16 (fieldsFrom w 22)) (Fin.ofNat 16 (fieldsFrom w 18)) (Fin.ofNat 16 (fieldsFrom w 14))) else none
  else if op = 0x07 then if bitsAt w 0 14 == 0 then some (.shr (Fin.ofNat 16 (fieldsFrom w 22)) (Fin.ofNat 16 (fieldsFrom w 18)) (Fin.ofNat 16 (fieldsFrom w 14))) else none
  else if op = 0x08 then if bitsAt w 0 14 == 0 then some (.sar (Fin.ofNat 16 (fieldsFrom w 22)) (Fin.ofNat 16 (fieldsFrom w 18)) (Fin.ofNat 16 (fieldsFrom w 14))) else none
  else if op = 0x09 then if bitsAt w 0 14 == 0 then some (.mul (Fin.ofNat 16 (fieldsFrom w 22)) (Fin.ofNat 16 (fieldsFrom w 18)) (Fin.ofNat 16 (fieldsFrom w 14))) else none
  else if op = 0x0A then if bitsAt w 0 14 == 0 then some (.clt (Fin.ofNat 16 (fieldsFrom w 22)) (Fin.ofNat 16 (fieldsFrom w 18)) (Fin.ofNat 16 (fieldsFrom w 14))) else none
  else if op = 0x10 then some (.addi (Fin.ofNat 16 (fieldsFrom w 22)) (Fin.ofNat 16 (fieldsFrom w 18)) (BitVec.ofNat 18 w))
  else if op = 0x11 then some (.andi (Fin.ofNat 16 (fieldsFrom w 22)) (Fin.ofNat 16 (fieldsFrom w 18)) (BitVec.ofNat 18 w))
  else if op = 0x12 then some (.shli (Fin.ofNat 16 (fieldsFrom w 22)) (Fin.ofNat 16 (fieldsFrom w 18)) (BitVec.ofNat 18 w))
  else if op = 0x13 then some (.shri (Fin.ofNat 16 (fieldsFrom w 22)) (Fin.ofNat 16 (fieldsFrom w 18)) (BitVec.ofNat 18 w))
  else if op = 0x14 then some (.movi (Fin.ofNat 16 (fieldsFrom w 22)) (BitVec.ofNat 22 w))
  else if op = 0x15 then if bitsAt w 16 6 == 0 then some (.movh (Fin.ofNat 16 (fieldsFrom w 22)) (BitVec.ofNat 16 w)) else none
  else if op = 0x18 then some (.ldw (Fin.ofNat 16 (fieldsFrom w 22)) (Fin.ofNat 8 (fieldsFrom w 19)) (Fin.ofNat 8 (fieldsFrom w 16)) (BitVec.ofNat 16 w))
  else if op = 0x19 then some (.stw (Fin.ofNat 16 (fieldsFrom w 22)) (Fin.ofNat 8 (fieldsFrom w 19)) (Fin.ofNat 8 (fieldsFrom w 16)) (BitVec.ofNat 16 w))
  else if op = 0x1A then some (.ldd (Fin.ofNat 16 (fieldsFrom w 22)) (Fin.ofNat 8 (fieldsFrom w 19)) (Fin.ofNat 8 (fieldsFrom w 16)) (BitVec.ofNat 16 w))
  else if op = 0x1B then some (.std (Fin.ofNat 16 (fieldsFrom w 22)) (Fin.ofNat 8 (fieldsFrom w 19)) (Fin.ofNat 8 (fieldsFrom w 16)) (BitVec.ofNat 16 w))
  else if op = 0x1C then some (.maxm (Fin.ofNat 16 (fieldsFrom w 22)) (Fin.ofNat 8 (fieldsFrom w 19)) (Fin.ofNat 8 (fieldsFrom w 16)) (BitVec.ofNat 16 w))
  else if op = 0x1D then some (.minm (Fin.ofNat 16 (fieldsFrom w 22)) (Fin.ofNat 8 (fieldsFrom w 19)) (Fin.ofNat 8 (fieldsFrom w 16)) (BitVec.ofNat 16 w))
  else if op = 0x20 then if bitsAt w 0 18 == 0 && bitsAt w 25 1 == 0 then some (.seta (Fin.ofNat 8 (fieldsFrom w 22)) (Fin.ofNat 16 (fieldsFrom w 18))) else none
  else if op = 0x21 then if bitsAt w 0 14 == 0 && bitsAt w 25 1 == 0 then some (.setc (Fin.ofNat 8 (fieldsFrom w 22)) (Fin.ofNat 16 (fieldsFrom w 18)) (Fin.ofNat 16 (fieldsFrom w 14))) else none
  else if op = 0x22 then if bitsAt w 0 19 == 0 then some (.geta (Fin.ofNat 16 (fieldsFrom w 22)) (Fin.ofNat 8 (fieldsFrom w 19))) else none
  else if op = 0x23 then if bitsAt w 16 6 == 0 && bitsAt w 25 1 == 0 then some (.adda (Fin.ofNat 8 (fieldsFrom w 22)) (BitVec.ofNat 16 w)) else none
  else if op = 0x24 then if bitsAt w 0 14 == 0 then some (.cmac (Fin.ofNat 4 (fieldsFrom w 24)) (Fin.ofNat 8 (fieldsFrom w 21)) (Fin.ofNat 8 (fieldsFrom w 18)) (bitAt w 17) (bitAt w 16) (bitAt w 15) (bitAt w 14)) else none
  else if op = 0x25 then if bitsAt w 0 12 == 0 && bitsAt w 22 2 == 0 then some (.cmacr (Fin.ofNat 4 (fieldsFrom w 24)) (Fin.ofNat 16 (fieldsFrom w 18)) (Fin.ofNat 16 (fieldsFrom w 14)) (bitAt w 13) (bitAt w 12)) else none
  else if op = 0x26 then if bitsAt w 0 24 == 0 then some (.clra (Fin.ofNat 4 (fieldsFrom w 24))) else none
  else if op = 0x27 then if bitsAt w 5 15 == 0 then some (.extc (Fin.ofNat 16 (fieldsFrom w 22)) (Fin.ofNat 4 (fieldsFrom w 20)) (Fin.ofNat 32 w)) else none
  else if op = 0x28 then if bitsAt w 6 14 == 0 then some (.extr (Fin.ofNat 16 (fieldsFrom w 22)) (Fin.ofNat 4 (fieldsFrom w 20)) (bitAt w 5) (Fin.ofNat 32 w)) else none
  else if op = 0x29 then some (.b (BitVec.ofNat 26 w))
  else if op = 0x2A then some (.bz (Fin.ofNat 16 (fieldsFrom w 22)) (BitVec.ofNat 22 w))
  else if op = 0x2B then some (.bnz (Fin.ofNat 16 (fieldsFrom w 22)) (BitVec.ofNat 22 w))
  else if op = 0x2C then some (.blt (Fin.ofNat 16 (fieldsFrom w 22)) (Fin.ofNat 16 (fieldsFrom w 18)) (BitVec.ofNat 18 w))
  else if op = 0x2D then some (.call (BitVec.ofNat 26 w))
  else if op = 0x2E then if bitsAt w 0 18 == 0 && bitsAt w 22 4 == 0 then some (.jr (Fin.ofNat 16 (fieldsFrom w 18))) else none
  else if op = 0x2F then if bitsAt w 16 10 == 0 then some (.rpt (BitVec.ofNat 16 w)) else none
  else if op = 0x30 then if bitsAt w 0 18 == 0 && bitsAt w 22 4 == 0 then some (.rptr (Fin.ofNat 16 (fieldsFrom w 18))) else none
  else if op = 0x31 then if bitsAt w 0 26 == 0 then some (.wait) else none
  else if op = 0x32 then if bitsAt w 0 26 == 0 then some (.reti) else none
  else if op = 0x33 then if bitsAt w 5 17 == 0 then some (.mfc (Fin.ofNat 16 (fieldsFrom w 22)) (Fin.ofNat 32 w)) else none
  else if op = 0x34 then if bitsAt w 5 13 == 0 && bitsAt w 22 4 == 0 then some (.mtc (Fin.ofNat 16 (fieldsFrom w 18)) (Fin.ofNat 32 w)) else none
  else if op = 0x35 then if bitsAt w 2 24 == 0 then some (.sig (Fin.ofNat 4 w)) else none
  else if op = 0x36 then if bitsAt w 0 26 == 0 then some (.halt) else none
  else if op = 0x38 then if bitsAt w 0 22 == 0 then some (.qopen (Fin.ofNat 16 (fieldsFrom w 22))) else none
  else if op = 0x39 then if bitsAt w 0 22 == 0 then some (.qrdd (Fin.ofNat 16 (fieldsFrom w 22))) else none
  else if op = 0x3A then if bitsAt w 0 19 == 0 then some (.qblk (Fin.ofNat 16 (fieldsFrom w 22)) (Fin.ofNat 8 (fieldsFrom w 19))) else none
  else if op = 0x3B then if bitsAt w 0 26 == 0 then some (.qdone) else none
  else if op = 0x3C then if bitsAt w 0 18 == 0 && bitsAt w 22 4 == 0 then some (.qnew (Fin.ofNat 16 (fieldsFrom w 18))) else none
  else if op = 0x3D then if bitsAt w 0 18 == 0 && bitsAt w 22 4 == 0 then some (.qwrd (Fin.ofNat 16 (fieldsFrom w 18))) else none
  else if op = 0x3E then if bitsAt w 0 19 == 0 then some (.qpblk (Fin.ofNat 16 (fieldsFrom w 22)) (Fin.ofNat 8 (fieldsFrom w 19))) else none
  else if op = 0x3F then if bitsAt w 1 25 == 0 then some (.qclose (bitAt w 0)) else none
  else none

/-- The instruction a 32-bit word spells, none where the core traps ILLEGAL (R380). -/
def zDecode (w : Nat) : Option ZOp :=
  match zFields w with
  | none => none
  | some i => if i.wf then some i else none

end Sys2Proof
end

