-- ==== Sys2Proof/Machine/EccCode.lean ====
section
/-! DEFINITION. The memory code (R315 to R319): encoding and decoding of an 80-bit code word. -/

namespace Sys2Proof.Machine

open Sys2Proof

/-- The generator polynomial g(x) as bits (R315). -/
def eccGen : Nat := 2 ^ 14 + 2 ^ 9 + 2 ^ 8 + 2 ^ 6 + 2 ^ 5 + 2 ^ 4 + 2 ^ 2 + 2 + 1

/-- x^(k+p) mod g from x^p mod g. -/
def eccShift : Nat → Nat → Nat
  | 0, r => r
  | k + 1, r => eccShift k (let r2 := 2 * r; if r2.testBit 14 then r2 ^^^ eccGen else r2)

/-- x^p mod g(x). -/
def eccPow (p : Nat) : Nat := eccShift p 1

/-- The remainder mod g(x) of a polynomial of n bits, highest bit first. -/
def eccMod (v : Nat) : Nat → Nat → Nat
  | 0, r => r
  | n + 1, r =>
    let r2 := 2 * r + b2n (v.testBit n)
    eccMod v n (if r2.testBit 14 then r2 ^^^ eccGen else r2)

/-- The parity of the low n bits of v. -/
def parity (v : Nat) : Nat → Bool
  | 0 => false
  | n + 1 => xor (v.testBit n) (parity v n)

/-- The stored word of 64 data bits at word address a (R316, R317). -/
def eccEncode (d a : Nat) : Nat :=
  let ap := b2n (parity a 32)
  let c := eccMod ((d % 2 ^ 64) * 2 ^ 14 + ap * 2 ^ 78) 79 0
  let p := b2n (xor (xor (parity d 64) (parity c 14)) (ap == 1))
  d % 2 ^ 64 + c * 2 ^ 64 + ap * 2 ^ 78 + p * 2 ^ 79

/-- The received polynomial of a stored word (R317, R318). -/
def eccPoly (w : Nat) : Nat := bitsAt w 64 14 + (w % 2 ^ 64) * 2 ^ 14 + bitsAt w 78 1 * 2 ^ 78

/-- The stored word of a code polynomial, without P. -/
def eccUnpoly (v : Nat) : Nat := bitsAt v 14 64 + v % 2 ^ 14 * 2 ^ 64 + bitsAt v 78 1 * 2 ^ 78

/-- Code positions below n whose remainder is s. -/
def eccFind (s : Nat) : Nat → Option Nat
  | 0 => none
  | n + 1 => if eccPow n = s then some n else eccFind s n

/-- Two code positions below n whose remainders sum to s, the greater first. -/
def eccFind2 (s : Nat) : Nat → Option (Nat × Nat)
  | 0 => none
  | n + 1 =>
    match eccFind (s ^^^ eccPow n) n with
    | some p => some (n, p)
    | none => eccFind2 s n

/-- What a read finds. -/
inductive EccOut where
  | clean | single | double | addrFault | uncorr
  deriving DecidableEq, Repr

/-- The decoder on a stored word read at address a (R318, R319): the data delivered and the outcome. The two
positions that S1 and S3 give are the two whose remainders sum to s(x), since any two pairs of the length-127 code
differ in s(x). -/
def eccDecode (w a : Nat) : Nat × EccOut :=
  let v := eccPoly w
  let s := eccMod v 79 0
  let odd := parity w 80
  let fin (v : Nat) (o : EccOut) : Nat × EccOut :=
    if v.testBit 78 = parity a 32 then (bitsAt v 14 64, o) else (bitsAt v 14 64, .addrFault)
  if s = 0 then fin v (if odd then .single else .clean)
  else
    match eccFind s 79 with
    | some p => fin (v ^^^ 2 ^ p) (if odd then .single else .double)
    | none =>
      if odd then (bitsAt v 14 64, .uncorr)
      else
        match eccFind2 s 79 with
        | some (p, q) => fin (v ^^^ 2 ^ p ^^^ 2 ^ q) .double
        | none => (bitsAt v 14 64, .uncorr)

end Sys2Proof.Machine
end

