-- ==== Sys2Proof/Config.lean ====
section
/-! DEFINITION. What the manual leaves to the part or leaves open. Every value here is opaque: no proof and no run
can see it, so a statement holds whatever it is. notes/assumptions/1.md to 9.md name them. -/

namespace Sys2Proof.Config

/-- An open value of w bits, the n-th drawn in a run (State.free counts them). Log entry 2. -/
opaque freeBits : Nat → Nat → Nat

/-- An open value that a measured register field, or another read of something open, gives at an instant: by a number for
what is read (a field id, or one above all of them), its copy or address, and the instant. Log entry 2. -/
opaque openRead : Nat → Nat → Nat → Nat

/-- Which of a bank's free cells is taken, at the n-th cell taken (R303). Log entry 2. -/
opaque freeCell : Nat → Nat

/-- A random value of w bits at draw n: nonces and seeds (R475, R534, R543). Log entry 2. -/
opaque randomBits : Nat → Nat → Nat

/-- The value that a random register field holds at reset, by field id and copy: the nonces (R475, R534). Log entry 2. -/
opaque randomReset : Nat → Nat → Nat

/-- A factory constant of the part, fused in OTP: field id and field number (R100, R177). Log entry 3. -/
opaque factory : Nat → Nat → Nat

/-- OTP word i of the fused region named by kind (R534, R544). Log entry 3. -/
opaque otp : Nat → Nat → Nat

/-- The 14 free taps of HB1 and the 24 of HB2, Q1.17, tap i counted from the middle outwards (R108). Log entry 4. -/
opaque hbTap : Nat → Nat → Int

/-- The taps of built-in FIR set s, Q1.23, counted from the middle outwards (R109). Log entry 4. -/
opaque firTap : Nat → Nat → Int

/-- The phase loop's filter (R262): the filtered offset after a new offset, from the time constant in seconds, the
filtered offset so far and the new offset. Log entry 6. -/
opaque plumbFilter : Nat → Int → Int → Int

/-- The frequency loop (R255), of which the manual gives bandwidth, peaking and resolution: its steering in 10⁻¹² after the
phase readings of lane 0 of the port in use, from the steering so far and the readings, oldest first. Log entry 6. -/
opaque phaseLoop : Int → List Int → Int

/-- The payload of LINK_INIT (R448), whose layout the manual does not give: from the node ID, the port, WIDTH, the die and
STANDBY. Log entry 7. -/
opaque linkInit : Nat → Nat → Nat → Nat → Nat → List Nat

/-- The retained fields that word a of retention memory holds (R529), whose layout the manual does not give: the keys of
their copies in the register map. Log entry 8. -/
opaque retained : Nat → List Nat

/-- AUX of an answer that says GW_DOWN (R420), whose encoding the manual does not give. Log entry 7. -/
opaque gwDownAux : Nat

/-- What a lane's equaliser holds after its k-th adaptation, k = 0 its defaults: coefficient 0 the peaking, in units of 0.5 dB,
1 to 12 the taps of the decision feedback (R434). Log entry 98. -/
opaque equaliser : Nat → Nat → Nat

/-- What the host has set in the endpoint's PCI Express capability at an instant (R387): 0 the maximum read request size and 1 the
maximum payload size, both as powers of two from 128 bytes up, 2 whether relaxed ordering is enabled. Log entry 92. -/
opaque pcieSetting : Nat → Nat → Nat

end Sys2Proof.Config
end

