-- ==== Sys2Proof/Machine/SMap.lean ====
section
/-! DEFINITION. Sparse maps from numbers to values: a list of key and value pairs with rising keys, in which no pair
holds the value an unlisted key reads as. Registers, channels, queues and memories are held in them. -/

namespace Sys2Proof.Machine

/-- The pairs of a sparse map, keys rising. -/
abbrev SMap (α : Type) := List (Nat × α)

/-- The value at key k, d where the map lists none. -/
def smapGet {α : Type} (d : α) (m : SMap α) (k : Nat) : α :=
  match m with
  | [] => d
  | p :: m => if p.1 = k then p.2 else smapGet d m k

/-- A pair put before the first pair with a greater key. -/
def smapInsert {α : Type} (k : Nat) (v : α) (m : SMap α) : SMap α :=
  match m with
  | [] => [(k, v)]
  | p :: m => if k < p.1 then (k, v) :: p :: m else p :: smapInsert k v m

/-- The map without key k. -/
def smapErase {α : Type} (m : SMap α) (k : Nat) : SMap α := m.filter (fun p => p.1 ≠ k)

/-- The map with v at key k; writing d unlists the key. -/
def smapSet {α : Type} [DecidableEq α] (d : α) (m : SMap α) (k : Nat) (v : α) : SMap α :=
  if v = d then smapErase m k else smapInsert k v (smapErase m k)

/-- Rising keys, none of them reading as d: the canonical form. -/
def smapWf {α : Type} [DecidableEq α] (d : α) (m : SMap α) : Bool :=
  match m with
  | [] => true
  | [p] => decide (p.2 ≠ d)
  | p :: q :: m => decide (p.2 ≠ d) && decide (p.1 < q.1) && smapWf d (q :: m)

/-- The map without the keys for which drop holds. -/
def smapDrop {α : Type} (m : SMap α) (drop : Nat → Bool) : SMap α := m.filter (fun p => !drop p.1)

end Sys2Proof.Machine
end

