-- ==== Sys2Proof/Machine/State.lean ====
section
/-! DEFINITION. The state of one node: its registers, its channels, bents and units, its queues and memories, its
links, and the queue of commands that wait. Plain data; State.reset is the node right after power-on is released. -/

namespace Sys2Proof.Machine

/-- Why a step stops with a fault: no command does (log entry 1), so the one constructor is a placeholder. -/
inductive Fault where
  /-- Raised by no command: every event that the manual describes has an effect. Safe. -/
  | unused : Fault
  deriving DecidableEq, Repr

/-- Why a command has no meaning here. -/
inductive Refusal where
  /-- Raised by an arm of exec whose command has no meaning yet. Safe: the model stops where the part goes on. -/
  | notModelled (mnemonic : String) : Refusal
  deriving DecidableEq, Repr

/-- Access codes (R5). -/
inductive Acc where
  | rw | ro | w1c | w1s | wo | rwl
  deriving DecidableEq, Repr

/-- Legal values of a field (R7, R8): clamped to a range, substituted by the reset value, or clamped by its own
chapter. -/
inductive Legal where
  | any
  | range (lo hi : Nat)
  | srange (lo hi : Int)
  | enum (codes : List Nat)
  | special
  deriving DecidableEq, Repr

/-- Register blocks (R579, R580). -/
inductive Blk where
  | ident | modes | plumb | lane | fab | rings | queues | stats | seif | zillo | duplex | sec | evmap
  | tdie | chan | bent | loop | stamp | cap | capdie
  deriving DecidableEq, Repr

/-- Registers whose copy a selector register chooses (R586). -/
inductive Bank where
  | none | queue | ring | map
  deriving DecidableEq, Repr

/-- One field of a register table: its block, the register's offset in the block, whether the register is 64 bits
wide, its low bit and width, access, reset value, the resets that keep it, its legal values, and the counts and
strides of its copies inside the block. -/
structure Fld where
  id : Nat
  blk : Blk
  off : Nat
  wide : Bool
  lo : Nat
  width : Nat
  acc : Acc
  reset : Nat
  kept : Nat
  legal : Legal
  n1 : Nat
  s1 : Nat
  n2 : Nat
  s2 : Nat
  bank : Bank
  deriving DecidableEq, Repr

/-- The three parts (00_scope.md). -/
inductive Part where
  | vt2 | vt4 | vt8
  deriving DecidableEq, Repr

/-- A record (R276): header fields and 64-bit body words. Its time is in fine units from
Plumb time zero; node is the producing node where that is not this one; tword is the time as firmware wrote it where
that is no Plumb time. -/
structure Rec where
  ty : Nat
  flags : Nat := 0
  stream : Nat
  die : Nat
  bent : Nat := 0
  channel : Nat := 0
  epoch : Nat := 0
  seq : Nat := 0
  time : Int
  items : Nat := 0
  hx : Nat := 0
  body : List Nat := []
  node : Option Nat := none
  tword : Option Nat := none
  deriving DecidableEq, Repr

/-- Discarded records that a loss record will report (R286). -/
structure LossPend where
  count : Nat
  flags : Nat
  seq : Nat
  time : Int
  bent : Nat
  channel : Nat
  epoch : Nat
  cause : Nat
  lastTime : Int
  node : Option Nat := none
  deriving DecidableEq, Repr

/-- What a producer keeps of one stream: the next sequence number, the flags the next record carries, the open
record with its closing limit and the instant its timeout counts from (R282 to R285). -/
structure StreamSt where
  seq : Nat := 0
  restart : Bool := true
  stepped : Bool := false
  moved : Bool := false
  cur : Option Rec := none
  limit : Nat := 0
  since : Nat := 0
  deriving DecidableEq, Repr

/-- A span of quality q over aperture instants from start up to stop, open while stop is none (R49); src tells what
opened it. -/
structure QSpan where
  src : Nat
  q : Nat
  start : Nat
  stop : Option Nat
  deriving DecidableEq, Repr

/-- One suppression requirement of a decimation chain (R128): outputs from an instant up to the change instant, and
then the first left outputs; with its cause. -/
structure Sup where
  start : Nat
  change : Option Nat
  begun : Bool := false
  left : Nat := 0
  cause : Nat := 0
  deriving DecidableEq, Repr

/-- The decimation chain of a channel (04_decimation.md). -/
structure Chain where
  integ : List Int := [0, 0, 0, 0, 0]
  comb : List Int := [0, 0, 0, 0, 0]
  d1 : List Int := []
  d2 : List Int := []
  df : List Int := []
  m : Int := 0
  acqSkip : Nat := 0
  acqLeft : Nat := 0
  acqSum : Int := 0
  acqN : Nat := 0
  sups : List Sup := []
  runOpen : Bool := false
  runCount : Nat := 0
  runFirst : Int := 0
  runCauses : Nat := 0
  lastQ1 : Option Int := none
  lastQ2 : Option Int := none
  satFrom : Option Int := none
  stepped : Bool := false
  deriving DecidableEq, Repr

/-- A stored segment (05_segmented_capture.md): its number, slot, time, flags and counts; its values lie in segment
memory. Parts already sent are counted. -/
structure Seg where
  num : Nat
  slot : Nat
  base : Nat := 0
  time : Int
  pos : Nat := 0
  fine : Option Int := none
  fineFlags : Nat := 0
  fineEdge : Nat := 2
  fineFrom : Int := 0
  fineTo : Int := 0
  overlap : Nat := 0
  first : Nat := 0
  missed : Bool := false
  truncated : Bool := false
  pre : Nat := 0
  count : Nat := 0
  avg : Nat := 0
  div : Nat := 0
  sent : Nat := 0
  uns : List Bool := []
  epoch : Nat := 0
  deriving DecidableEq, Repr

/-- A stored value on its way: its Plumb time, its index from the start of the arming, the code or sum, quality, and
whether it was stamped without synchronisation. -/
structure Val where
  time : Int
  idx : Nat
  v : Int
  q : Nat
  uns : Bool
  deriving DecidableEq, Repr

/-- A cross-trigger or Plumb-timed trigger whose trigger value has not come yet (R141, R142, R146). -/
structure WaitTrig where
  at_ : Int
  deriving DecidableEq, Repr

/-- The capture engine's bookkeeping for one channel. -/
structure Cap where
  hist : List Val := []
  nvals : Nat := 0
  metHi : Bool := false
  metLo : Bool := false
  accSum : Int := 0
  accN : Nat := 0
  accQ : List Nat := []
  accTime : Int := 0
  accUns : Bool := false
  accOpen : Bool := false
  accTrig : Option (Int × Nat × Bool) := none
  prevTime : Int := 0
  waiting : List WaitTrig := []
  force : Bool := false
  missed : Bool := false
  rearm : Int := 0
  cur : Option Seg := none
  curLeft : Nat := 0
  segs : List Seg := []
  nextNum : Nat := 0
  lastEnd : Option Nat := none
  lastStart : Nat := 0
  lastTrig : Option Nat := none
  fresh : Bool := false
  prior : Nat := 0
  armPrev : Option Int := none
  gone : Option Int := none
  keptL : Nat := 2048
  keptP : Nat := 512
  keptPost : Nat := 1536
  keptN : Nat := 8
  stamps : List (Int × Nat × Nat) := []
  xtPend : List Int := []
  reads : List (Nat × Nat) := []
  deriving DecidableEq, Repr

/-- A fast channel beside its registers (02_fast_channels.md). -/
structure Chan where
  ovr : Bool := false
  ovrPos : Bool := false
  ovrAt : Nat := 0
  cm : Bool := false
  spans : List QSpan := []
  dwellOpen : Bool := false
  contOpen : Bool := false
  iepeOpen : Bool := false
  band : Nat := 4
  bandRun : Nat := 0
  outRun : List Nat := [0, 0, 0]
  contPhase : Nat := 0
  contA : Int := 0
  contAt : Nat := 0
  contWas : Nat × Bool := (0, false)
  contNext : Nat := 0
  discAt : Nat := 0
  lastFire : Option Nat := none
  rangeOld : Nat := 0
  rangeFrom : Nat := 0
  quiet : List (Nat × Nat) := []
  gridOrg : Int := -4046848
  oldGrid : Option (Int × Nat × Nat) := none
  alignS : Nat := 0
  lastAp : Option Nat := none
  fsEnding : Bool := false
  fsClosing : Bool := false
  fsQuad : List (Nat × Nat) := []
  recent : List (Nat × Int × Nat) := []
  onBus : Bool := false
  deriving DecidableEq, Repr

/-- An active user FIR set of a Tenon (R110, R111): taps, F code, declared delay, coefficients. -/
structure UserSet where
  n : Nat := 1
  f : Nat := 0
  gd : Nat := 0
  coef : List Nat := []
  deriving DecidableEq, Repr

/-- The receive side of one direction of a tenon-link port: how many frames it has taken, how often in a row the next one has
failed its CRC-32C, and whether it has asked for a replay from that one onwards (R22, R23). -/
structure LinkRx where
  next : Nat := 0
  fails : Nat := 0
  replay : Bool := false
  deriving DecidableEq, Repr

/-- A Tenon beside its registers: its clock and the instant it locked, its counter's offset from the tick axis and the check
or step that a reload follows, its ports with their transmit
FIFOs, its numbered commands (R19 to R25, R270, R488). -/
structure Tenon where
  clocked : Bool := false
  locked : Bool := false
  loaded : Bool := false
  filled : Bool := false
  tested : Bool := false
  off : Int := 0
  lockAt : Nat := 0
  reloadFrom : Option Nat := none
  downA : Bool := false
  downB : Bool := false
  links : SMap LinkRx := []
  portLoss : Bool := false
  txA : List Rec := []
  txB : List Rec := []
  lastCmd : Nat := 0
  replies : List (Nat × Nat) := []
  syncs : List Nat := []
  pulses : List (Nat × Int) := []
  rails : Nat := 0
  vexLow : Bool := false
  hot : Bool := false
  returned : Bool := false
  away : Bool := false
  deriving DecidableEq, Repr

/-- A stamp between its edge and its release (R164 to R170): the TCLK edge's tick, polarity (1 falling), the phase
stamp's time inside the tick, the vernier's where it was started and found coincidence, and its flags. -/
structure Stamp where
  tick : Nat
  pol : Nat
  phase : Nat
  vern : Bool
  code : Option Nat
  off : Int
  dly : Nat
  coarse : Bool
  pileup : Bool
  stalePh : Bool
  staleVn : Bool
  epoch : Nat := 0
  deriving DecidableEq, Repr

/-- A pulse-echo check in progress (R193 to R197): the fires still to come, the fires with launch and echo, the sums of
the echo-launch differences and their squares by echo polarity. -/
structure PulseEcho where
  left : Nat
  lastFire : Nat
  posN : Nat := 0
  negN : Nat := 0
  posSum : Int := 0
  negSum : Int := 0
  sq : Int := 0
  stale : Bool := false
  deriving DecidableEq, Repr

/-- A channel's stamping unit beside its registers: tables are empty while they hold their default (R175). -/
structure StampUnit where
  lastEdge : Option Nat := none
  pileup : Bool := false
  vernBusy : Nat := 0
  flight : List Stamp := []
  queued : List Nat := []
  phTab : List Nat := []
  vnTab : List Nat := []
  phAt : Option Nat := none
  vnAt : Option Nat := none
  phCal : Bool := false
  vnCal : Bool := false
  pe : Option PulseEcho := none
  deriving DecidableEq, Repr

/-- A stop reported in a window: interval, coincidence, flags of its stamp (R192). -/
structure Stop where
  iv : Int
  coin : Bool
  flags : Nat
  deriving DecidableEq, Repr

/-- A stop held before it is judged (R186). -/
structure HeldStop where
  time : Int
  flags : Nat
  vern : Bool
  epoch : Nat := 0
  until_ : Nat
  deriving DecidableEq, Repr

/-- An open interval window (R185). -/
structure Window where
  start : Int
  flags : Nat
  vern : Bool
  epoch : Nat := 0
  stops : List Stop := []
  deriving DecidableEq, Repr

/-- An interval unit. -/
structure IntUnit where
  win : Option Window := none
  held : List HeldStop := []
  deriving DecidableEq, Repr

/-- A regression gate waiting, open or closed, with its sums (R200 to R207). -/
structure Gate where
  unit : Nat
  ch : Nat
  pol : Nat
  p : Nat
  opens : Int
  closes : Int
  isOpen : Bool := false
  seen : Nat := 0
  n : Nat := 0
  t0 : Int := 0
  sT : Int := 0
  sNT : Int := 0
  sTT : Int := 0
  flags : Nat := 0
  req : Option (Nat × Nat) := none
  minEdges : Nat := 3
  epoch : Nat := 0
  full : Bool := false
  broken : Bool := false
  short : Bool := false
  done : Bool := false
  deriving DecidableEq, Repr

/-- A value, or a loss, on its way to an accumulator (R213, R216). -/
structure StatIn where
  loss : Bool
  x : Int
  never : Bool
  bad : Bool
  epoch : Nat
  time : Int
  deriving DecidableEq, Repr

/-- An accumulator's block in progress (R215 to R218). -/
structure StatAcc where
  input : List StatIn := []
  n : Nat := 0
  sum : Int := 0
  sq : Int := 0
  mn : Int := 0
  mx : Int := 0
  iMin : Nat := 0
  iMax : Nat := 0
  epoch : Nat := 0
  t0 : Int := 0
  tLast : Int := 0
  skipped : Nat := 0
  loss : Bool := false
  heldBlk : Bool := false
  stopped : Bool := false
  held : Bool := false
  deriving DecidableEq, Repr

/-- The state of one law of a loop slice, in units of 2^-16 DAC code (R234). -/
structure Law where
  i1 : Int := 0
  i2 : Int := 0
  df : Int := 0
  deriving DecidableEq, Repr

/-- A loop period whose samples are complete: feedback value, quality, Plumb time, loop instant. -/
structure LoopIn where
  y : Int
  q : Nat
  time : Int
  at_ : Nat
  deriving DecidableEq, Repr

/-- A loop slice beside its registers (08_loop_slices.md). -/
structure Loop where
  running : Bool := false
  tripped : Bool := false
  fresh : Bool := false
  rearm : Bool := false
  hand : Bool := false
  commit0 : Bool := false
  commit1 : Bool := false
  lawNow : Nat := 0
  law0 : Law := {}
  law1 : Law := {}
  ePrev : Int := 0
  u : Int := 0
  y : Int := 0
  r : Int := 0
  rho : Int := 0
  m : Int := 0
  feAcc : Nat := 0
  resAcc : Nat := 0
  slewing : Bool := false
  sat : Bool := false
  frozen : Bool := false
  excLim : Bool := false
  held : Bool := false
  reg : Int := 0
  dac : Int := 0
  dacDue : Option Nat := none
  down : Option Nat := none
  telCnt : Nat := 0
  sum : Int := 0
  cnt : Nat := 0
  qs : List Nat := []
  moved : Bool := false
  ready : Option LoopIn := none
  spxEdges : List Nat := []
  spxRise : Option Nat := none
  spxWidth : Nat := 0
  spxEnd : Option Nat := none
  spxLost : Bool := false
  deriving DecidableEq, Repr

/-- An excitation profile as an entry uses it: WAVE, REG, SENSE, SETTLE, DURATION, AMPL, FREQ, F_START, F_STOP, in
their register units (EXC_PROF). -/
structure ExcProf where
  num : Nat := 0
  wave : Nat := 0
  reg : Nat := 0
  sense : Bool := false
  settle : Nat := 1
  duration : Nat := 100
  ampl : Nat := 0
  freq : Nat := 200000
  fStart : Nat := 400
  fStop : Nat := 6500
  deriving DecidableEq, Repr

/-- The parts of an entry's run (R64, R69, R80): before its connect instant, sampling, sampling after the reversal,
driving a sweep or pluck, listening. -/
inductive EntryPhase where
  | connect | sample | second | drive | listen
  deriving DecidableEq, Repr

/-- Sums over a sampling time (R74): n values in phase and in quadrature, in units of 2^-20 of the scanner's LSB times the
lengths of the notch stages, and m current readings in pA. -/
structure DemodSum where
  n : Nat := 0
  i : Int := 0
  q : Int := 0
  m : Nat := 0
  cur : Int := 0
  deriving DecidableEq, Repr

/-- A moving average of a notch (R75): its length and the pairs of values it holds, the newest first. -/
structure Mav where
  len : Nat
  hist : List (Int × Int) := []
  deriving DecidableEq, Repr

/-- A scanner entry in progress, with the values it started with (R68). -/
structure EntryRun where
  idx : Nat
  urgent : Bool
  input : Nat
  mode : Nat
  sub : Nat
  gain : Nat
  prof : ExcProf
  leadPol : Nat
  sampleTime : Nat
  regUnit : Nat
  listen : Nat
  phase : EntryPhase := .connect
  dischEnd : Nat
  leadEnd : Option Nat := none
  rampEnd : Option Nat := none
  flags : Nat := 0
  weighFrom : Nat := 0
  fillFrom : Nat := 0
  sampFrom : Nat := 0
  sampTo : Nat := 0
  stages : List Mav := []
  dec : Nat := 0
  acc : DemodSum := {}
  plus : DemodSum := {}
  excEnd : Nat := 0
  lone : Bool := false
  deriving DecidableEq, Repr

/-- A bent's scanner and driver beside their registers (03_bent_scanner.md). -/
structure Bent where
  user : Nat := 0
  useRamp : Option (Nat × Option Nat) := none
  seqOn : Bool := false
  passOn : Bool := false
  passes : Nat := 0
  next : Nat := 0
  urgent : Option Nat := none
  missed : Bool := false
  prof : Option ExcProf := none
  rampTo : Option (ExcProf × Nat × Nat) := none
  entry : Option EntryRun := none
  lastEntry : Nat := 0
  guard : Bool := false
  shutAt : Nat := 0
  deriving DecidableEq, Repr

/-- The Plumb servo beside its registers (09_plumb_time.md): the filtered offset, the frequency loop's steering, the
exchanges under way on each port (number, departure in Plumb time, departure instant), what each port's last exchange
gave (1 valid, 2 valid with STATE 2 or 4), the runs of R252, R261 and R267, the offsets of a re-lock, the steering
values of the last 16 s in LOCKED with their lengths, the Plumb times at which STATE came to say UNSYNC or ceased to (newest
first), the grandmaster's watch (its first edge, whether it runs, the last
edge), and a step decided and not yet applied
(movement in ticks, its instant, the STATE that follows). -/
structure Plumb where
  filt : Int := 0
  freq : Int := 0
  missed : Nat := 0
  inCnt : Nat := 0
  outCnt : Nat := 0
  req : SMap (Option (Nat × Int × Nat)) := []
  seqNo : SMap Nat := []
  valid : SMap Nat := []
  run : SMap Nat := []
  holdStart : Nat := 0
  relock : List Int := []
  everLocked : Bool := false
  lockHist : List (Int × Nat) := []
  lockFrom : Nat := 0
  uns : List (Int × Bool) := []
  gmFirst : Bool := false
  ppsWatch : Bool := false
  lastPps : Nat := 0
  step : Option (Int × Nat × Option Nat) := none
  deriving DecidableEq, Repr

/-- A closed packet of a queue (R305): its record and its cells. -/
structure Pkt where
  rec_ : Rec
  cells : List Nat
  deriving DecidableEq, Repr

/-- A queue of the cell pool: closed packets, oldest first; how many of them their reader has taken and not yet
reported delivered; the cells of packets still open (R305, R314). -/
structure Queue where
  pkts : List Pkt := []
  taken : Nat := 0
  openCells : Nat := 0
  deriving DecidableEq, Repr

/-- A raise of an event source whose record has not entered the pool (R300). -/
structure EvPend where
  src : Nat
  detail : Nat
  count : Nat
  time : Int
  deriving DecidableEq, Repr

/-- What a Mortise producer has under way: whole records waiting to enter the pool, the oldest partly written with
the cells it holds (R311), and the queue they go to where it is not the stream map's. -/
structure Prod where
  waiting : List (Rec × Option Nat) := []
  cells : List Nat := []
  into : Option Nat := none
  deriving DecidableEq, Repr

/-- A scrub in progress (R325): its descriptor, memory, first word and word count. -/
structure Scrub where
  job : Nat
  mem : Nat
  first : Nat
  count : Nat
  deriving DecidableEq, Repr

/-- A bank repair in progress (R331): its descriptor, bank, action (0 ROW, 1 RETIRE), row, whether it has come to
TESTING, and the cells migrated. -/
structure Repair where
  job : Nat
  bank : Nat
  action : Nat
  row : Nat
  testing : Bool := false
  moved : Nat := 0
  deriving DecidableEq, Repr

/-- The cell pool and the protected memories (11_queues_and_protected_memory.md): owner lists each used cell with its
queue plus 1 (4097: a cell that a removal could not reach, R323), flips each stored word that holds flipped bits (key:
memory number times 2^24 plus word address, a cell-pool word having its address in the whole pool), wb the corrected
words that wait for write-back, shim the cell plus 1 in each slot of the shim buffer, zeroed the pool words that were
delivered as zero from it (R332), rows the rows of each bank replaced by spare rows, nextBank the bank each producer tries next, rr the
queue each reader took from last at each PRIO. -/
structure Pool where
  owner : SMap Nat := []
  nextBank : SMap Nat := []
  picks : Nat := 0
  queues : SMap Queue := []
  flips : SMap Nat := []
  wb : List Nat := []
  evs : List EvPend := []
  prods : SMap Prod := []
  ready : Bool := false
  alloc : Nat := 65535
  shim : SMap Nat := []
  zeroed : List Nat := []
  rows : SMap (List Nat) := []
  repair : Option Repair := none
  scrubs : List Scrub := []
  rr : SMap Nat := []
  deriving DecidableEq, Repr

/-- A frame of the Woreg fabric (R451). -/
structure Frame where
  dest : Nat
  src : Nat := 0xFFFF
  vc : Nat
  ty : Nat
  hops : Nat := 32
  first : Bool := false
  last : Bool := false
  tag : Nat := 0
  aux : Nat := 0
  lseq : Nat := 0
  words : List Nat := []
  deriving DecidableEq, Repr

/-- A frame waiting in a port's queue: since when, and the port it arrived on. -/
structure Waiting where
  frame : Frame
  since : Nat
  inPort : Option Nat
  deriving DecidableEq, Repr

/-- A fabric port (R447 to R456): its state, what LINK_INIT told of the partner, the sender's numbers, replay buffer,
queue, credits and round-robin place, and the receiver's next LSEQ, credits to return and acknowledgements owed. -/
structure Port where
  state : Nat := 1
  gotInit : Bool := false
  sentAfter : Bool := false
  initAt : Nat := 0
  peerNode : Nat := 0xFFFF
  peerPort : Nat := 0
  peerDie : Nat := 0
  peerStandby : Bool := false
  peerWidth : Nat := 0
  txSeq : Nat := 0
  unacked : List Frame := []
  waiting : List Waiting := []
  credits : List Nat := [0, 0, 0, 0]
  wrr : Nat := 0
  replays : Nat := 0
  since : Nat := 0
  rtt : Nat := 0
  rxSeq : Nat := 0
  nak : Bool := false
  news : Bool := false
  give : List Nat := [0, 0, 0, 0]
  deriving DecidableEq, Repr

/-- A fabric lane (15_lanes.md): its state (LANE_STATUS.STATE_NOW), what its receiver sees, the counts of R431 and
R433, the PRBS31 checker's seed, when signal came and when HI_BER was declared, a PSTATE that waits for a test to end, and
its equaliser's coefficients (R434): 0 the defaults, k + 1 the k-th set that adaptation has come to (Config.equaliser). -/
structure Lane where
  state : Nat := 0
  signal : Bool := false
  lock : Bool := false
  hiBer : Bool := false
  frozen : Bool := false
  trainIdle : Bool := false
  prbs : Option Nat := none
  sigSince : Nat := 0
  berAt : Nat := 0
  pstateWait : Option Nat := none
  coef : Nat := 0
  deriving DecidableEq, Repr

/-- What the node sends: writes to host memory, with relaxed ordering or without, MSI-X messages, PCIe reads, frames on a
port, Scarf frames, data read by the host in W0 and in W2, pulses. -/
inductive Out where
  | hostWrite (addr : Nat) (words : List Nat) (relaxed : Bool)
  | msix (vector addr data : Nat)
  | pcieRead (tag addr bytes : Nat)
  | frame (port : Nat) (f : Frame)
  | scarf (kind : Nat) (words : List Nat)
  | readData (off value : Nat)
  | bellData (off value : Nat)
  | lineError (lane kind mask : Nat)
  | pulse (tenon ch ampl : Nat) (negative : Bool)
  | tdo (bits : Nat)
  | reply (tenon num value : Nat)
  deriving DecidableEq, Repr

/-- A descriptor in execution (R392, R393): its submission ring and slot, its words, whether it has started, its progress
(R397), the words it has gathered, and what it waits for: a stage of its own opcode, an exchange tag and a deadline's
start. -/
structure Job where
  id : Nat
  sq : Nat
  slot : Nat
  words : List Nat
  cq : Nat := 0
  next : Nat := 0
  started : Bool := false
  prog : Nat := 0
  stage : Nat := 0
  pos : Nat := 0
  tag : Nat := 0
  since : Nat := 0
  acc : List Nat := []
  aux : Nat := 0
  deriving DecidableEq, Repr

/-- An entry in the completion engine (R403 to R405): its completion ring, what its words hold, and for a record
buffer the packets that it delivers, as queue and count. -/
structure CEntry where
  cq : Nat
  buffer : Bool := false
  cid : Nat := 0
  sq : Nat := 0
  status : Nat := 0
  sqHead : Nat := 0
  irq : Bool := false
  result : Nat := 0
  rr : Nat := 0
  slot : Nat := 0
  recs : Nat := 0
  bytes : Nat := 0
  takes : List (Nat × Nat) := []
  deriving DecidableEq, Repr

/-- A record buffer that holds records: its slot, host address, fill, records, the instant of its first record and the
packets it holds. -/
structure RecBuf where
  slot : Nat
  addr : Nat
  used : Nat := 0
  recs : Nat := 0
  since : Nat := 0
  takes : List (Nat × Nat) := []
  deriving DecidableEq, Repr

/-- A ring beside its registers (R389 to R419): head and tail in use, PHASE of the next entry; of a completion ring the
entries not yet signalled and since when; of a record ring the posted buffers known and the buffer at its head; whether
a fetch, or a remote entry, is under way. -/
structure Ring where
  head : Nat := 0
  tail : Nat := 0
  phase : Bool := true
  unsig : Nat := 0
  firstAt : Option Nat := none
  known : Nat := 0
  bufs : List (Nat × Nat) := []
  buf : Option RecBuf := none
  busy : Bool := false
  deriving DecidableEq, Repr

/-- What a read of host memory is for: n descriptors of a ring from a slot, n buffer entries of a record ring, a
descriptor in execution. -/
inductive ReadUse where
  | descs (sq slot n : Nat)
  | bufs (rr slot n : Nat)
  | job (id : Nat)
  deriving DecidableEq, Repr

/-- A read of host memory: what it is for and its parts, as far as they have arrived. -/
structure ReadGroup where
  id : Nat
  use : ReadUse
  parts : List (Option (List Nat))
  deriving DecidableEq, Repr

/-- A part of a read on its way to the gateway (R415). -/
structure FabRead where
  grp : Nat
  part : Nat
  addr : Nat
  words : Nat
  tag : Nat
  tries : Nat := 0
  since : Nat
  deriving DecidableEq, Repr

/-- A read on PCIe or waiting for a PCIe tag (R416): the part of this node's own read, or the node and tag that a
proxied read answers, with the port it arrived on. One longer than the host's maximum read request size is issued in pieces
(R387): asked counts the words asked for so far, and got holds those that have come. -/
structure PcieRead where
  own : Option (Nat × Nat)
  node : Nat := 0
  ftag : Nat := 0
  inPort : Nat := 0
  addr : Nat
  words : Nat
  tag : Option Nat := none
  asked : Nat := 0
  got : List Nat := []
  deriving DecidableEq, Repr

/-- A frame to the gateway that waits for its HOST_ACK (R417): the ring it belongs to, the buffer (record ring and
slot) or the entry it carries. -/
structure FabWrite where
  frame : Frame
  addr : Nat
  kind : Nat
  ring : Nat
  slot : Nat := 0
  entry : Option CEntry := none
  tries : Nat := 0
  since : Nat
  sent : Bool := true
  deriving DecidableEq, Repr

/-- Host addresses, or a doorbell page, that a frame was sent to again, and until when nothing else is sent there
(R466): buffer names a record ring's buffer by ring and slot. -/
structure Hold where
  addr : Nat
  bytes : Nat
  page : Option Nat := none
  buffer : Option (Nat × Nat) := none
  until_ : Nat
  deriving DecidableEq, Repr

/-- Doorbells of one W2 page on their way to other nodes (R421, R465): the one in flight with its tag, tries and
instant, and those behind it. -/
structure BellPage where
  flight : Option (Nat × Nat × Nat × Nat) := none
  queue : List Nat := []
  deriving DecidableEq, Repr

/-- A record that a forwarder keeps until FWD_ACK (R468): its FSEQ, queue and words. -/
structure FwdRec where
  fseq : Nat
  queue : Nat
  words : List Nat
  deriving DecidableEq, Repr

/-- A fabric forwarder: its unacknowledged records, oldest first, since when nothing has progressed, whether a fabric reset
has sent it back to the oldest. -/
structure Fwd where
  unacked : List FwdRec := []
  since : Nat := 0
  back : Bool := false
  deriving DecidableEq, Repr

/-- An inbound slot: the record in assembly with its sender (node and forwarder) and FSEQ, and the accepted records that
wait for cells, each with the port it arrived on (none for a record of this node's own). -/
structure Inbound where
  src : Nat := 0
  fwd : Nat := 0
  fseq : Nat := 0
  words : List Nat := []
  open_ : Bool := false
  pend : List (Option Nat) := []
  deriving DecidableEq, Repr

/-- A broadcast seen (R467): source, tag, when. -/
structure Seen where
  src : Nat
  tag : Nat
  at_ : Nat
  deriving DecidableEq, Repr

/-- An action that a duplex cycle journals and that waits for the standby (R485). -/
inductive Act where
  | out (o : Out)
  | frame (f : Frame) (via : Option Nat)
  | deliver (q n : Nat)
  | w0 (off be value : Nat)
  | bell (off be value : Nat)
  | run (job : Nat)
  | trig (mask time : Nat)
  | sync (sec : Nat)
  | regRd (port src tag off bytes : Nat)
  deriving DecidableEq, Repr

/-- A record in a compression engine (R348, R349): its queue, header and body words, the words coded so far, the blocks
made of them, and whether its output record is being written. -/
structure SeifWork where
  queue : Nat
  rec_ : Rec
  done : Nat := 0
  blocks : List Nat := []
  output : Bool := false
  deriving DecidableEq, Repr

/-- A Seif engine (0 and 1 compress, 2 decompresses): the record in it, its jobs in order of arrival, whether it served
a job last (R353). -/
structure SeifEng where
  work : Option SeifWork := none
  jobs : List Nat := []
  lastJob : Bool := false
  deriving DecidableEq, Repr

/-- A register bank of a Zillo core (R361); an unlisted register holds 0. -/
structure ZBank where
  g : SMap (BitVec 32) := []
  a : SMap (BitVec 19) := []
  c : SMap (BitVec 20) := []
  st : SMap (BitVec 16) := []
  acc : SMap (Int × Int) := []
  deriving DecidableEq, Repr

/-- A Zillo core's open output record: its stream, its queue, its words so far (R378). -/
structure ZOut where
  stream : Nat
  queue : Nat
  words : List Nat := []
  deriving DecidableEq, Repr

/-- A Zillo core beside its registers and memory (13_zillo_cores.md): its banks, whether the shadow bank is in use, pc,
control registers (TIMER as the instant it reaches 0, CYCLE as the instant it counts from), the instants from which
RUNNING and the watchdog count, an RPT in progress (repetitions left and done), the open packet (queue and next word),
the open output record, the instant of a halt request, the 64-bit word that its fetch holds (place and value), the STATE before LOADING. -/
structure ZCore where
  main : ZBank := {}
  shadow : ZBank := {}
  bank : Bool := false
  pc : BitVec 19 := 0
  sat : Bool := false
  qbad : Bool := false
  ien : BitVec 8 := 0
  latched : BitVec 8 := 0
  epc : BitVec 19 := 0
  timerAt : Option Nat := none
  psub : BitVec 32 := 0
  pfine : BitVec 32 := 0
  esel : SMap Nat := []
  cycleFrom : Nat := 0
  runFrom : Nat := 0
  wdFrom : Nat := 0
  rpt : Option (Nat × Nat) := none
  inp : Option (Nat × Nat) := none
  outp : Option ZOut := none
  haltAt : Option Nat := none
  fetched : Option (Nat × Nat) := none
  loadFrom : Nat := 0
  deriving DecidableEq, Repr

/-- An entry of the boot table (R540): its core, AUTORUN, SVN, place in the bundle store in bytes, and digest. -/
structure BootEntry where
  core : Nat
  autorun : Bool
  svn : Nat
  offset : Nat
  len : Nat
  digest : List Nat
  deriving DecidableEq, Repr

/-- What a pass of fuse programming burns (R546, R549). -/
inductive Burn where
  | identity (slot seed : Nat)
  | owner (slot : Nat) (key : List Nat)
  | revoke (slot : Nat)
  | store (entry : BootEntry) (words : List Nat)
  | svn (v : Nat)
  | opening
  deriving DecidableEq, Repr

/-- A request to the security island, in order of arrival (R533): a signature or verification for a descriptor, the
verification of a descriptor's bundle, a programming pass for a descriptor with its OP, the judgement of a fabric reset
from a node. -/
inductive SecReq where
  | job (id : Nat)
  | bundle (id : Nat)
  | burn (id op : Nat) (b : Burn)
  | fa (src tag port : Nat) (words : List Nat)
  deriving DecidableEq, Repr

/-- The security island of a Mortise (19_security.md): owner slots and identity slots as they differ from the factory's
(state, and the key or the seed), the fuse counters, the bundle store with its table, the peer's key and its signature
over this die's key. -/
structure Sec where
  owners : SMap (Nat × List Nat) := []
  ids : SMap (Option (Nat × Nat)) := []
  svn : Nat := 0
  opens : Nat := 0
  store : List Nat := []
  boot : List BootEntry := []
  peerKey : List Nat := []
  xsig : List Nat := []
  deriving DecidableEq, Repr

/-- A duplex cycle sent and not yet acknowledged (R484, R489): its number, the actions it journals and the instant of
the oldest of them, its FINAL flag, whether the standby has it whole, the next sequence number of each stream whose
records it mirrors. -/
structure Cycle where
  num : Nat
  acts : List Act := []
  firstAt : Option Nat := none
  final : Bool := false
  received : Bool := false
  seqs : List (Nat × Nat) := []
  deriving DecidableEq, Repr

/-- The duplex block beside its registers (17_duplex.md): the active die and whether it holds PEG, SB_STATE, the open
journal, the actions that wait no more, the cycles in flight, the host writes whose confirmation is not acknowledged
(with the number of the cycle that carries it) and those that R487 holds back, the bulk copy and the core memories it
took, whether the standby's registers stand at their Reset values since its DI (R12), the records of a take-over that the
accumulators have had, the packets (stream and SEQ) that the standby's pool lacks, the sequence numbers mirrored so far, the
bytes of MIRROR in the open cycle (R490), a PEG request (die and cause) and the cause of a switch-over under way, the heartbeats missed, the last PEG_KEEP pulse, the records
(stream and SEQ) that reached the active alone, the host's reads that wait for journaled writes (die, address, bytes;
R583). -/
structure Duplex where
  die : Nat := 0
  held : Bool := false
  sbState : Nat := 0
  acts : List Act := []
  firstAt : Option Nat := none
  performing : Bool := false
  due : List Act := []
  num : Nat := 0
  cycles : List Cycle := []
  unconf : List (Out × Option Nat) := []
  blocked : List Out := []
  bulk : Bool := false
  zcopy : SMap Nat := []
  fresh : Bool := false
  fed : List (Nat × Nat × Nat) := []
  lacks : List (Nat × Nat) := []
  mirror : List (Nat × Nat) := []
  mirrorUsed : Nat := 0
  req : Option (Nat × Nat) := none
  released : Bool := false
  switching : Nat := 0
  missed : Nat := 0
  keepAt : Nat := 0
  alone : List (Nat × Nat) := []
  reads : List (Nat × Nat × Nat) := []
  deriving DecidableEq, Repr

/-- The start-up of a Mortise die (R520, R521): REFCLK present, when its last supply was declared in range, step 1, the memory
fill and the PLL lock of step 2, step 4, step 5, step 6, the failures that hold it in BOOT, and the instant it left BOOT. -/
structure Boot where
  refclk : Bool := false
  fedAt : Option Nat := none
  s1 : Bool := false
  fill : Bool := false
  pll : Bool := false
  test : Bool := false
  bundles : Bool := false
  failTest : Bool := false
  failBundle : Bool := false
  doneAt : Option Nat := none
  deriving DecidableEq, Repr

/-- Entry to DORMANT and exit from it (R522 to R525): stage 0 none, 1 draining, 2 asleep, 3 waking; since when; the
cause of a SAFE that waits for the wake, or 0; the duty-cycled bents; the domains that are off, as kind and index of DOMAIN_POWERED. -/
structure Dorm where
  stage : Nat := 0
  since : Nat := 0
  safe : Nat := 0
  duty : List Nat := []
  off : List (Nat × Nat) := []
  deriving DecidableEq, Repr

/-- The instructions of the TAP (R548). -/
inductive TapIr where
  | bypass | idcode | samplePreload | extest | clamp | highz | intscan | zdebug
  deriving DecidableEq, Repr

/-- The TAP: its instruction and the values in the boundary register's update stage. -/
structure Tap where
  ir : TapIr := .idcode
  cells : List Bool := []
  deriving DecidableEq, Repr

/-- The state of the node. -/
structure State where
  pending : List Instr := []
  now : Nat := 0
  free : Nat := 0
  part : Part := .vt8
  poAsserted : Bool := false
  regs : SMap Nat := []
  latch : SMap (Option Nat) := []
  held : SMap (Option Nat) := []
  bellLow : SMap Nat := []
  iso : SMap Nat := []
  bentOff : SMap Nat := []
  tenons : SMap Tenon := []
  plumbOff : Int := 0
  plumb : Plumb := {}
  chans : SMap Chan := []
  chains : SMap Chain := []
  caps : SMap Cap := []
  segMem : SMap Nat := []
  xtrig : SMap (List Int) := []
  stampUnits : SMap StampUnit := []
  bentMerge : SMap Nat := []
  tenonMerge : SMap Nat := []
  intUnits : SMap IntUnit := []
  gates : SMap (Option Gate) := []
  gatesDone : List (Nat × Gate) := []
  loops : SMap Loop := []
  bents : SMap Bent := []
  stats : SMap StatAcc := []
  userSets : SMap UserSet := []
  streams : SMap StreamSt := []
  losses : SMap (Option LossPend) := []
  pool : Pool := {}
  ports : SMap Port := []
  lanes : SMap Lane := []
  route : SMap Nat := []
  fwds : SMap Fwd := []
  inbound : SMap Inbound := []
  seen : List Seen := []
  bcastTag : Nat := 0
  msixTable : SMap Nat := []
  pba : SMap Nat := []
  rings : SMap Ring := []
  jobs : List Job := []
  nextJob : Nat := 0
  lastSq : Nat := 0
  engine : List CEntry := []
  groups : List ReadGroup := []
  nextGroup : Nat := 0
  fabReads : List FabRead := []
  pcieReads : List PcieRead := []
  fabWrites : List FabWrite := []
  holds : List Hold := []
  bells : SMap BellPage := []
  withheld : List (Nat × Nat × Nat) := []
  tagNext : Nat := 0
  seif : SMap SeifEng := []
  zcores : SMap ZCore := []
  zmem : SMap Nat := []
  faPending : Option (Nat × Nat) := none
  zdigest : SMap (List Nat) := []
  secs : SMap Sec := []
  secq : List SecReq := []
  dx : Duplex := {}
  boots : SMap Boot := []
  dorm : Dorm := {}
  dieRails : SMap Nat := []
  dieHot : SMap Nat := []
  tally : SMap Nat := []
  tap : Tap := {}
  out : List Out := []
  deriving DecidableEq, Repr

/-- The node right after power-on is released. -/
def State.reset : State := {}

end Sys2Proof.Machine
end

