-- ==== Sys2Proof/Machine/Fields.lean ====
section
/-! DEFINITION. The register tables of spec/: every field of every W0 register, with its block, its offset, its
bits, its access code (R5), its reset value, the resets that keep it (R10) and its legal values (R7, R8). One
definition a field, named REGISTER_FIELD; one list a block. A field of a register whose own chapter clamps it
against other fields is marked special, and Registers.lean holds its clamp. -/

namespace Sys2Proof.Machine.F

open Sys2Proof

/-- 02_fast_channels.md, R60: 1: front end powered and converting -/
def CH_CTRL_ENABLE : Fld := ⟨1, .chan, 0, false, 0, 1, .rw, 0, 156, .any, 1, 0, 1, 0, .none⟩
/-- 02_fast_channels.md, R60: 0: ±10 V; 1: ±2.5 V; 2: ±625 mV; 3: ±156 mV; 4: ±39 mV. Codes 5 to 7 are undefined. -/
def CH_CTRL_RANGE : Fld := ⟨2, .chan, 0, false, 1, 3, .rw, 0, 156, .enum [0, 1, 2, 3, 4], 1, 0, 1, 0, .none⟩
/-- 02_fast_channels.md, R60: 0: DC; 1: AC 0.16 Hz; 2: AC 16 Hz. Code 3 is undefined. -/
def CH_CTRL_COUPLING : Fld := ⟨3, .chan, 0, false, 4, 2, .rw, 0, 156, .enum [0, 1, 2], 1, 0, 1, 0, .none⟩
/-- 02_fast_channels.md, R60: 1: 4 mA source on; bias off -/
def CH_CTRL_IEPE_EN : Fld := ⟨4, .chan, 0, false, 6, 1, .rw, 0, 156, .any, 1, 0, 1, 0, .none⟩
/-- 02_fast_channels.md, R60: 1: 100 nA open-input bias on -/
def CH_CTRL_BIAS_EN : Fld := ⟨5, .chan, 0, false, 7, 1, .rw, 1, 156, .any, 1, 0, 1, 0, .none⟩
/-- 02_fast_channels.md, R60: 1: subtractive dither on -/
def CH_CTRL_DITHER_EN : Fld := ⟨6, .chan, 0, false, 8, 1, .rw, 1, 156, .any, 1, 0, 1, 0, .none⟩
/-- 02_fast_channels.md, R60: 1: fast stream on -/
def CH_CTRL_FS_EN : Fld := ⟨7, .chan, 0, false, 9, 1, .rw, 0, 156, .any, 1, 0, 1, 0, .none⟩
/-- 02_fast_channels.md, R60: Sample period in ticks, giving 100 kS/s at reset. From 160 to 16,000,000. Values below 160 read back as ... -/
def CH_DIV_DIV : Fld := ⟨8, .chan, 4, false, 0, 24, .rwl, 16000, 156, .range 160 16000000, 1, 0, 1, 0, .none⟩
/-- 02_fast_channels.md, R60: 1: discriminator edges go to the stamping unit -/
def CH_DISC_DISC_EN : Fld := ⟨9, .chan, 8, false, 0, 1, .rw, 0, 156, .any, 1, 0, 1, 0, .none⟩
/-- 02_fast_channels.md, R60: 0: rising; 1: falling; 2: both. Code 3 is undefined. -/
def CH_DISC_DISC_EDGE : Fld := ⟨10, .chan, 8, false, 1, 2, .rw, 0, 156, .enum [0, 1, 2], 1, 0, 1, 0, .none⟩
/-- 02_fast_channels.md, R60: Two's complement, units of FS/2048. From −2048 to +2047; every encoding is legal. -/
def CH_DISC_THRESH : Fld := ⟨11, .chan, 8, false, 4, 12, .rw, 0, 156, .any, 1, 0, 1, 0, .none⟩
/-- 02_fast_channels.md, R60: Units of FS/2048. From 0 to 63; every encoding is legal. -/
def CH_DISC_HYST : Fld := ⟨12, .chan, 8, false, 16, 6, .rw, 2, 156, .any, 1, 0, 1, 0, .none⟩
/-- 02_fast_channels.md, R60: 1: continuity check on -/
def CH_CONT_CONT_EN : Fld := ⟨13, .chan, 12, false, 0, 1, .rw, 0, 156, .any, 1, 0, 1, 0, .none⟩
/-- 02_fast_channels.md, R60: Seconds. From 1 to 3,600. 0 reads back as 1; values above 3,600 read back as 3,600. -/
def CH_CONT_CONT_PERIOD : Fld := ⟨14, .chan, 12, false, 1, 12, .rw, 60, 156, .range 1 3600, 1, 0, 1, 0, .none⟩
/-- 02_fast_channels.md, R60: Units of 10 µV. From 1 to 65,535. 0 reads back as 1. -/
def CH_CONT_CONT_THR : Fld := ⟨15, .chan, 12, false, 16, 16, .rw, 1000, 156, .range 1 65535, 1, 0, 1, 0, .none⟩
/-- 02_fast_channels.md, R60: Milliseconds. From 1 to 65,535. 0 reads back as 1. -/
def CH_OPEN_OPEN_DWELL : Fld := ⟨16, .chan, 16, false, 0, 16, .rw, 100, 156, .range 1 65535, 1, 0, 1, 0, .none⟩
/-- 02_fast_channels.md, R60: Units of 20 mV. From 0 to 255, that is 0 to 5.1 V; every encoding is legal. -/
def CH_PULSER_AMPL : Fld := ⟨17, .chan, 20, false, 0, 8, .rw, 0, 156, .any, 1, 0, 1, 0, .none⟩
/-- 02_fast_channels.md, R60: 0: positive step; 1: negative step -/
def CH_PULSER_POL : Fld := ⟨18, .chan, 20, false, 8, 1, .rw, 0, 156, .any, 1, 0, 1, 0, .none⟩
/-- 02_fast_channels.md, R60: 0: on FIRE only; 1: periodic, under R590; 2: Plumb-timed by descriptor (see *Host interface and descriptor ... -/
def CH_PULSER_MODE : Fld := ⟨19, .chan, 20, false, 9, 2, .rw, 0, 156, .enum [0, 1, 2], 1, 0, 1, 0, .none⟩
/-- 02_fast_channels.md, R60: Milliseconds, for MODE 1. From 1 to 4,095. 0 reads back as 1. -/
def CH_PULSER_PERIOD : Fld := ⟨20, .chan, 20, false, 16, 12, .rw, 1000, 156, .range 1 4095, 1, 0, 1, 0, .none⟩
/-- 02_fast_channels.md, R60: Writing 1 fires once, subject to R58 -/
def CH_PULSER_FIRE : Fld := ⟨21, .chan, 20, false, 31, 1, .wo, 0, 0, .any, 1, 0, 1, 0, .none⟩
/-- 02_fast_channels.md, R60: Over-range comparator tripped -/
def CH_STATUS_OVR_NOW : Fld := ⟨22, .chan, 24, false, 0, 1, .ro, 0, 0, .any, 1, 0, 1, 0, .none⟩
/-- 02_fast_channels.md, R60: A quality-3 span is open -/
def CH_STATUS_SETTLING : Fld := ⟨23, .chan, 24, false, 1, 1, .ro, 0, 0, .any, 1, 0, 1, 0, .none⟩
/-- 02_fast_channels.md, R60: Common mode outside its operating range (R36) -/
def CH_STATUS_CM_NOW : Fld := ⟨24, .chan, 24, false, 2, 1, .ro, 0, 0, .any, 1, 0, 1, 0, .none⟩
/-- 02_fast_channels.md, R60: OR of the three open contributions -/
def CH_STATUS_OPEN_NOW : Fld := ⟨25, .chan, 24, false, 3, 1, .ro, 0, 0, .any, 1, 0, 1, 0, .none⟩
/-- 02_fast_channels.md, R60: IEPE bias below −1 V -/
def CH_STATUS_REVERSED_NOW : Fld := ⟨26, .chan, 24, false, 4, 1, .ro, 0, 0, .any, 1, 0, 1, 0, .none⟩
/-- 02_fast_channels.md, R60: IEPE bias from −1 V to +1 V -/
def CH_STATUS_SHORT_NOW : Fld := ⟨27, .chan, 24, false, 5, 1, .ro, 0, 0, .any, 1, 0, 1, 0, .none⟩
/-- 02_fast_channels.md, R60: Over-range seen -/
def CH_STATUS_OVR : Fld := ⟨28, .chan, 24, false, 8, 1, .w1c, 0, 156, .any, 1, 0, 1, 0, .none⟩
/-- 02_fast_channels.md, R60: Common-mode excursion seen -/
def CH_STATUS_CM : Fld := ⟨29, .chan, 24, false, 9, 1, .w1c, 0, 156, .any, 1, 0, 1, 0, .none⟩
/-- 02_fast_channels.md, R60: OPEN_NOW rose -/
def CH_STATUS_OPEN : Fld := ⟨30, .chan, 24, false, 10, 1, .w1c, 0, 156, .any, 1, 0, 1, 0, .none⟩
/-- 02_fast_channels.md, R60: SHORT_NOW rose -/
def CH_STATUS_SHORT : Fld := ⟨31, .chan, 24, false, 11, 1, .w1c, 0, 156, .any, 1, 0, 1, 0, .none⟩
/-- 02_fast_channels.md, R60: REVERSED_NOW rose -/
def CH_STATUS_REVERSED : Fld := ⟨32, .chan, 24, false, 12, 1, .w1c, 0, 156, .any, 1, 0, 1, 0, .none⟩
/-- 02_fast_channels.md, R60: 1: CH_STATUS.OVR raises the event -/
def CH_EVENT_EN_EV_OVR : Fld := ⟨33, .chan, 28, false, 8, 1, .rw, 0, 156, .any, 1, 0, 1, 0, .none⟩
/-- 02_fast_channels.md, R60: 1: CH_STATUS.CM raises the event -/
def CH_EVENT_EN_EV_CM : Fld := ⟨34, .chan, 28, false, 9, 1, .rw, 0, 156, .any, 1, 0, 1, 0, .none⟩
/-- 02_fast_channels.md, R60: 1: CH_STATUS.OPEN raises the event -/
def CH_EVENT_EN_EV_OPEN : Fld := ⟨35, .chan, 28, false, 10, 1, .rw, 1, 156, .any, 1, 0, 1, 0, .none⟩
/-- 02_fast_channels.md, R60: 1: CH_STATUS.SHORT raises the event -/
def CH_EVENT_EN_EV_SHORT : Fld := ⟨36, .chan, 28, false, 11, 1, .rw, 1, 156, .any, 1, 0, 1, 0, .none⟩
/-- 02_fast_channels.md, R60: 1: CH_STATUS.REVERSED raises the event -/
def CH_EVENT_EN_EV_REV : Fld := ⟨37, .chan, 28, false, 12, 1, .rw, 1, 156, .any, 1, 0, 1, 0, .none⟩
/-- 02_fast_channels.md, R60: Latest bias reading, two's complement, units of 10 mV. Updated only while IEPE_EN is 1. -/
def CH_MON_IEPE_BIAS : Fld := ⟨38, .chan, 32, false, 0, 16, .ro, 0, 156, .any, 1, 0, 1, 0, .none⟩
/-- 02_fast_channels.md, R60: |ΔV| of the last completed check, units of 10 µV, saturating at 65,535 -/
def CH_MON_CONT_DV : Fld := ⟨39, .chan, 32, false, 16, 16, .ro, 0, 156, .any, 1, 0, 1, 0, .none⟩
/-- 02_fast_channels.md, R60: Over-range trips, saturating at 65,535 -/
def CH_OR_COUNT_OR_COUNT : Fld := ⟨40, .chan, 36, false, 0, 16, .ro, 0, 156, .any, 1, 0, 1, 0, .none⟩
/-- 02_fast_channels.md, R60: Writing 1 sets OR_COUNT to 0 -/
def CH_OR_COUNT_CLR : Fld := ⟨41, .chan, 36, false, 31, 1, .wo, 0, 0, .any, 1, 0, 1, 0, .none⟩
/-- 04_decimation.md, R132: 1: chain runs and delivers decimated words -/
def DEC_CTRL_DEC_EN : Fld := ⟨102, .chan, 64, false, 0, 1, .rw, 0, 156, .any, 1, 0, 1, 0, .none⟩
/-- 04_decimation.md, R132: 1: HB1 in the chain -/
def DEC_CTRL_HB1_EN : Fld := ⟨103, .chan, 64, false, 1, 1, .rw, 1, 156, .any, 1, 0, 1, 0, .none⟩
/-- 04_decimation.md, R132: 1: HB2 in the chain -/
def DEC_CTRL_HB2_EN : Fld := ⟨104, .chan, 64, false, 2, 1, .rw, 1, 156, .any, 1, 0, 1, 0, .none⟩
/-- 04_decimation.md, R132: 1: DC block subtracts -/
def DEC_CTRL_DCB_EN : Fld := ⟨105, .chan, 64, false, 3, 1, .rw, 0, 156, .any, 1, 0, 1, 0, .none⟩
/-- 04_decimation.md, R132: 1: offset estimate held (R116) -/
def DEC_CTRL_DCB_FREEZE : Fld := ⟨106, .chan, 64, false, 4, 1, .rw, 0, 156, .any, 1, 0, 1, 0, .none⟩
/-- 04_decimation.md, R132: 1: alignments act on this chain -/
def DEC_CTRL_SYNC_EN : Fld := ⟨107, .chan, 64, false, 5, 1, .rw, 1, 156, .any, 1, 0, 1, 0, .none⟩
/-- 04_decimation.md, R132: 1: excitation changes restart the chain (R129) -/
def DEC_CTRL_EXC_DEP : Fld := ⟨108, .chan, 64, false, 6, 1, .rw, 0, 156, .any, 1, 0, 1, 0, .none⟩
/-- 04_decimation.md, R132: 0 to 15: built-in set; 16 to 19: user set 0 to 3. Codes 20 to 31 are undefined. -/
def DEC_CTRL_FIR_SET : Fld := ⟨109, .chan, 64, false, 8, 5, .rw, 5, 156, .enum [0, 1, 2, 3, 4, 5, 6, 7, 8, 9, 10, 11, 12, 13, 14, 15, 16, 17, 18, 19], 1, 0, 1, 0, .none⟩
/-- 04_decimation.md, R132: CIC decimation. From 4 to 4,096, raised further under R112. Values below read back as the minimum; values ... -/
def DEC_CTRL_D : Fld := ⟨110, .chan, 64, false, 16, 13, .rw, 16, 156, .special, 1, 0, 1, 0, .none⟩
/-- 04_decimation.md, R132: Shift after CIC, beyond B_C. From 0 to 31; every encoding is legal. -/
def DEC_SHIFT_SH0 : Fld := ⟨111, .chan, 68, false, 0, 5, .rw, 10, 156, .any, 1, 0, 1, 0, .none⟩
/-- 04_decimation.md, R132: Shift after HB1. From 0 to 31; every encoding is legal. -/
def DEC_SHIFT_SH1 : Fld := ⟨112, .chan, 68, false, 5, 5, .rw, 0, 156, .any, 1, 0, 1, 0, .none⟩
/-- 04_decimation.md, R132: Shift after HB2. From 0 to 31; every encoding is legal. -/
def DEC_SHIFT_SH2 : Fld := ⟨113, .chan, 68, false, 10, 5, .rw, 0, 156, .any, 1, 0, 1, 0, .none⟩
/-- 04_decimation.md, R132: Shift after FIR. From 0 to 31; every encoding is legal. -/
def DEC_SHIFT_SH3 : Fld := ⟨114, .chan, 68, false, 15, 5, .rw, 0, 156, .any, 1, 0, 1, 0, .none⟩
/-- 04_decimation.md, R132: Output shift. From 0 to 31; every encoding is legal. -/
def DEC_SHIFT_SH4 : Fld := ⟨115, .chan, 68, false, 20, 5, .rw, 0, 156, .any, 1, 0, 1, 0, .none⟩
/-- 04_decimation.md, R132: Units of 0.001 Hz. From 1 to 10,000, and at most f_out / 100. 0 reads back as 1; higher values read back ... -/
def DEC_DCB_DCB_CORNER : Fld := ⟨116, .chan, 72, false, 0, 14, .rw, 100, 156, .special, 1, 0, 1, 0, .none⟩
/-- 04_decimation.md, R132: Outputs averaged at start (R115). From 1 to 65,535. 0 reads back as 1. -/
def DEC_DCB_DCB_ACQ : Fld := ⟨117, .chan, 72, false, 16, 16, .rw, 64, 156, .range 1 65535, 1, 0, 1, 0, .none⟩
/-- 04_decimation.md, R132: A suppression run is open -/
def DEC_STATUS_SUPPRESSING : Fld := ⟨118, .chan, 76, false, 0, 1, .ro, 0, 0, .any, 1, 0, 1, 0, .none⟩
/-- 04_decimation.md, R132: Output times equal S + k × T_out (R120) -/
def DEC_STATUS_ALIGNED : Fld := ⟨119, .chan, 76, false, 1, 1, .ro, 0, 0, .any, 1, 0, 1, 0, .none⟩
/-- 04_decimation.md, R132: A stage saturated -/
def DEC_STATUS_SAT : Fld := ⟨120, .chan, 76, false, 8, 1, .w1c, 0, 156, .any, 1, 0, 1, 0, .none⟩
/-- 04_decimation.md, R132: A settle-gap record was sent -/
def DEC_STATUS_GAP : Fld := ⟨121, .chan, 76, false, 9, 1, .w1c, 0, 156, .any, 1, 0, 1, 0, .none⟩
/-- 04_decimation.md, R132: The sample grid moved (R124) -/
def DEC_STATUS_GRID_MOVED : Fld := ⟨122, .chan, 76, false, 10, 1, .w1c, 0, 156, .any, 1, 0, 1, 0, .none⟩
/-- 04_decimation.md, R132: Settle count of the configuration in force (R118) -/
def DEC_SETTLE_S : Fld := ⟨123, .chan, 80, false, 0, 20, .ro, 79, 156, .any, 1, 0, 1, 0, .none⟩
/-- 04_decimation.md, R132: Total decimation of the configuration in force -/
def DEC_DT_D_T : Fld := ⟨124, .chan, 84, false, 0, 18, .ro, 128, 156, .any, 1, 0, 1, 0, .none⟩
/-- 04_decimation.md, R132: G × DIV in fine units, for the configuration in force -/
def DEC_GD_GD : Fld := ⟨125, .chan, 88, true, 0, 64, .ro, 41070592000, 156, .any, 1, 0, 1, 0, .none⟩
/-- 04_decimation.md, R132: Δ of R119, in ticks, for the configuration in force -/
def DEC_GRID_DELTA : Fld := ⟨126, .chan, 96, false, 0, 24, .ro, 8000, 156, .any, 1, 0, 1, 0, .none⟩
/-- 10_records.md, R302: Quad words per fast-stream block. From 4 to 1,020. Values below read back as 4; values above read back as ... -/
def REC_FS_FS_QW : Fld := ⟨351, .chan, 40, false, 0, 10, .rw, 512, 156, .range 4 1020, 1, 0, 1, 0, .none⟩
/-- 10_records.md, R302: ms. From 1 to 65,535. 0 reads back as 1. -/
def REC_FS_FS_TIMEOUT : Fld := ⟨352, .chan, 40, false, 16, 16, .rw, 100, 156, .range 1 65535, 1, 0, 1, 0, .none⟩
/-- 10_records.md, R302: Decimated words per block. From 1 to 2,038. 0 reads back as 1; values above read back as 2,038. -/
def REC_DEC_DEC_N : Fld := ⟨353, .chan, 44, false, 0, 11, .rw, 256, 156, .range 1 2038, 1, 0, 1, 0, .none⟩
/-- 10_records.md, R302: ms. From 1 to 65,535. 0 reads back as 1. -/
def REC_DEC_DEC_TIMEOUT : Fld := ⟨354, .chan, 44, false, 16, 16, .rw, 1000, 156, .range 1 65535, 1, 0, 1, 0, .none⟩

/-- Fields of block chan, part 0. -/
def chanTable0 : List Fld := [
  CH_CTRL_ENABLE, CH_CTRL_RANGE, CH_CTRL_COUPLING, CH_CTRL_IEPE_EN, CH_CTRL_BIAS_EN, CH_CTRL_DITHER_EN,
  CH_CTRL_FS_EN, CH_DIV_DIV, CH_DISC_DISC_EN, CH_DISC_DISC_EDGE, CH_DISC_THRESH, CH_DISC_HYST,
  CH_CONT_CONT_EN, CH_CONT_CONT_PERIOD, CH_CONT_CONT_THR, CH_OPEN_OPEN_DWELL, CH_PULSER_AMPL, CH_PULSER_POL,
  CH_PULSER_MODE, CH_PULSER_PERIOD, CH_PULSER_FIRE, CH_STATUS_OVR_NOW, CH_STATUS_SETTLING, CH_STATUS_CM_NOW,
  CH_STATUS_OPEN_NOW, CH_STATUS_REVERSED_NOW, CH_STATUS_SHORT_NOW, CH_STATUS_OVR, CH_STATUS_CM, CH_STATUS_OPEN,
  CH_STATUS_SHORT, CH_STATUS_REVERSED, CH_EVENT_EN_EV_OVR, CH_EVENT_EN_EV_CM, CH_EVENT_EN_EV_OPEN, CH_EVENT_EN_EV_SHORT,
  CH_EVENT_EN_EV_REV, CH_MON_IEPE_BIAS, CH_MON_CONT_DV, CH_OR_COUNT_OR_COUNT]

/-- Fields of block chan, part 1. -/
def chanTable1 : List Fld := [
  CH_OR_COUNT_CLR, DEC_CTRL_DEC_EN, DEC_CTRL_HB1_EN, DEC_CTRL_HB2_EN, DEC_CTRL_DCB_EN, DEC_CTRL_DCB_FREEZE,
  DEC_CTRL_SYNC_EN, DEC_CTRL_EXC_DEP, DEC_CTRL_FIR_SET, DEC_CTRL_D, DEC_SHIFT_SH0, DEC_SHIFT_SH1,
  DEC_SHIFT_SH2, DEC_SHIFT_SH3, DEC_SHIFT_SH4, DEC_DCB_DCB_CORNER, DEC_DCB_DCB_ACQ, DEC_STATUS_SUPPRESSING,
  DEC_STATUS_ALIGNED, DEC_STATUS_SAT, DEC_STATUS_GAP, DEC_STATUS_GRID_MOVED, DEC_SETTLE_S, DEC_DT_D_T,
  DEC_GD_GD, DEC_GRID_DELTA, REC_FS_FS_QW, REC_FS_FS_TIMEOUT, REC_DEC_DEC_N, REC_DEC_DEC_TIMEOUT]

/-- Every field of block chan. -/
def chanTable : List Fld := chanTable0 ++ chanTable1

/-- 03_bent_scanner.md, R103: 0: idle; 1: scanner; 2: loop slice. Code 3 is undefined. -/
def BENT_CTRL_USE : Fld := ⟨42, .bent, 0, false, 0, 2, .rw, 0, 156, .enum [0, 1, 2], 1, 0, 1, 0, .none⟩
/-- 03_bent_scanner.md, R103: 1: sequencer runs while USE is 1 -/
def BENT_CTRL_SEQ_RUN : Fld := ⟨43, .bent, 0, false, 4, 1, .rw, 0, 156, .any, 1, 0, 1, 0, .none⟩
/-- 03_bent_scanner.md, R103: Entries per pass minus 1. From 0 to 15; every encoding is legal. -/
def BENT_CTRL_SEQ_LEN_M1 : Fld := ⟨44, .bent, 0, false, 8, 4, .rw, 0, 156, .any, 1, 0, 1, 0, .none⟩
/-- 03_bent_scanner.md, R103: 1: 50 Hz notch -/
def BENT_CTRL_NOTCH_50 : Fld := ⟨45, .bent, 0, false, 16, 1, .rw, 1, 156, .any, 1, 0, 1, 0, .none⟩
/-- 03_bent_scanner.md, R103: 1: 60 Hz notch -/
def BENT_CTRL_NOTCH_60 : Fld := ⟨46, .bent, 0, false, 17, 1, .rw, 0, 156, .any, 1, 0, 1, 0, .none⟩
/-- 03_bent_scanner.md, R103: 1: 16.7 Hz notch -/
def BENT_CTRL_NOTCH_167 : Fld := ⟨47, .bent, 0, false, 18, 1, .rw, 0, 156, .any, 1, 0, 1, 0, .none⟩
/-- 03_bent_scanner.md, R103: 1: the bent cross-trigger requests an urgent entry -/
def BENT_CTRL_URG_TRIG_EN : Fld := ⟨48, .bent, 0, false, 20, 1, .rw, 0, 156, .any, 1, 0, 1, 0, .none⟩
/-- 03_bent_scanner.md, R103: Milliseconds; 0 means back to back. From 0 to 86,400,000. Values above 86,400,000 read back as 86,400,000. -/
def BENT_PASS_PASS_PERIOD : Fld := ⟨49, .bent, 4, false, 0, 27, .rw, 1000, 156, .range 0 86400000, 1, 0, 1, 0, .none⟩
/-- 03_bent_scanner.md, R103: Results per record. From 1 to 64. 0 reads back as 1; values above 64 read back as 64. -/
def BENT_REC_REC_N : Fld := ⟨50, .bent, 8, false, 0, 7, .rw, 16, 156, .range 1 64, 1, 0, 1, 0, .none⟩
/-- 03_bent_scanner.md, R103: Milliseconds. From 1 to 65,535. 0 reads back as 1. -/
def BENT_REC_REC_TIMEOUT : Fld := ⟨51, .bent, 8, false, 16, 16, .rw, 100, 156, .range 1 65535, 1, 0, 1, 0, .none⟩
/-- 03_bent_scanner.md, R103: An entry or urgent entry is running -/
def BENT_STATUS_SEQ_ACTIVE : Fld := ⟨52, .bent, 16, false, 0, 1, .ro, 0, 0, .any, 1, 0, 1, 0, .none⟩
/-- 03_bent_scanner.md, R103: Entry running or last run -/
def BENT_STATUS_ENTRY_NOW : Fld := ⟨53, .bent, 16, false, 1, 4, .ro, 0, 0, .any, 1, 0, 1, 0, .none⟩
/-- 03_bent_scanner.md, R103: Driver shut down under R85 -/
def BENT_STATUS_EXC_SHORT_NOW : Fld := ⟨54, .bent, 16, false, 5, 1, .ro, 0, 0, .any, 1, 0, 1, 0, .none⟩
/-- 03_bent_scanner.md, R103: EXC_SHORT_NOW rose -/
def BENT_STATUS_EXC_SHORT : Fld := ⟨55, .bent, 16, false, 8, 1, .w1c, 0, 156, .any, 1, 0, 1, 0, .none⟩
/-- 03_bent_scanner.md, R103: A result carried OPEN -/
def BENT_STATUS_OPEN : Fld := ⟨56, .bent, 16, false, 9, 1, .w1c, 0, 156, .any, 1, 0, 1, 0, .none⟩
/-- 03_bent_scanner.md, R103: A result carried REVERSED -/
def BENT_STATUS_REVERSED : Fld := ⟨57, .bent, 16, false, 10, 1, .w1c, 0, 156, .any, 1, 0, 1, 0, .none⟩
/-- 03_bent_scanner.md, R103: A result carried LEAD_HIGH -/
def BENT_STATUS_LEAD_HIGH : Fld := ⟨58, .bent, 16, false, 11, 1, .w1c, 0, 156, .any, 1, 0, 1, 0, .none⟩
/-- 03_bent_scanner.md, R103: An urgent request was dropped -/
def BENT_STATUS_URGENT_DROP : Fld := ⟨59, .bent, 16, false, 12, 1, .w1c, 0, 156, .any, 1, 0, 1, 0, .none⟩
/-- 03_bent_scanner.md, R103: A start instant was skipped -/
def BENT_STATUS_PASS_SKIP : Fld := ⟨60, .bent, 16, false, 13, 1, .w1c, 0, 156, .any, 1, 0, 1, 0, .none⟩
/-- 03_bent_scanner.md, R103: Bit n enables event raising by BENT_STATUS bit n + 8 -/
def BENT_EVENT_EN_EV_MASK : Fld := ⟨61, .bent, 20, false, 8, 6, .rw, 15, 156, .any, 1, 0, 1, 0, .none⟩
/-- 03_bent_scanner.md, R103: Dropped urgent requests, saturating at 65,535 -/
def BENT_COUNT_URGENT_DROPS : Fld := ⟨62, .bent, 24, false, 0, 16, .ro, 0, 156, .any, 1, 0, 1, 0, .none⟩
/-- 03_bent_scanner.md, R103: Skipped start instants, saturating at 32,767 -/
def BENT_COUNT_PASS_SKIPS : Fld := ⟨63, .bent, 24, false, 16, 15, .ro, 0, 156, .any, 1, 0, 1, 0, .none⟩
/-- 03_bent_scanner.md, R103: Writing 1 sets both counts to 0 -/
def BENT_COUNT_CLR : Fld := ⟨64, .bent, 24, false, 31, 1, .wo, 0, 0, .any, 1, 0, 1, 0, .none⟩
/-- 03_bent_scanner.md, R103: Entry to run. From 0 to 15; every encoding is legal. -/
def BENT_URGENT_ENTRY : Fld := ⟨65, .bent, 28, false, 0, 4, .rw, 0, 156, .any, 1, 0, 1, 0, .none⟩
/-- 03_bent_scanner.md, R103: Writing 1 makes a request under R93 -/
def BENT_URGENT_GO : Fld := ⟨66, .bent, 28, false, 31, 1, .wo, 0, 0, .any, 1, 0, 1, 0, .none⟩
/-- 03_bent_scanner.md, R103: 1: this bent drives the bus under R97 -/
def BENT_CAL_SRC_EN : Fld := ⟨67, .bent, 32, false, 0, 1, .rw, 0, 156, .any, 1, 0, 1, 0, .none⟩
/-- 03_bent_scanner.md, R103: Channels switched to the bus during this bent's bus entries -/
def BENT_CAL_CH_MASK : Fld := ⟨68, .bent, 32, false, 8, 8, .rw, 0, 156, .any, 1, 0, 1, 0, .none⟩
/-- 03_bent_scanner.md, R103: Two's complement, units of 1 mV. From −10,000 to +10,000. Values beyond read back as the nearer limit. -/
def BENT_CAL_CAL_LEVEL : Fld := ⟨69, .bent, 32, false, 16, 16, .rw, 0, 156, .srange (-10000) 10000, 1, 0, 1, 0, .none⟩
/-- 03_bent_scanner.md, R103: mΩ per wire. From 0 to 625,000. Values above 625,000 read back as 625,000. -/
def BENT_LEADMAX_LEAD_MAX : Fld := ⟨70, .bent, 36, false, 0, 20, .rw, 50000, 156, .range 0 625000, 1, 0, 1, 0, .none⟩
/-- 03_bent_scanner.md, R103: Scanner calibration epoch under R102 -/
def SCAN_EPOCH_EPOCH : Fld := ⟨71, .bent, 40, false, 0, 16, .ro, 0, 254, .any, 1, 0, 1, 0, .none⟩
/-- 03_bent_scanner.md, R103: 0: off; 1: DC; 2: DC-reversing; 3: sine; 4: sweep; 5: pluck. Codes 6 and 7 are undefined. -/
def EXC_PROF_WAVE : Fld := ⟨72, .bent, 64, false, 0, 3, .rw, 0, 156, .enum [0, 1, 2, 3, 4, 5], 4, 16, 1, 0, .none⟩
/-- 03_bent_scanner.md, R103: 0: voltage; 1: current -/
def EXC_PROF_REG : Fld := ⟨73, .bent, 64, false, 3, 1, .rw, 0, 156, .any, 4, 16, 1, 0, .none⟩
/-- 03_bent_scanner.md, R103: 1: voltage regulated at sense terminals (6-wire) -/
def EXC_PROF_SENSE : Fld := ⟨74, .bent, 64, false, 4, 1, .rw, 0, 156, .any, 4, 16, 1, 0, .none⟩
/-- 03_bent_scanner.md, R103: Discarded demodulation periods. From 1 to 255. 0 reads back as 1. -/
def EXC_PROF_SETTLE : Fld := ⟨75, .bent, 64, false, 8, 8, .rw, 1, 156, .range 1 255, 4, 16, 1, 0, .none⟩
/-- 03_bent_scanner.md, R103: Sweep length in ms. From 1 to 65,535. 0 reads back as 1. -/
def EXC_PROF_DURATION : Fld := ⟨76, .bent, 64, false, 16, 16, .rw, 100, 156, .range 1 65535, 4, 16, 1, 0, .none⟩
/-- 03_bent_scanner.md, R103: mV peak for REG 0, from 0 to 10,000; µA for REG 1, from 0 to 25,000. Values beyond read back as the limit. -/
def EXC_PROF_AMPL : Fld := ⟨77, .bent, 68, false, 0, 16, .rw, 0, 156, .special, 4, 16, 1, 0, .none⟩
/-- 03_bent_scanner.md, R103: Units of 0.01 Hz. From 10,000 to 2,000,000. Values beyond read back as the nearer limit. -/
def EXC_PROF_FREQ : Fld := ⟨78, .bent, 72, false, 0, 21, .rw, 200000, 156, .range 10000 2000000, 4, 16, 1, 0, .none⟩
/-- 03_bent_scanner.md, R103: Hz. From 400 to 6,500. Values beyond read back as the nearer limit. -/
def EXC_PROF_F_START : Fld := ⟨79, .bent, 76, false, 0, 13, .rw, 400, 156, .range 400 6500, 4, 16, 1, 0, .none⟩
/-- 03_bent_scanner.md, R103: Hz. From 400 to 6,500. Values beyond read back as the nearer limit. -/
def EXC_PROF_F_STOP : Fld := ⟨80, .bent, 76, false, 16, 13, .rw, 6500, 156, .range 400 6500, 4, 16, 1, 0, .none⟩
/-- 03_bent_scanner.md, R103: Router code. Codes 13 to 15 are undefined. -/
def SEQ_ENTRY_INPUT : Fld := ⟨81, .bent, 256, false, 0, 4, .rw, 0, 156, .enum [0, 1, 2, 3, 4, 5, 6, 7, 8, 9, 10, 11, 12], 16, 16, 1, 0, .none⟩
/-- 03_bent_scanner.md, R103: Codes 0 to 7 per the mode table; codes 8 to 15 are undefined -/
def SEQ_ENTRY_MODE : Fld := ⟨82, .bent, 256, false, 4, 4, .rw, 0, 156, .enum [0, 1, 2, 3, 4, 5, 6, 7], 16, 16, 1, 0, .none⟩
/-- 03_bent_scanner.md, R103: Per the mode table; undefined codes give 0 -/
def SEQ_ENTRY_SUB : Fld := ⟨83, .bent, 256, false, 8, 3, .rw, 0, 156, .special, 16, 16, 1, 0, .none⟩
/-- 03_bent_scanner.md, R103: Scanner gain code -/
def SEQ_ENTRY_GAIN : Fld := ⟨84, .bent, 256, false, 12, 2, .rw, 0, 156, .any, 16, 16, 1, 0, .none⟩
/-- 03_bent_scanner.md, R103: Excitation profile -/
def SEQ_ENTRY_PROFILE : Fld := ⟨85, .bent, 256, false, 14, 2, .rw, 0, 156, .any, 16, 16, 1, 0, .none⟩
/-- 03_bent_scanner.md, R103: Lead policy -/
def SEQ_ENTRY_LEAD_POL : Fld := ⟨86, .bent, 256, false, 16, 2, .rw, 0, 156, .any, 16, 16, 1, 0, .none⟩
/-- 03_bent_scanner.md, R103: µs. From 1 to 255. 0 reads back as 1. -/
def SEQ_ENTRY_DISCH : Fld := ⟨87, .bent, 256, false, 24, 8, .rw, 1, 156, .range 1 255, 16, 16, 1, 0, .none⟩
/-- 03_bent_scanner.md, R103: Carrier periods or µs. From 1 to 16,777,215 in sine modes and from 20 to 16,777,215 in DC modes. Values ... -/
def SEQ_ENTRY_SAMPLE_TIME : Fld := ⟨88, .bent, 260, false, 0, 24, .rw, 100, 156, .special, 16, 16, 1, 0, .none⟩
/-- 03_bent_scanner.md, R103: Passes per lead step. From 1 to 65,535. 0 reads back as 1. -/
def SEQ_ENTRY_LEAD_N : Fld := ⟨89, .bent, 264, false, 0, 16, .rw, 1, 156, .range 1 65535, 16, 16, 1, 0, .none⟩
/-- 03_bent_scanner.md, R103: Regression unit, from 0 to 31; every encoding is legal -/
def SEQ_ENTRY_REG_UNIT : Fld := ⟨90, .bent, 264, false, 16, 5, .rw, 0, 156, .any, 16, 16, 1, 0, .none⟩
/-- 03_bent_scanner.md, R103: ms. From 1 to 65,535. 0 reads back as 1. -/
def SEQ_ENTRY_LISTEN : Fld := ⟨91, .bent, 268, false, 0, 16, .rw, 500, 156, .range 1 65535, 16, 16, 1, 0, .none⟩
/-- 03_bent_scanner.md, R103: mΩ per wire, pole P. From 0 to 625,000. Values above read back as 625,000. -/
def LEAD_LEAD_P : Fld := ⟨92, .bent, 512, false, 0, 20, .rw, 0, 254, .range 0 625000, 8, 8, 1, 0, .none⟩
/-- 03_bent_scanner.md, R103: mΩ per wire, pole N. Same range and clamp. -/
def LEAD_LEAD_N : Fld := ⟨93, .bent, 516, false, 0, 20, .rw, 0, 254, .range 0 625000, 8, 8, 1, 0, .none⟩
/-- 03_bent_scanner.md, R103: Q2.30; every encoding is legal -/
def SCAN_GAIN_CAL : Fld := ⟨94, .bent, 768, false, 0, 32, .rw, 0, 254, .any, 4, 4, 1, 0, .none⟩
/-- 03_bent_scanner.md, R103: Two's complement, 1/256 LSB; every encoding is legal -/
def SCAN_OFS_CAL : Fld := ⟨95, .bent, 784, false, 0, 24, .rw, 0, 254, .any, 4, 4, 1, 0, .none⟩
/-- 03_bent_scanner.md, R103: Q2.30 -/
def EXC_GAIN_CAL : Fld := ⟨96, .bent, 800, false, 0, 32, .rw, 0, 254, .any, 1, 0, 1, 0, .none⟩
/-- 03_bent_scanner.md, R103: Two's complement, 1/256 DAC LSB -/
def EXC_OFS_CAL : Fld := ⟨97, .bent, 804, false, 0, 24, .rw, 0, 254, .any, 1, 0, 1, 0, .none⟩
/-- 03_bent_scanner.md, R103: Q2.30 -/
def IMON_GAIN_CAL : Fld := ⟨98, .bent, 808, false, 0, 32, .rw, 0, 254, .any, 1, 0, 1, 0, .none⟩
/-- 03_bent_scanner.md, R103: Q2.30 -/
def CH_GAIN_CAL : Fld := ⟨99, .bent, 1024, false, 0, 32, .rw, 0, 254, .any, 8, 64, 5, 8, .none⟩
/-- 03_bent_scanner.md, R103: Two's complement, 1/256 LSB -/
def CH_OFS_CAL : Fld := ⟨100, .bent, 1028, false, 0, 24, .rw, 0, 254, .any, 8, 64, 5, 8, .none⟩
/-- 03_bent_scanner.md, R103: Fast-channel calibration epoch under R102 -/
def CH_EPOCH : Fld := ⟨101, .bent, 1080, false, 0, 16, .ro, 0, 254, .any, 8, 64, 1, 0, .none⟩
/-- 17_duplex.md, R503: 1: pair interlock on -/
def BENT_PAIR_EN : Fld := ⟨549, .bent, 44, false, 0, 1, .rw, 0, 156, .any, 1, 0, 1, 0, .none⟩
/-- 17_duplex.md, R503: Parity of this bent's start instants -/
def BENT_PAIR_SLOT : Fld := ⟨550, .bent, 44, false, 1, 1, .rw, 0, 156, .any, 1, 0, 1, 0, .none⟩
/-- 17_duplex.md, R503: 1: every start instant used -/
def BENT_PAIR_SOLO : Fld := ⟨551, .bent, 44, false, 2, 1, .rw, 0, 156, .any, 1, 0, 1, 0, .none⟩
/-- 17_duplex.md, R503: 1: SOLO follows the partner Tenon (R503) -/
def BENT_PAIR_AUTO_SOLO : Fld := ⟨552, .bent, 44, false, 3, 1, .rw, 1, 156, .any, 1, 0, 1, 0, .none⟩
/-- 17_duplex.md, R503: From 0 to 5. Values above 5 read back as 5. -/
def BENT_PAIR_PARTNER_T : Fld := ⟨553, .bent, 44, false, 8, 3, .rw, 0, 156, .range 0 5, 1, 0, 1, 0, .none⟩
/-- 17_duplex.md, R503: From 0 to 15; every encoding is legal -/
def BENT_PAIR_PARTNER_B : Fld := ⟨554, .bent, 44, false, 12, 4, .rw, 0, 156, .any, 1, 0, 1, 0, .none⟩
/-- 17_duplex.md, R503: µs. From 100 to 65,535. Values below read back as 100. -/
def BENT_PAIR_GUARD : Fld := ⟨555, .bent, 44, false, 16, 16, .rw, 1000, 156, .range 100 65535, 1, 0, 1, 0, .none⟩

/-- Fields of block bent, part 0. -/
def bentTable0 : List Fld := [
  BENT_CTRL_USE, BENT_CTRL_SEQ_RUN, BENT_CTRL_SEQ_LEN_M1, BENT_CTRL_NOTCH_50, BENT_CTRL_NOTCH_60, BENT_CTRL_NOTCH_167,
  BENT_CTRL_URG_TRIG_EN, BENT_PASS_PASS_PERIOD, BENT_REC_REC_N, BENT_REC_REC_TIMEOUT, BENT_STATUS_SEQ_ACTIVE, BENT_STATUS_ENTRY_NOW,
  BENT_STATUS_EXC_SHORT_NOW, BENT_STATUS_EXC_SHORT, BENT_STATUS_OPEN, BENT_STATUS_REVERSED, BENT_STATUS_LEAD_HIGH, BENT_STATUS_URGENT_DROP,
  BENT_STATUS_PASS_SKIP, BENT_EVENT_EN_EV_MASK, BENT_COUNT_URGENT_DROPS, BENT_COUNT_PASS_SKIPS, BENT_COUNT_CLR, BENT_URGENT_ENTRY,
  BENT_URGENT_GO, BENT_CAL_SRC_EN, BENT_CAL_CH_MASK, BENT_CAL_CAL_LEVEL, BENT_LEADMAX_LEAD_MAX, SCAN_EPOCH_EPOCH,
  EXC_PROF_WAVE, EXC_PROF_REG, EXC_PROF_SENSE, EXC_PROF_SETTLE, EXC_PROF_DURATION, EXC_PROF_AMPL,
  EXC_PROF_FREQ, EXC_PROF_F_START, EXC_PROF_F_STOP, SEQ_ENTRY_INPUT]

/-- Fields of block bent, part 1. -/
def bentTable1 : List Fld := [
  SEQ_ENTRY_MODE, SEQ_ENTRY_SUB, SEQ_ENTRY_GAIN, SEQ_ENTRY_PROFILE, SEQ_ENTRY_LEAD_POL, SEQ_ENTRY_DISCH,
  SEQ_ENTRY_SAMPLE_TIME, SEQ_ENTRY_LEAD_N, SEQ_ENTRY_REG_UNIT, SEQ_ENTRY_LISTEN, LEAD_LEAD_P, LEAD_LEAD_N,
  SCAN_GAIN_CAL, SCAN_OFS_CAL, EXC_GAIN_CAL, EXC_OFS_CAL, IMON_GAIN_CAL, CH_GAIN_CAL,
  CH_OFS_CAL, CH_EPOCH, BENT_PAIR_EN, BENT_PAIR_SLOT, BENT_PAIR_SOLO, BENT_PAIR_AUTO_SOLO,
  BENT_PAIR_PARTNER_T, BENT_PAIR_PARTNER_B, BENT_PAIR_GUARD]

/-- Every field of block bent. -/
def bentTable : List Fld := bentTable0 ++ bentTable1

/-- 04_decimation.md, R132: S of the most recent alignment, TAI seconds -/
def DEC_SYNC_STAT_LAST_SEC : Fld := ⟨127, .tdie, 28672, true, 0, 40, .ro, 0, 220, .any, 1, 0, 1, 0, .none⟩
/-- 04_decimation.md, R132: Refused sync commands (R123), saturating at 255 -/
def DEC_SYNC_STAT_LATE_COUNT : Fld := ⟨128, .tdie, 28672, true, 40, 8, .ro, 0, 220, .any, 1, 0, 1, 0, .none⟩
/-- 04_decimation.md, R132: A sync command was refused -/
def DEC_SYNC_STAT_LATE : Fld := ⟨129, .tdie, 28672, true, 48, 1, .w1c, 0, 220, .any, 1, 0, 1, 0, .none⟩
/-- 04_decimation.md, R132: Writing 1 sets LATE_COUNT to 0 -/
def DEC_SYNC_STAT_CLR : Fld := ⟨130, .tdie, 28672, true, 63, 1, .wo, 0, 0, .any, 1, 0, 1, 0, .none⟩
/-- 04_decimation.md, R132: Taps of the shadow set. From 1 to 128. 0 reads back as 1; values above 128 read back as 128. -/
def UF_HDR_N_TAPS : Fld := ⟨131, .tdie, 32768, false, 0, 8, .rw, 1, 220, .range 1 128, 4, 1024, 1, 0, .none⟩
/-- 04_decimation.md, R132: F: 0 for 1, 1 for 2, 2 for 4, 3 for 8; every encoding is legal -/
def UF_HDR_F_CODE : Fld := ⟨132, .tdie, 32768, false, 8, 2, .rw, 0, 220, .any, 4, 1024, 1, 0, .none⟩
/-- 04_decimation.md, R132: Declared group delay, units of 1/16 FIR input sample. From 0 to (N_TAPS − 1) × 16. Values above read back ... -/
def UF_HDR_GD : Fld := ⟨133, .tdie, 32768, false, 16, 16, .rw, 0, 220, .special, 4, 1024, 1, 0, .none⟩
/-- 04_decimation.md, R132: Writing 1 copies the shadow set to the active set (R111) -/
def UF_COMMIT_COMMIT : Fld := ⟨134, .tdie, 32772, false, 0, 1, .wo, 0, 0, .any, 4, 1024, 1, 0, .none⟩
/-- 04_decimation.md, R132: Shadow coefficient i, Q1.23 two's complement; every encoding is legal. Coefficient 0 multiplies the newest ... -/
def UF_COEF_COEF : Fld := ⟨135, .tdie, 33024, false, 0, 24, .rw, 0, 220, .any, 4, 1024, 128, 4, .none⟩
/-- 04_decimation.md, R132: HB1 tap i, Q1.17 -/
def HB1_COEF : Fld := ⟨136, .tdie, 39936, false, 0, 18, .ro, 0, 0, .any, 27, 4, 1, 0, .none⟩
/-- 04_decimation.md, R132: HB2 tap i, Q1.17 -/
def HB2_COEF : Fld := ⟨137, .tdie, 40192, false, 0, 18, .ro, 0, 0, .any, 47, 4, 1, 0, .none⟩
/-- 04_decimation.md, R132: Tap i of built-in set s, Q1.23; taps from N upwards read zero -/
def FIR_COEF : Fld := ⟨138, .tdie, 40960, false, 0, 24, .ro, 0, 0, .any, 16, 512, 128, 4, .none⟩

/-- Fields of block tdie. -/
def tdieTable : List Fld := [
  DEC_SYNC_STAT_LAST_SEC, DEC_SYNC_STAT_LATE_COUNT, DEC_SYNC_STAT_LATE, DEC_SYNC_STAT_CLR, UF_HDR_N_TAPS, UF_HDR_F_CODE,
  UF_HDR_GD, UF_COMMIT_COMMIT, UF_COEF_COEF, HB1_COEF, HB2_COEF, FIR_COEF]

/-- 05_segmented_capture.md, R163: 0: HOLD; 1: STREAM. Codes 2 and 3 are undefined. -/
def CAP_CTRL_MODE : Fld := ⟨139, .cap, 0, false, 0, 2, .rwl, 0, 156, .enum [0, 1], 1, 0, 1, 0, .none⟩
/-- 05_segmented_capture.md, R163: 0: rising; 1: falling; 2: either. Code 3 is undefined. -/
def CAP_CTRL_EDGE : Fld := ⟨140, .cap, 0, false, 2, 2, .rw, 0, 156, .enum [0, 1, 2], 1, 0, 1, 0, .none⟩
/-- 05_segmented_capture.md, R163: 1: level trigger enabled -/
def CAP_CTRL_SRC_LEVEL : Fld := ⟨141, .cap, 0, false, 4, 1, .rw, 1, 156, .any, 1, 0, 1, 0, .none⟩
/-- 05_segmented_capture.md, R163: 1: bent cross-trigger enabled -/
def CAP_CTRL_SRC_BENT : Fld := ⟨142, .cap, 0, false, 5, 1, .rw, 0, 156, .any, 1, 0, 1, 0, .none⟩
/-- 05_segmented_capture.md, R163: 1: Plumb-timed triggers enabled -/
def CAP_CTRL_SRC_FABRIC : Fld := ⟨143, .cap, 0, false, 6, 1, .rw, 0, 156, .any, 1, 0, 1, 0, .none⟩
/-- 05_segmented_capture.md, R163: 1: this channel's level and forced triggers drive the bent cross-trigger -/
def CAP_CTRL_XT_OUT : Fld := ⟨144, .cap, 0, false, 7, 1, .rw, 0, 156, .any, 1, 0, 1, 0, .none⟩
/-- 05_segmented_capture.md, R163: 1: take fine time under R148 -/
def CAP_CTRL_FINE_EN : Fld := ⟨145, .cap, 0, false, 8, 1, .rw, 1, 156, .any, 1, 0, 1, 0, .none⟩
/-- 05_segmented_capture.md, R163: a, for 2^a samples per value. From 0 to 8. Values above 8 read back as 8. -/
def CAP_CTRL_AVG : Fld := ⟨146, .cap, 0, false, 12, 4, .rwl, 0, 156, .range 0 8, 1, 0, 1, 0, .none⟩
/-- 05_segmented_capture.md, R163: Two's complement code. From −8192 to +8191; every encoding is legal. -/
def CAP_LEVEL_LEVEL : Fld := ⟨147, .cap, 4, false, 0, 14, .rw, 0, 156, .any, 1, 0, 1, 0, .none⟩
/-- 05_segmented_capture.md, R163: Codes. From 0 to 1,023; every encoding is legal. -/
def CAP_LEVEL_HYST : Fld := ⟨148, .cap, 4, false, 16, 10, .rw, 16, 156, .any, 1, 0, 1, 0, .none⟩
/-- 05_segmented_capture.md, R163: Pages owned. From 0 to 2,048 less the other channels' pages (R134). Higher values read back as that limit. -/
def CAP_PAGES_PAGES : Fld := ⟨149, .cap, 8, false, 0, 12, .rwl, 16, 220, .special, 1, 0, 1, 0, .none⟩
/-- 05_segmented_capture.md, R163: First page under R133 -/
def CAP_PAGES_FIRST_PAGE : Fld := ⟨150, .cap, 8, false, 16, 12, .ro, 0, 220, .any, 1, 0, 1, 0, .none⟩
/-- 05_segmented_capture.md, R163: Slot length in values. Multiple of 4, from 16 to A; clamped under R136. -/
def CAP_LEN_L : Fld := ⟨151, .cap, 12, false, 0, 22, .rwl, 2048, 156, .special, 1, 0, 1, 0, .none⟩
/-- 05_segmented_capture.md, R163: Pre-trigger values. Multiple of 4, from 0 to L − 16; clamped under R136. -/
def CAP_PRE_P : Fld := ⟨152, .cap, 16, false, 0, 22, .rwl, 512, 156, .special, 1, 0, 1, 0, .none⟩
/-- 05_segmented_capture.md, R163: Post-trigger values including the trigger value. Multiple of 4, from 4 to L − P; clamped under R136. -/
def CAP_POST_POST : Fld := ⟨153, .cap, 20, false, 0, 22, .rwl, 1536, 156, .special, 1, 0, 1, 0, .none⟩
/-- 05_segmented_capture.md, R163: Slots. From 1 to the lesser of 1,024 and floor(A / L). Values outside read back as the nearer limit. -/
def CAP_NSEG_N_SEG : Fld := ⟨154, .cap, 24, false, 0, 11, .rwl, 8, 156, .special, 1, 0, 1, 0, .none⟩
/-- 05_segmented_capture.md, R163: Per the STATE table -/
def CAP_STATE_STATE : Fld := ⟨155, .cap, 28, false, 0, 2, .ro, 0, 156, .any, 1, 0, 1, 0, .none⟩
/-- 05_segmented_capture.md, R163: HOLD: segments complete since arming, from 0 to N_SEG. STREAM: slots holding segments not yet sent. -/
def CAP_STATE_SEGS : Fld := ⟨156, .cap, 28, false, 4, 11, .ro, 0, 156, .any, 1, 0, 1, 0, .none⟩
/-- 05_segmented_capture.md, R163: Last segment of a HOLD arming complete -/
def CAP_STATUS_DONE : Fld := ⟨157, .cap, 32, false, 8, 1, .w1c, 0, 156, .any, 1, 0, 1, 0, .none⟩
/-- 05_segmented_capture.md, R163: A trigger was refused under R145 or R156 -/
def CAP_STATUS_MISSED : Fld := ⟨158, .cap, 32, false, 9, 1, .w1c, 0, 156, .any, 1, 0, 1, 0, .none⟩
/-- 05_segmented_capture.md, R163: A segment was stored with TRUNCATED -/
def CAP_STATUS_TRUNC : Fld := ⟨159, .cap, 32, false, 10, 1, .w1c, 0, 156, .any, 1, 0, 1, 0, .none⟩
/-- 05_segmented_capture.md, R163: A read-out met an uncorrectable word -/
def CAP_STATUS_ECC : Fld := ⟨160, .cap, 32, false, 11, 1, .w1c, 0, 156, .any, 1, 0, 1, 0, .none⟩
/-- 05_segmented_capture.md, R163: 1: DONE raises the event -/
def CAP_EVENT_EN_EV_DONE : Fld := ⟨161, .cap, 36, false, 8, 1, .rw, 1, 156, .any, 1, 0, 1, 0, .none⟩
/-- 05_segmented_capture.md, R163: 1: MISSED raises the event -/
def CAP_EVENT_EN_EV_MISSED : Fld := ⟨162, .cap, 36, false, 9, 1, .rw, 0, 156, .any, 1, 0, 1, 0, .none⟩
/-- 05_segmented_capture.md, R163: 1: TRUNC raises the event -/
def CAP_EVENT_EN_EV_TRUNC : Fld := ⟨163, .cap, 36, false, 10, 1, .rw, 0, 156, .any, 1, 0, 1, 0, .none⟩
/-- 05_segmented_capture.md, R163: 1: ECC raises the event -/
def CAP_EVENT_EN_EV_ECC : Fld := ⟨164, .cap, 36, false, 11, 1, .rw, 1, 156, .any, 1, 0, 1, 0, .none⟩
/-- 05_segmented_capture.md, R163: Triggers refused under R145, including cross-triggers not applied under R141, saturating at 65,535 -/
def CAP_COUNT_BLIND : Fld := ⟨165, .cap, 40, false, 0, 16, .ro, 0, 156, .any, 1, 0, 1, 0, .none⟩
/-- 05_segmented_capture.md, R163: Triggers refused under R156, saturating at 32,767 -/
def CAP_COUNT_BUSY : Fld := ⟨166, .cap, 40, false, 16, 15, .ro, 0, 156, .any, 1, 0, 1, 0, .none⟩
/-- 05_segmented_capture.md, R163: Writing 1 sets both counts to 0 -/
def CAP_COUNT_CLR : Fld := ⟨167, .cap, 40, false, 31, 1, .wo, 0, 0, .any, 1, 0, 1, 0, .none⟩
/-- 05_segmented_capture.md, R163: Writing 1 triggers under R144 -/
def CAP_FORCE_FORCE : Fld := ⟨168, .cap, 44, false, 0, 1, .wo, 0, 0, .any, 1, 0, 1, 0, .none⟩

/-- Fields of block cap. -/
def capTable : List Fld := [
  CAP_CTRL_MODE, CAP_CTRL_EDGE, CAP_CTRL_SRC_LEVEL, CAP_CTRL_SRC_BENT, CAP_CTRL_SRC_FABRIC, CAP_CTRL_XT_OUT,
  CAP_CTRL_FINE_EN, CAP_CTRL_AVG, CAP_LEVEL_LEVEL, CAP_LEVEL_HYST, CAP_PAGES_PAGES, CAP_PAGES_FIRST_PAGE,
  CAP_LEN_L, CAP_PRE_P, CAP_POST_POST, CAP_NSEG_N_SEG, CAP_STATE_STATE, CAP_STATE_SEGS,
  CAP_STATUS_DONE, CAP_STATUS_MISSED, CAP_STATUS_TRUNC, CAP_STATUS_ECC, CAP_EVENT_EN_EV_DONE, CAP_EVENT_EN_EV_MISSED,
  CAP_EVENT_EN_EV_TRUNC, CAP_EVENT_EN_EV_ECC, CAP_COUNT_BLIND, CAP_COUNT_BUSY, CAP_COUNT_CLR, CAP_FORCE_FORCE]

/-- 05_segmented_capture.md, R163: Plumb-timed triggers not applied under R143, summed over the Tenon's channels, saturating at 65,535 -/
def CAP_FAB_FAB_LATE : Fld := ⟨169, .capdie, 0, false, 0, 16, .ro, 0, 220, .any, 1, 0, 1, 0, .none⟩
/-- 05_segmented_capture.md, R163: Writing 1 sets FAB_LATE to 0 -/
def CAP_FAB_CLR : Fld := ⟨170, .capdie, 0, false, 31, 1, .wo, 0, 0, .any, 1, 0, 1, 0, .none⟩
/-- 05_segmented_capture.md, R163: 2,048 less the sum of PAGES over all channels -/
def CAP_FREE_FREE_PAGES : Fld := ⟨171, .capdie, 4, false, 0, 12, .ro, 0, 220, .any, 1, 0, 1, 0, .none⟩

/-- Fields of block capdie. -/
def capdieTable : List Fld := [
  CAP_FAB_FAB_LATE, CAP_FAB_CLR, CAP_FREE_FREE_PAGES]

/-- 06_stamping.md, R198: Stamp stream, from 0 to 3; every encoding is legal -/
def ST_CTRL_STREAM : Fld := ⟨172, .stamp, 0, false, 0, 2, .rw, 0, 156, .any, 128, 16, 1, 0, .none⟩
/-- 06_stamping.md, R198: 1: stamps go to the stamp stream (R180) -/
def ST_CTRL_SEND : Fld := ⟨173, .stamp, 0, false, 4, 1, .rw, 0, 156, .any, 128, 16, 1, 0, .none⟩
/-- 06_stamping.md, R198: 1: vernier in use. Reads 0 on VT2 and VT4. -/
def ST_CTRL_VERN_EN : Fld := ⟨174, .stamp, 0, false, 5, 1, .rw, 1, 156, .any, 128, 16, 1, 0, .none⟩
/-- 06_stamping.md, R198: Edges lost to dead time (R167), saturating at 65,535 -/
def ST_COUNT_DEAD : Fld := ⟨175, .stamp, 4, false, 0, 16, .ro, 0, 156, .any, 128, 16, 1, 0, .none⟩
/-- 06_stamping.md, R198: Stamps discarded under R183, saturating at 32,767 -/
def ST_COUNT_FIFO_OVF : Fld := ⟨176, .stamp, 4, false, 16, 15, .ro, 0, 156, .any, 128, 16, 1, 0, .none⟩
/-- 06_stamping.md, R198: Writing 1 sets both counts to 0 -/
def ST_COUNT_CLR : Fld := ⟨177, .stamp, 4, false, 31, 1, .wo, 0, 0, .any, 128, 16, 1, 0, .none⟩
/-- 06_stamping.md, R198: The next stamp would carry CAL_STALE -/
def ST_STATUS_STALE_NOW : Fld := ⟨178, .stamp, 8, false, 0, 1, .ro, 1, 0, .any, 128, 16, 1, 0, .none⟩
/-- 06_stamping.md, R198: A stamp carried PILEUP -/
def ST_STATUS_PILEUP : Fld := ⟨179, .stamp, 8, false, 8, 1, .w1c, 0, 156, .any, 128, 16, 1, 0, .none⟩
/-- 06_stamping.md, R198: A stamp carried CAL_STALE -/
def ST_STATUS_CAL_STALE : Fld := ⟨180, .stamp, 8, false, 9, 1, .w1c, 0, 156, .any, 128, 16, 1, 0, .none⟩
/-- 06_stamping.md, R198: A calibration run found an invalid table -/
def ST_STATUS_CAL_FAULT : Fld := ⟨181, .stamp, 8, false, 10, 1, .w1c, 0, 156, .any, 128, 16, 1, 0, .none⟩
/-- 06_stamping.md, R198: A pulse-echo check ended -/
def ST_STATUS_PE_DONE : Fld := ⟨182, .stamp, 8, false, 11, 1, .w1c, 0, 156, .any, 128, 16, 1, 0, .none⟩
/-- 06_stamping.md, R198: Age of the phase table in seconds, saturating at 255; 255 for the default table -/
def ST_STATUS_PH_AGE : Fld := ⟨183, .stamp, 8, false, 16, 8, .ro, 255, 0, .any, 128, 16, 1, 0, .none⟩
/-- 06_stamping.md, R198: Age of the vernier table, as PH_AGE; reads 0 on VT2 and VT4 -/
def ST_STATUS_VN_AGE : Fld := ⟨184, .stamp, 8, false, 24, 8, .ro, 255, 0, .any, 128, 16, 1, 0, .none⟩
/-- 06_stamping.md, R198: Bit n enables event raising by ST_STATUS bit n + 8 -/
def ST_EVENT_EN_EV_MASK : Fld := ⟨185, .stamp, 12, false, 8, 4, .rw, 12, 156, .any, 128, 16, 1, 0, .none⟩
/-- 06_stamping.md, R199: Items per batch. From 1 to 512. 0 reads back as 1; values above 512 read back as 512. -/
def ST_BATCH_BATCH_N : Fld := ⟨186, .stamp, 2048, false, 0, 10, .rw, 256, 220, .range 1 512, 4, 4, 1, 0, .none⟩
/-- 06_stamping.md, R199: µs. From 1 to 65,535. 0 reads back as 1. -/
def ST_BATCH_BATCH_TIMEOUT : Fld := ⟨187, .stamp, 2048, false, 16, 16, .rw, 1000, 220, .range 1 65535, 4, 4, 1, 0, .none⟩
/-- 06_stamping.md, R199: Seconds (R174). From 2 to 254. Values below read back as 2; values above read back as 254. -/
def ST_CALCFG_MAX_AGE : Fld := ⟨188, .stamp, 2064, false, 0, 8, .rw, 3, 220, .range 2 254, 1, 0, 1, 0, .none⟩
/-- 06_stamping.md, R199: Stamp calibration epoch under R177 -/
def ST_EPOCH_EPOCH : Fld := ⟨189, .stamp, 2068, false, 0, 16, .ro, 0, 254, .any, 1, 0, 1, 0, .none⟩
/-- 06_stamping.md, R199: 1: unit runs -/
def INT_CFG_EN : Fld := ⟨190, .stamp, 2304, false, 0, 1, .rw, 0, 220, .any, 16, 16, 1, 0, .none⟩
/-- 06_stamping.md, R199: 0: rising; 1: falling -/
def INT_CFG_START_POL : Fld := ⟨191, .stamp, 2304, false, 1, 1, .rw, 0, 220, .any, 16, 16, 1, 0, .none⟩
/-- 06_stamping.md, R199: 0: rising; 1: falling -/
def INT_CFG_STOP_POL : Fld := ⟨192, .stamp, 2304, false, 2, 1, .rw, 0, 220, .any, 16, 16, 1, 0, .none⟩
/-- 06_stamping.md, R199: 1: windows without stops produce NO_STOP results -/
def INT_CFG_REPORT_EMPTY : Fld := ⟨193, .stamp, 2304, false, 3, 1, .rw, 0, 220, .any, 16, 16, 1, 0, .none⟩
/-- 06_stamping.md, R199: From 0 to 127; every encoding is legal -/
def INT_CFG_START_CH : Fld := ⟨194, .stamp, 2304, false, 8, 7, .rw, 0, 220, .any, 16, 16, 1, 0, .none⟩
/-- 06_stamping.md, R199: From 0 to 127; every encoding is legal -/
def INT_CFG_STOP_CH : Fld := ⟨195, .stamp, 2304, false, 16, 7, .rw, 0, 220, .any, 16, 16, 1, 0, .none⟩
/-- 06_stamping.md, R199: Stops per window minus 1. From 0 to 15; every encoding is legal. -/
def INT_CFG_MAX_STOPS_M1 : Fld := ⟨196, .stamp, 2304, false, 24, 4, .rw, 0, 220, .any, 16, 16, 1, 0, .none⟩
/-- 06_stamping.md, R199: Ticks. From 1 to 4,294,967,295. 0 reads back as 1. -/
def INT_CFG_WINDOW : Fld := ⟨197, .stamp, 2308, false, 0, 32, .rw, 1600, 220, .range 1 4294967295, 16, 16, 1, 0, .none⟩
/-- 06_stamping.md, R199: Stops discarded as early, saturating at 65,535 -/
def INT_CFG_EARLY_STOP : Fld := ⟨198, .stamp, 2312, false, 0, 16, .ro, 0, 220, .any, 16, 16, 1, 0, .none⟩
/-- 06_stamping.md, R199: Stops discarded outside a window, saturating at 32,767 -/
def INT_CFG_OUT_WINDOW : Fld := ⟨199, .stamp, 2312, false, 16, 15, .ro, 0, 220, .any, 16, 16, 1, 0, .none⟩
/-- 06_stamping.md, R199: Writing 1 sets both counts to 0 -/
def INT_CFG_CLR : Fld := ⟨200, .stamp, 2312, false, 31, 1, .wo, 0, 0, .any, 16, 16, 1, 0, .none⟩
/-- 06_stamping.md, R199: Results per record. From 1 to 64. 0 reads back as 1; values above 64 read back as 64. -/
def INT_CFG_REC_N : Fld := ⟨201, .stamp, 2316, false, 0, 7, .rw, 16, 220, .range 1 64, 16, 16, 1, 0, .none⟩
/-- 06_stamping.md, R199: ms. From 1 to 65,535. 0 reads back as 1. -/
def INT_CFG_REC_TIMEOUT : Fld := ⟨202, .stamp, 2316, false, 16, 16, .rw, 100, 220, .range 1 65535, 16, 16, 1, 0, .none⟩
/-- 06_stamping.md, R199: Writing 1 starts a check under R194 -/
def PE_CTRL_GO : Fld := ⟨203, .stamp, 4096, false, 0, 1, .wo, 0, 0, .any, 128, 16, 1, 0, .none⟩
/-- 06_stamping.md, R199: Fires minus 1. From 0 to 255; every encoding is legal. -/
def PE_CTRL_PE_N_M1 : Fld := ⟨204, .stamp, 4096, false, 1, 8, .rw, 15, 156, .any, 128, 16, 1, 0, .none⟩
/-- 06_stamping.md, R199: Units of FS/2048. From 1 to 2,047. 0 reads back as 1. -/
def PE_CTRL_PE_THR : Fld := ⟨205, .stamp, 4096, false, 9, 11, .rw, 64, 156, .range 1 2047, 128, 16, 1, 0, .none⟩
/-- 06_stamping.md, R199: Units of 10 ns. From 2 to 1,399. Values below read back as 2; values above read back as 1,399. -/
def PE_CFG_PE_BLANK : Fld := ⟨206, .stamp, 4100, false, 0, 11, .rw, 5, 156, .range 2 1399, 128, 16, 1, 0, .none⟩
/-- 06_stamping.md, R199: Velocity factor in units of 0.001. From 500 to 1,000. Values beyond read back as the nearer limit. -/
def PE_CFG_PE_VF : Fld := ⟨207, .stamp, 4100, false, 16, 10, .rw, 660, 156, .range 500 1000, 128, 16, 1, 0, .none⟩
/-- 06_stamping.md, R199: 0: none run; 1: RUNNING; 2: OPEN; 3: SHORT; 4: MIXED; 5: NONE; 6: REFUSED -/
def PE_RES_STATUS : Fld := ⟨208, .stamp, 4104, true, 0, 3, .ro, 0, 156, .any, 128, 16, 1, 0, .none⟩
/-- 06_stamping.md, R199: A stamp used carried CAL_STALE -/
def PE_RES_STALE : Fld := ⟨209, .stamp, 4104, true, 3, 1, .ro, 0, 156, .any, 128, 16, 1, 0, .none⟩
/-- 06_stamping.md, R199: Fires with both launch and echo, from 0 to 256 -/
def PE_RES_FIRES_USED : Fld := ⟨210, .stamp, 4104, true, 4, 9, .ro, 0, 156, .any, 128, 16, 1, 0, .none⟩
/-- 06_stamping.md, R199: rms spread, fine units, saturating at 524,287 -/
def PE_RES_SPREAD : Fld := ⟨211, .stamp, 4104, true, 13, 19, .ro, 0, 156, .any, 128, 16, 1, 0, .none⟩
/-- 06_stamping.md, R199: Distance in mm under R197 -/
def PE_RES_DIST : Fld := ⟨212, .stamp, 4104, true, 32, 32, .ro, 0, 156, .any, 128, 16, 1, 0, .none⟩
/-- 06_stamping.md, R199: Discriminator delay for RANGE r, fine units. From 0 to 8,191; every encoding is legal. -/
def ST_DLY_DISC_DLY : Fld := ⟨213, .stamp, 8192, false, 0, 13, .rw, 0, 254, .any, 128, 32, 5, 4, .none⟩
/-- 07_frequency_and_statistics.md, R221: 0: off; 1: scanner; 2: continuous; 3: single; every encoding is legal -/
def REG_CFG_MODE : Fld := ⟨214, .stamp, 12288, false, 0, 2, .rw, 0, 220, .any, 32, 32, 1, 0, .none⟩
/-- 07_frequency_and_statistics.md, R221: 0: rising; 1: falling -/
def REG_CFG_POL : Fld := ⟨215, .stamp, 12288, false, 2, 1, .rw, 0, 220, .any, 32, 32, 1, 0, .none⟩
/-- 07_frequency_and_statistics.md, R221: Channel for modes 2 and 3. From 0 to 127; every encoding is legal. -/
def REG_CFG_CH : Fld := ⟨216, .stamp, 12288, false, 8, 7, .rw, 0, 220, .any, 32, 32, 1, 0, .none⟩
/-- 07_frequency_and_statistics.md, R221: p of R202. From 0 to 15; every encoding is legal. -/
def REG_CFG_PRESCALE : Fld := ⟨217, .stamp, 12288, false, 16, 4, .rw, 0, 220, .any, 32, 32, 1, 0, .none⟩
/-- 07_frequency_and_statistics.md, R221: ms. From 1 to 64,000. 0 reads back as 1; values above 64,000 read back as 64,000. -/
def REG_CFG_GATE_LEN : Fld := ⟨218, .stamp, 12292, false, 0, 16, .rw, 1000, 220, .range 1 64000, 32, 32, 1, 0, .none⟩
/-- 07_frequency_and_statistics.md, R221: ms. From 0 to 65,535; every encoding is legal. -/
def REG_CFG_GATE_DELAY : Fld := ⟨219, .stamp, 12296, false, 0, 16, .rw, 0, 220, .any, 32, 32, 1, 0, .none⟩
/-- 07_frequency_and_statistics.md, R221: From 2 to 65,535. Values below 2 read back as 2. -/
def REG_CFG_MIN_EDGES : Fld := ⟨220, .stamp, 12300, false, 0, 16, .rw, 3, 220, .range 2 65535, 32, 32, 1, 0, .none⟩
/-- 07_frequency_and_statistics.md, R221: A gate is open or waiting to open -/
def REG_STATUS_GATE_OPEN : Fld := ⟨221, .stamp, 12304, false, 0, 1, .ro, 0, 0, .any, 32, 32, 1, 0, .none⟩
/-- 07_frequency_and_statistics.md, R221: A result carried FEW -/
def REG_STATUS_FEW : Fld := ⟨222, .stamp, 12304, false, 8, 1, .w1c, 0, 220, .any, 32, 32, 1, 0, .none⟩
/-- 07_frequency_and_statistics.md, R221: A result carried BROKEN -/
def REG_STATUS_BROKEN : Fld := ⟨223, .stamp, 12304, false, 9, 1, .w1c, 0, 220, .any, 32, 32, 1, 0, .none⟩
/-- 07_frequency_and_statistics.md, R221: A request was refused under R208 -/
def REG_STATUS_BUSY : Fld := ⟨224, .stamp, 12304, false, 10, 1, .w1c, 0, 220, .any, 32, 32, 1, 0, .none⟩
/-- 07_frequency_and_statistics.md, R221: A request was ignored under R208 -/
def REG_STATUS_IGNORED : Fld := ⟨225, .stamp, 12304, false, 11, 1, .w1c, 0, 220, .any, 32, 32, 1, 0, .none⟩
/-- 07_frequency_and_statistics.md, R221: Requests refused, saturating at 65,535 -/
def REG_COUNT_BUSY : Fld := ⟨226, .stamp, 12308, false, 0, 16, .ro, 0, 220, .any, 32, 32, 1, 0, .none⟩
/-- 07_frequency_and_statistics.md, R221: Requests ignored, saturating at 32,767 -/
def REG_COUNT_IGNORED : Fld := ⟨227, .stamp, 12308, false, 16, 15, .ro, 0, 220, .any, 32, 32, 1, 0, .none⟩
/-- 07_frequency_and_statistics.md, R221: Writing 1 sets both counts to 0 -/
def REG_COUNT_CLR : Fld := ⟨228, .stamp, 12308, false, 31, 1, .wo, 0, 0, .any, 32, 32, 1, 0, .none⟩
/-- 07_frequency_and_statistics.md, R221: Writing 1 starts a gate in mode 3. A write while a gate is open or waiting to open is discarded. -/
def REG_CTRL_GO : Fld := ⟨229, .stamp, 12312, false, 0, 1, .wo, 0, 0, .any, 32, 32, 1, 0, .none⟩
/-- 07_frequency_and_statistics.md, R221: Bit n enables event raising by REG_STATUS bit n + 8 -/
def REG_EVENT_EN_EV_MASK : Fld := ⟨230, .stamp, 12316, false, 8, 4, .rw, 3, 220, .any, 32, 32, 1, 0, .none⟩
/-- 07_frequency_and_statistics.md, R221: Results per record. From 1 to 64. 0 reads back as 1; values above 64 read back as 64. -/
def REG_REC_REC_N : Fld := ⟨231, .stamp, 13312, false, 0, 7, .rw, 16, 220, .range 1 64, 1, 0, 1, 0, .none⟩
/-- 07_frequency_and_statistics.md, R221: ms. From 1 to 65,535. 0 reads back as 1. -/
def REG_REC_REC_TIMEOUT : Fld := ⟨232, .stamp, 13312, false, 16, 16, .rw, 1000, 220, .range 1 65535, 1, 0, 1, 0, .none⟩

/-- Fields of block stamp, part 0. -/
def stampTable0 : List Fld := [
  ST_CTRL_STREAM, ST_CTRL_SEND, ST_CTRL_VERN_EN, ST_COUNT_DEAD, ST_COUNT_FIFO_OVF, ST_COUNT_CLR,
  ST_STATUS_STALE_NOW, ST_STATUS_PILEUP, ST_STATUS_CAL_STALE, ST_STATUS_CAL_FAULT, ST_STATUS_PE_DONE, ST_STATUS_PH_AGE,
  ST_STATUS_VN_AGE, ST_EVENT_EN_EV_MASK, ST_BATCH_BATCH_N, ST_BATCH_BATCH_TIMEOUT, ST_CALCFG_MAX_AGE, ST_EPOCH_EPOCH,
  INT_CFG_EN, INT_CFG_START_POL, INT_CFG_STOP_POL, INT_CFG_REPORT_EMPTY, INT_CFG_START_CH, INT_CFG_STOP_CH,
  INT_CFG_MAX_STOPS_M1, INT_CFG_WINDOW, INT_CFG_EARLY_STOP, INT_CFG_OUT_WINDOW, INT_CFG_CLR, INT_CFG_REC_N,
  INT_CFG_REC_TIMEOUT, PE_CTRL_GO, PE_CTRL_PE_N_M1, PE_CTRL_PE_THR, PE_CFG_PE_BLANK, PE_CFG_PE_VF,
  PE_RES_STATUS, PE_RES_STALE, PE_RES_FIRES_USED, PE_RES_SPREAD]

/-- Fields of block stamp, part 1. -/
def stampTable1 : List Fld := [
  PE_RES_DIST, ST_DLY_DISC_DLY, REG_CFG_MODE, REG_CFG_POL, REG_CFG_CH, REG_CFG_PRESCALE,
  REG_CFG_GATE_LEN, REG_CFG_GATE_DELAY, REG_CFG_MIN_EDGES, REG_STATUS_GATE_OPEN, REG_STATUS_FEW, REG_STATUS_BROKEN,
  REG_STATUS_BUSY, REG_STATUS_IGNORED, REG_COUNT_BUSY, REG_COUNT_IGNORED, REG_COUNT_CLR, REG_CTRL_GO,
  REG_EVENT_EN_EV_MASK, REG_REC_REC_N, REG_REC_REC_TIMEOUT]

/-- Every field of block stamp. -/
def stampTable : List Fld := stampTable0 ++ stampTable1

/-- 07_frequency_and_statistics.md, R221: Per R213. Codes 5 to 7 are undefined. -/
def STAT_CFG_KIND : Fld := ⟨233, .stats, 0, false, 0, 3, .rw, 0, 252, .enum [0, 1, 2, 3, 4], 64, 32, 1, 0, .none⟩
/-- 07_frequency_and_statistics.md, R221: From 0 to 5. Values above 5 read back as 5. -/
def STAT_CFG_TENON : Fld := ⟨234, .stats, 0, false, 4, 3, .rw, 0, 252, .range 0 5, 64, 32, 1, 0, .none⟩
/-- 07_frequency_and_statistics.md, R221: From 0 to 31 for KIND 1, 255 for KIND 2 and 3, and 127 for KIND 4. Values above read back as the limit. -/
def STAT_CFG_INDEX : Fld := ⟨235, .stats, 0, false, 8, 8, .rw, 0, 252, .special, 64, 32, 1, 0, .none⟩
/-- 07_frequency_and_statistics.md, R221: 1: values are passed over under R214 -/
def STAT_CFG_SKIP_BAD : Fld := ⟨236, .stats, 0, false, 16, 1, .rw, 1, 252, .any, 64, 32, 1, 0, .none⟩
/-- 07_frequency_and_statistics.md, R221: 1: stop after one block -/
def STAT_CFG_SINGLE : Fld := ⟨237, .stats, 0, false, 17, 1, .rw, 0, 252, .any, 64, 32, 1, 0, .none⟩
/-- 07_frequency_and_statistics.md, R221: Values per block. From 2 to 65,536. Values below read back as 2; values above read back as 65,536. -/
def STAT_CFG_N : Fld := ⟨238, .stats, 4, false, 0, 17, .rw, 60, 252, .range 2 65536, 64, 32, 1, 0, .none⟩
/-- 07_frequency_and_statistics.md, R221: The accumulator is taking values -/
def STAT_STATUS_ACTIVE : Fld := ⟨239, .stats, 8, false, 0, 1, .ro, 0, 0, .any, 64, 32, 1, 0, .none⟩
/-- 07_frequency_and_statistics.md, R221: A record is held under R218 -/
def STAT_STATUS_HELD_NOW : Fld := ⟨240, .stats, 8, false, 1, 1, .ro, 0, 0, .any, 64, 32, 1, 0, .none⟩
/-- 07_frequency_and_statistics.md, R221: A single block completed -/
def STAT_STATUS_DONE : Fld := ⟨241, .stats, 8, false, 8, 1, .w1c, 0, 252, .any, 64, 32, 1, 0, .none⟩
/-- 07_frequency_and_statistics.md, R221: A block carried HELD -/
def STAT_STATUS_HELD : Fld := ⟨242, .stats, 8, false, 9, 1, .w1c, 0, 252, .any, 64, 32, 1, 0, .none⟩
/-- 07_frequency_and_statistics.md, R221: A block closed under an epoch change -/
def STAT_STATUS_EPOCH : Fld := ⟨243, .stats, 8, false, 10, 1, .w1c, 0, 252, .any, 64, 32, 1, 0, .none⟩
/-- 07_frequency_and_statistics.md, R221: Values taken in the block in progress -/
def STAT_FILL_FILL : Fld := ⟨244, .stats, 12, false, 0, 17, .ro, 0, 0, .any, 64, 32, 1, 0, .none⟩
/-- 07_frequency_and_statistics.md, R221: Bit n enables event raising by STAT_STATUS bit n + 8 -/
def STAT_EVENT_EN_EV_MASK : Fld := ⟨245, .stats, 16, false, 8, 3, .rw, 1, 252, .any, 64, 32, 1, 0, .none⟩

/-- Fields of block stats. -/
def statsTable : List Fld := [
  STAT_CFG_KIND, STAT_CFG_TENON, STAT_CFG_INDEX, STAT_CFG_SKIP_BAD, STAT_CFG_SINGLE, STAT_CFG_N,
  STAT_STATUS_ACTIVE, STAT_STATUS_HELD_NOW, STAT_STATUS_DONE, STAT_STATUS_HELD, STAT_STATUS_EPOCH, STAT_FILL_FILL,
  STAT_EVENT_EN_EV_MASK]

/-- 08_loop_slices.md, R249: 1: slice runs while USE is 2 (R238, R239) -/
def LOOP_CTRL_RUN : Fld := ⟨246, .loop, 0, false, 0, 1, .rw, 0, 156, .any, 1, 0, 1, 0, .none⟩
/-- 08_loop_slices.md, R249: 0: LAW0; 1: LAW1. Takes effect under R236. -/
def LOOP_CTRL_LAW : Fld := ⟨247, .loop, 0, false, 1, 1, .rw, 0, 156, .any, 1, 0, 1, 0, .none⟩
/-- 08_loop_slices.md, R249: Writing 1 restarts after a trip (R242) -/
def LOOP_CTRL_REARM : Fld := ⟨248, .loop, 0, false, 2, 1, .wo, 0, 0, .any, 1, 0, 1, 0, .none⟩
/-- 08_loop_slices.md, R249: Feedback input, from 0 to 7; every encoding is legal (R228) -/
def LOOP_CTRL_FB_CH : Fld := ⟨249, .loop, 0, false, 4, 3, .rw, 0, 156, .any, 1, 0, 1, 0, .none⟩
/-- 08_loop_slices.md, R249: 0: loop sample; 1: mean over the period (R223) -/
def LOOP_CTRL_FB_MEAN : Fld := ⟨250, .loop, 0, false, 7, 1, .rw, 0, 156, .any, 1, 0, 1, 0, .none⟩
/-- 08_loop_slices.md, R249: 0: voltage; 1: current (R229) -/
def LOOP_CTRL_OUT_REG : Fld := ⟨251, .loop, 0, false, 8, 1, .rw, 0, 156, .any, 1, 0, 1, 0, .none⟩
/-- 08_loop_slices.md, R249: Per R231. Codes 5 to 7 are undefined. -/
def LOOP_CTRL_SP_SRC : Fld := ⟨252, .loop, 0, false, 9, 3, .rw, 0, 156, .enum [0, 1, 2, 3, 4], 1, 0, 1, 0, .none⟩
/-- 08_loop_slices.md, R249: Set-point input for SP_SRC 1, from 0 to 7; every encoding is legal -/
def LOOP_CTRL_SP_CH : Fld := ⟨253, .loop, 0, false, 12, 3, .rw, 0, 156, .any, 1, 0, 1, 0, .none⟩
/-- 08_loop_slices.md, R249: 0: hold; 1: ramp to SAFE_OUT -/
def LOOP_CTRL_TRIP_ACT : Fld := ⟨254, .loop, 0, false, 15, 1, .rw, 0, 156, .any, 1, 0, 1, 0, .none⟩
/-- 08_loop_slices.md, R249: 1: following-error trips enabled -/
def LOOP_CTRL_FE_EN : Fld := ⟨255, .loop, 0, false, 16, 1, .rw, 1, 156, .any, 1, 0, 1, 0, .none⟩
/-- 08_loop_slices.md, R249: 1: model watch enabled -/
def LOOP_CTRL_MODEL_EN : Fld := ⟨256, .loop, 0, false, 17, 1, .rw, 0, 156, .any, 1, 0, 1, 0, .none⟩
/-- 08_loop_slices.md, R249: 1: telemetry on (R247) -/
def LOOP_CTRL_TEL_EN : Fld := ⟨257, .loop, 0, false, 18, 1, .rw, 0, 156, .any, 1, 0, 1, 0, .none⟩
/-- 08_loop_slices.md, R249: Samples per period. From 1 to 65,535, then clamped under R222. -/
def LOOP_PER_LOOP_N : Fld := ⟨258, .loop, 4, false, 0, 16, .rw, 100, 156, .special, 1, 0, 1, 0, .none⟩
/-- 08_loop_slices.md, R249: Ticks. From 256 to T_L. Values below read back as 256; values above read back as T_L. -/
def LOOP_PHASE_OUT_PHASE : Fld := ⟨259, .loop, 8, false, 0, 31, .rw, 256, 156, .special, 1, 0, 1, 0, .none⟩
/-- 08_loop_slices.md, R249: Codes, two's complement. From −32,768 in voltage mode, −25,000 in current mode. Values below read back as ... -/
def LOOP_OUTLIM_OUT_MIN : Fld := ⟨260, .loop, 12, false, 0, 16, .rw, 33536, 156, .special, 1, 0, 1, 0, .none⟩
/-- 08_loop_slices.md, R249: Codes. To 32,767 in voltage mode, 25,000 in current mode, and at least OUT_MIN. Values beyond read back as ... -/
def LOOP_OUTLIM_OUT_MAX : Fld := ⟨261, .loop, 12, false, 16, 16, .rw, 32000, 156, .special, 1, 0, 1, 0, .none⟩
/-- 08_loop_slices.md, R249: Codes. From OUT_MIN to OUT_MAX. Values beyond read back as the nearer limit. -/
def LOOP_SAFE_SAFE_OUT : Fld := ⟨262, .loop, 16, false, 0, 16, .rw, 0, 156, .special, 1, 0, 1, 0, .none⟩
/-- 08_loop_slices.md, R249: Codes per period. From 1 to 65,535. 0 reads back as 1. -/
def LOOP_SAFE_RAMP_STEP : Fld := ⟨263, .loop, 16, false, 16, 16, .rw, 16, 156, .range 1 65535, 1, 0, 1, 0, .none⟩
/-- 08_loop_slices.md, R249: Units of y, two's complement; every encoding is legal -/
def LOOP_SP_SP_HOST : Fld := ⟨264, .loop, 20, false, 0, 24, .rw, 0, 156, .any, 1, 0, 1, 0, .none⟩
/-- 08_loop_slices.md, R249: Q2.30; every encoding is legal -/
def LOOP_SP_SP_GAIN : Fld := ⟨265, .loop, 24, false, 0, 32, .rw, 1073741824, 156, .any, 1, 0, 1, 0, .none⟩
/-- 08_loop_slices.md, R249: Units of y, two's complement; every encoding is legal -/
def LOOP_SP_SP_OFS : Fld := ⟨266, .loop, 28, false, 0, 24, .rw, 0, 156, .any, 1, 0, 1, 0, .none⟩
/-- 08_loop_slices.md, R249: From 0 to 15; every encoding is legal -/
def LOOP_SP_SP_SH : Fld := ⟨267, .loop, 28, false, 24, 4, .rw, 0, 156, .any, 1, 0, 1, 0, .none⟩
/-- 08_loop_slices.md, R249: Periods. From 1 to 65,535. 0 reads back as 1. -/
def LOOP_SP_SPX_WIN : Fld := ⟨268, .loop, 32, false, 0, 16, .rw, 100, 156, .range 1 65535, 1, 0, 1, 0, .none⟩
/-- 08_loop_slices.md, R249: Periods. From 1 to 65,535. 0 reads back as 1. -/
def LOOP_SP_SPX_TIMEOUT : Fld := ⟨269, .loop, 32, false, 16, 16, .rw, 1000, 156, .range 1 65535, 1, 0, 1, 0, .none⟩
/-- 08_loop_slices.md, R249: Units of y, two's complement; every encoding is legal -/
def LOOP_SP_RAMP_TARGET : Fld := ⟨270, .loop, 36, false, 0, 24, .rw, 0, 156, .any, 1, 0, 1, 0, .none⟩
/-- 08_loop_slices.md, R249: Units of y per period. From 1 to 8,388,607. 0 reads back as 1. -/
def LOOP_SP_RAMP_RATE : Fld := ⟨271, .loop, 40, false, 0, 23, .rw, 1, 156, .range 1 8388607, 1, 0, 1, 0, .none⟩
/-- 08_loop_slices.md, R249: Units of y. From 0 to 33,554,431; every encoding is legal. -/
def LOOP_SUP_FE_LIM : Fld := ⟨272, .loop, 48, false, 0, 25, .rw, 1048576, 156, .any, 1, 0, 1, 0, .none⟩
/-- 08_loop_slices.md, R249: Periods. From 1 to 16,777,215. 0 reads back as 1. -/
def LOOP_SUP_FE_TIME : Fld := ⟨273, .loop, 52, false, 0, 24, .rw, 10000, 156, .range 1 16777215, 1, 0, 1, 0, .none⟩
/-- 08_loop_slices.md, R249: Model pole, Q2.30. From 0 to 0x4000_0000. Negative values read back as 0; higher values as 0x4000_0000. -/
def LOOP_SUP_MA : Fld := ⟨274, .loop, 56, false, 0, 32, .rw, 0, 156, .srange (0) 1073741824, 1, 0, 1, 0, .none⟩
/-- 08_loop_slices.md, R249: Model gain, Q2.30; every encoding is legal -/
def LOOP_SUP_MG : Fld := ⟨275, .loop, 60, false, 0, 32, .rw, 0, 156, .any, 1, 0, 1, 0, .none⟩
/-- 08_loop_slices.md, R249: Model offset, units of y; every encoding is legal -/
def LOOP_SUP_MO : Fld := ⟨276, .loop, 64, false, 0, 24, .rw, 0, 156, .any, 1, 0, 1, 0, .none⟩
/-- 08_loop_slices.md, R249: From 0 to 15; every encoding is legal -/
def LOOP_SUP_MSH : Fld := ⟨277, .loop, 64, false, 24, 4, .rw, 0, 156, .any, 1, 0, 1, 0, .none⟩
/-- 08_loop_slices.md, R249: Residual band, units of y. From 0 to 33,554,431; every encoding is legal. -/
def LOOP_SUP_RB : Fld := ⟨278, .loop, 68, false, 0, 25, .rw, 0, 156, .any, 1, 0, 1, 0, .none⟩
/-- 08_loop_slices.md, R249: Periods. From 1 to 16,777,215. 0 reads back as 1. -/
def LOOP_SUP_RES_TIME : Fld := ⟨279, .loop, 72, false, 0, 24, .rw, 10000, 156, .range 1 16777215, 1, 0, 1, 0, .none⟩
/-- 08_loop_slices.md, R249: Periods per item. From 1 to 65,535. 0 reads back as 1. -/
def LOOP_TEL_TEL_N : Fld := ⟨280, .loop, 80, false, 0, 16, .rw, 1000, 156, .range 1 65535, 1, 0, 1, 0, .none⟩
/-- 08_loop_slices.md, R249: Items per record. From 1 to 64. 0 reads back as 1; values above 64 read back as 64. -/
def TEL_REC_REC_N : Fld := ⟨281, .loop, 84, false, 0, 7, .rw, 16, 156, .range 1 64, 1, 0, 1, 0, .none⟩
/-- 08_loop_slices.md, R249: ms. From 1 to 65,535. 0 reads back as 1. -/
def TEL_REC_REC_TIMEOUT : Fld := ⟨282, .loop, 84, false, 16, 16, .rw, 100, 156, .range 1 65535, 1, 0, 1, 0, .none⟩
/-- 08_loop_slices.md, R249: Writing 1 commits the LAW0 shadow set (R235) -/
def LOOP_COMMIT_COMMIT0 : Fld := ⟨283, .loop, 96, false, 0, 1, .wo, 0, 0, .any, 1, 0, 1, 0, .none⟩
/-- 08_loop_slices.md, R249: Writing 1 commits the LAW1 shadow set -/
def LOOP_COMMIT_COMMIT1 : Fld := ⟨284, .loop, 96, false, 1, 1, .wo, 0, 0, .any, 1, 0, 1, 0, .none⟩
/-- 08_loop_slices.md, R249: The slice runs a law -/
def LOOP_STATUS_RUNNING : Fld := ⟨285, .loop, 112, false, 0, 1, .ro, 0, 0, .any, 1, 0, 1, 0, .none⟩
/-- 08_loop_slices.md, R249: The slice is tripped -/
def LOOP_STATUS_TRIP_NOW : Fld := ⟨286, .loop, 112, false, 1, 1, .ro, 0, 0, .any, 1, 0, 1, 0, .none⟩
/-- 08_loop_slices.md, R249: The hand-over rate limit is active -/
def LOOP_STATUS_SLEWING : Fld := ⟨287, .loop, 112, false, 2, 1, .ro, 0, 0, .any, 1, 0, 1, 0, .none⟩
/-- 08_loop_slices.md, R249: Integration is frozen this period -/
def LOOP_STATUS_FROZEN : Fld := ⟨288, .loop, 112, false, 3, 1, .ro, 0, 0, .any, 1, 0, 1, 0, .none⟩
/-- 08_loop_slices.md, R249: Law in use -/
def LOOP_STATUS_LAW_NOW : Fld := ⟨289, .loop, 112, false, 4, 1, .ro, 0, 0, .any, 1, 0, 1, 0, .none⟩
/-- 08_loop_slices.md, R249: Under R232 -/
def LOOP_STATUS_SPX_LOST_NOW : Fld := ⟨290, .loop, 112, false, 5, 1, .ro, 0, 0, .any, 1, 0, 1, 0, .none⟩
/-- 08_loop_slices.md, R249: Last trip: 0 none; 1 following error; 2 model; 3 SAFE -/
def LOOP_STATUS_CAUSE : Fld := ⟨291, .loop, 112, false, 6, 2, .ro, 0, 156, .any, 1, 0, 1, 0, .none⟩
/-- 08_loop_slices.md, R249: A trip occurred -/
def LOOP_STATUS_TRIP : Fld := ⟨292, .loop, 112, false, 8, 1, .w1c, 0, 156, .any, 1, 0, 1, 0, .none⟩
/-- 08_loop_slices.md, R249: A period was saturated -/
def LOOP_STATUS_SAT : Fld := ⟨293, .loop, 112, false, 9, 1, .w1c, 0, 156, .any, 1, 0, 1, 0, .none⟩
/-- 08_loop_slices.md, R249: SPX_LOST_NOW rose -/
def LOOP_STATUS_SPX_LOST : Fld := ⟨294, .loop, 112, false, 10, 1, .w1c, 0, 156, .any, 1, 0, 1, 0, .none⟩
/-- 08_loop_slices.md, R249: The ramp reached its target -/
def LOOP_STATUS_RAMP_DONE : Fld := ⟨295, .loop, 112, false, 11, 1, .w1c, 0, 156, .any, 1, 0, 1, 0, .none⟩
/-- 08_loop_slices.md, R249: A period was held (R226, R227) -/
def LOOP_STATUS_HELD : Fld := ⟨296, .loop, 112, false, 12, 1, .w1c, 0, 156, .any, 1, 0, 1, 0, .none⟩
/-- 08_loop_slices.md, R249: Bit n enables event raising by LOOP_STATUS bit n + 8 -/
def LOOP_EVENT_EN_EV_MASK : Fld := ⟨297, .loop, 116, false, 8, 5, .rw, 5, 156, .any, 1, 0, 1, 0, .none⟩
/-- 08_loop_slices.md, R249: Periods held, saturating at 65,535 -/
def LOOP_COUNT_HELD_PERIODS : Fld := ⟨298, .loop, 120, false, 0, 16, .ro, 0, 156, .any, 1, 0, 1, 0, .none⟩
/-- 08_loop_slices.md, R249: Trips, saturating at 32,767 -/
def LOOP_COUNT_TRIPS : Fld := ⟨299, .loop, 120, false, 16, 15, .ro, 0, 156, .any, 1, 0, 1, 0, .none⟩
/-- 08_loop_slices.md, R249: Writing 1 sets both counts to 0 -/
def LOOP_COUNT_CLR : Fld := ⟨300, .loop, 120, false, 31, 1, .wo, 0, 0, .any, 1, 0, 1, 0, .none⟩
/-- 08_loop_slices.md, R249: Output of the last period, codes -/
def LOOP_NOW_U : Fld := ⟨301, .loop, 124, false, 0, 16, .ro, 0, 156, .any, 1, 0, 1, 0, .none⟩
/-- 08_loop_slices.md, R249: Bits [23:8] of the set-point in use -/
def LOOP_NOW_R_HI : Fld := ⟨302, .loop, 124, false, 16, 16, .ro, 0, 156, .any, 1, 0, 1, 0, .none⟩
/-- 08_loop_slices.md, R249: Q2.30; every encoding is legal -/
def LOOP_COEF_KP : Fld := ⟨303, .loop, 256, false, 0, 32, .rw, 0, 156, .any, 2, 256, 2, 64, .none⟩
/-- 08_loop_slices.md, R249: Q2.30; every encoding is legal -/
def LOOP_COEF_KI : Fld := ⟨304, .loop, 260, false, 0, 32, .rw, 0, 156, .any, 2, 256, 2, 64, .none⟩
/-- 08_loop_slices.md, R249: Q2.30; every encoding is legal -/
def LOOP_COEF_KI2 : Fld := ⟨305, .loop, 264, false, 0, 32, .rw, 0, 156, .any, 2, 256, 2, 64, .none⟩
/-- 08_loop_slices.md, R249: Q2.30; every encoding is legal -/
def LOOP_COEF_KD : Fld := ⟨306, .loop, 268, false, 0, 32, .rw, 0, 156, .any, 2, 256, 2, 64, .none⟩
/-- 08_loop_slices.md, R249: Q2.30. From 0 to 0x4000_0000. Negative values read back as 0; higher values as 0x4000_0000. -/
def LOOP_COEF_KN : Fld := ⟨307, .loop, 272, false, 0, 32, .rw, 1073741824, 156, .srange (0) 1073741824, 2, 256, 2, 64, .none⟩
/-- 08_loop_slices.md, R249: Q2.30; every encoding is legal -/
def LOOP_COEF_KFF : Fld := ⟨308, .loop, 276, false, 0, 32, .rw, 0, 156, .any, 2, 256, 2, 64, .none⟩
/-- 08_loop_slices.md, R249: From 0 to 15; every encoding is legal -/
def LOOP_COEF_GS : Fld := ⟨309, .loop, 280, false, 0, 4, .rw, 0, 156, .any, 2, 256, 2, 64, .none⟩
/-- 08_loop_slices.md, R249: Integrator limit, codes. From 0 to 32,767; every encoding is legal. -/
def LOOP_COEF_I_MAX : Fld := ⟨310, .loop, 280, false, 16, 15, .rw, 0, 156, .any, 2, 256, 2, 64, .none⟩
/-- 08_loop_slices.md, R249: Hand-over rate, codes per period. From 1 to 65,535. 0 reads back as 1. -/
def LOOP_COEF_SLEW : Fld := ⟨311, .loop, 284, false, 0, 16, .rw, 64, 156, .range 1 65535, 2, 256, 2, 64, .none⟩

/-- Fields of block loop, part 0. -/
def loopTable0 : List Fld := [
  LOOP_CTRL_RUN, LOOP_CTRL_LAW, LOOP_CTRL_REARM, LOOP_CTRL_FB_CH, LOOP_CTRL_FB_MEAN, LOOP_CTRL_OUT_REG,
  LOOP_CTRL_SP_SRC, LOOP_CTRL_SP_CH, LOOP_CTRL_TRIP_ACT, LOOP_CTRL_FE_EN, LOOP_CTRL_MODEL_EN, LOOP_CTRL_TEL_EN,
  LOOP_PER_LOOP_N, LOOP_PHASE_OUT_PHASE, LOOP_OUTLIM_OUT_MIN, LOOP_OUTLIM_OUT_MAX, LOOP_SAFE_SAFE_OUT, LOOP_SAFE_RAMP_STEP,
  LOOP_SP_SP_HOST, LOOP_SP_SP_GAIN, LOOP_SP_SP_OFS, LOOP_SP_SP_SH, LOOP_SP_SPX_WIN, LOOP_SP_SPX_TIMEOUT,
  LOOP_SP_RAMP_TARGET, LOOP_SP_RAMP_RATE, LOOP_SUP_FE_LIM, LOOP_SUP_FE_TIME, LOOP_SUP_MA, LOOP_SUP_MG,
  LOOP_SUP_MO, LOOP_SUP_MSH, LOOP_SUP_RB, LOOP_SUP_RES_TIME, LOOP_TEL_TEL_N, TEL_REC_REC_N,
  TEL_REC_REC_TIMEOUT, LOOP_COMMIT_COMMIT0, LOOP_COMMIT_COMMIT1, LOOP_STATUS_RUNNING]

/-- Fields of block loop, part 1. -/
def loopTable1 : List Fld := [
  LOOP_STATUS_TRIP_NOW, LOOP_STATUS_SLEWING, LOOP_STATUS_FROZEN, LOOP_STATUS_LAW_NOW, LOOP_STATUS_SPX_LOST_NOW, LOOP_STATUS_CAUSE,
  LOOP_STATUS_TRIP, LOOP_STATUS_SAT, LOOP_STATUS_SPX_LOST, LOOP_STATUS_RAMP_DONE, LOOP_STATUS_HELD, LOOP_EVENT_EN_EV_MASK,
  LOOP_COUNT_HELD_PERIODS, LOOP_COUNT_TRIPS, LOOP_COUNT_CLR, LOOP_NOW_U, LOOP_NOW_R_HI, LOOP_COEF_KP,
  LOOP_COEF_KI, LOOP_COEF_KI2, LOOP_COEF_KD, LOOP_COEF_KN, LOOP_COEF_KFF, LOOP_COEF_GS,
  LOOP_COEF_I_MAX, LOOP_COEF_SLEW]

/-- Every field of block loop. -/
def loopTable : List Fld := loopTable0 ++ loopTable1

/-- 09_plumb_time.md, R272: 0: follower; 1: grandmaster -/
def PLUMB_CTRL_ROLE : Fld := ⟨312, .plumb, 0, false, 0, 1, .rw, 0, 252, .any, 1, 0, 1, 0, .none⟩
/-- 09_plumb_time.md, R272: Port in use, from 0 to 7; every encoding is legal -/
def PLUMB_CTRL_PARENT : Fld := ⟨313, .plumb, 0, false, 1, 3, .rw, 0, 252, .any, 1, 0, 1, 0, .none⟩
/-- 09_plumb_time.md, R272: Alternate port, from 0 to 7; every encoding is legal -/
def PLUMB_CTRL_ALT_PARENT : Fld := ⟨314, .plumb, 0, false, 4, 3, .rw, 1, 252, .any, 1, 0, 1, 0, .none⟩
/-- 09_plumb_time.md, R272: 1: alternate parent allowed (R261) -/
def PLUMB_CTRL_ALT_EN : Fld := ⟨315, .plumb, 0, false, 7, 1, .rw, 0, 252, .any, 1, 0, 1, 0, .none⟩
/-- 09_plumb_time.md, R272: 1: steps allowed after the first lock (R263) -/
def PLUMB_CTRL_STEP_EN : Fld := ⟨316, .plumb, 0, false, 8, 1, .rw, 1, 252, .any, 1, 0, 1, 0, .none⟩
/-- 09_plumb_time.md, R272: 0: rising PPS edge; 1: falling -/
def PLUMB_CTRL_PPS_POL : Fld := ⟨317, .plumb, 0, false, 9, 1, .rw, 0, 252, .any, 1, 0, 1, 0, .none⟩
/-- 09_plumb_time.md, R272: Node ID of the grandmaster; every encoding is legal -/
def PLUMB_CTRL_GM_ID : Fld := ⟨318, .plumb, 0, false, 16, 16, .rw, 65535, 252, .any, 1, 0, 1, 0, .none⟩
/-- 09_plumb_time.md, R272: ppb. From 1 to 10,000. 0 reads back as 1; values above read back as 10,000. -/
def PLUMB_SERVO_SLEW_MAX : Fld := ⟨319, .plumb, 4, false, 0, 14, .rw, 500, 252, .range 1 10000, 1, 0, 1, 0, .none⟩
/-- 09_plumb_time.md, R272: Seconds. From 1 to 255. 0 reads back as 1. -/
def PLUMB_SERVO_PHASE_TC : Fld := ⟨320, .plumb, 4, false, 16, 8, .rw, 8, 252, .range 1 255, 1, 0, 1, 0, .none⟩
/-- 09_plumb_time.md, R272: Missed exchanges. From 2 to 255. Values below read back as 2. -/
def PLUMB_SERVO_HOLD_TIMEOUT : Fld := ⟨321, .plumb, 4, false, 24, 8, .rw, 4, 252, .range 2 255, 1, 0, 1, 0, .none⟩
/-- 09_plumb_time.md, R272: Ticks. From 16 to 16,000,000. Values beyond read back as the nearer limit. -/
def PLUMB_THR_STEP_THR : Fld := ⟨322, .plumb, 8, true, 0, 24, .rw, 1600, 252, .range 16 16000000, 1, 0, 1, 0, .none⟩
/-- 09_plumb_time.md, R272: Fine units. From 8 to 65,535. Values below read back as 8. -/
def PLUMB_THR_LOCK_THR : Fld := ⟨323, .plumb, 8, true, 32, 16, .rw, 82, 252, .range 8 65535, 1, 0, 1, 0, .none⟩
/-- 09_plumb_time.md, R272: Fine units, from 0 to 16,777,215; every encoding is legal -/
def PLUMB_PPS_PPS_DLY : Fld := ⟨324, .plumb, 16, false, 0, 24, .rw, 0, 252, .any, 1, 0, 1, 0, .none⟩
/-- 09_plumb_time.md, R272: TAI second of the next PPS edge; advances under R253; every encoding is legal -/
def PLUMB_GM_SEC_NEXT_SEC : Fld := ⟨325, .plumb, 24, true, 0, 40, .rw, 0, 252, .any, 1, 0, 1, 0, .none⟩
/-- 09_plumb_time.md, R272: Seconds of Plumb time. A read latches the sub-second part into 0x028. -/
def PLUMB_NOW_SEC : Fld := ⟨326, .plumb, 32, true, 0, 40, .ro, 0, 0, .any, 1, 0, 1, 0, .none⟩
/-- 09_plumb_time.md, R272: Latched fine part -/
def PLUMB_NOW_FINE : Fld := ⟨327, .plumb, 40, true, 0, 9, .ro, 0, 0, .any, 1, 0, 1, 0, .none⟩
/-- 09_plumb_time.md, R272: Latched tick -/
def PLUMB_NOW_TICK : Fld := ⟨328, .plumb, 40, true, 9, 31, .ro, 0, 0, .any, 1, 0, 1, 0, .none⟩
/-- 09_plumb_time.md, R272: Per the state table -/
def PLUMB_STATUS_STATE : Fld := ⟨329, .plumb, 48, false, 0, 3, .ro, 0, 252, .any, 1, 0, 1, 0, .none⟩
/-- 09_plumb_time.md, R272: Distance from the grandmaster; 31 while unknown -/
def PLUMB_STATUS_HOPS : Fld := ⟨330, .plumb, 48, false, 8, 5, .ro, 31, 252, .any, 1, 0, 1, 0, .none⟩
/-- 09_plumb_time.md, R272: Port in use -/
def PLUMB_STATUS_PORT_NOW : Fld := ⟨331, .plumb, 48, false, 13, 3, .ro, 0, 252, .any, 1, 0, 1, 0, .none⟩
/-- 09_plumb_time.md, R272: The alternate parent is in use -/
def PLUMB_STATUS_ON_ALT : Fld := ⟨332, .plumb, 48, false, 16, 1, .ro, 0, 252, .any, 1, 0, 1, 0, .none⟩
/-- 09_plumb_time.md, R272: A step was applied (R264) -/
def PLUMB_STATUS_STEP : Fld := ⟨333, .plumb, 48, false, 24, 1, .w1c, 0, 252, .any, 1, 0, 1, 0, .none⟩
/-- 09_plumb_time.md, R272: HOLDOVER was entered -/
def PLUMB_STATUS_HOLDOVER : Fld := ⟨334, .plumb, 48, false, 25, 1, .w1c, 0, 252, .any, 1, 0, 1, 0, .none⟩
/-- 09_plumb_time.md, R272: HOLD_ERR was written (R268) -/
def PLUMB_STATUS_RELOCK : Fld := ⟨335, .plumb, 48, false, 26, 1, .w1c, 0, 252, .any, 1, 0, 1, 0, .none⟩
/-- 09_plumb_time.md, R272: A PPS edge was missing (R254) -/
def PLUMB_STATUS_PPS_LOST : Fld := ⟨336, .plumb, 48, false, 27, 1, .w1c, 0, 252, .any, 1, 0, 1, 0, .none⟩
/-- 09_plumb_time.md, R272: The port in use changed (R261) -/
def PLUMB_STATUS_PARENT_SWITCH : Fld := ⟨337, .plumb, 48, false, 28, 1, .w1c, 0, 252, .any, 1, 0, 1, 0, .none⟩
/-- 09_plumb_time.md, R272: A Tenon was reloaded (R271) -/
def PLUMB_STATUS_TENON_SLIP : Fld := ⟨338, .plumb, 48, false, 29, 1, .w1c, 0, 252, .any, 1, 0, 1, 0, .none⟩
/-- 09_plumb_time.md, R272: Bit n enables event raising by PLUMB_STATUS bit n + 24 -/
def PLUMB_EVENT_EN_EV_MASK : Fld := ⟨339, .plumb, 52, false, 24, 6, .rw, 63, 252, .any, 1, 0, 1, 0, .none⟩
/-- 09_plumb_time.md, R272: Filtered offset, fine units, two's complement, saturating -/
def PLUMB_OFFSET_THETA : Fld := ⟨340, .plumb, 56, true, 0, 32, .ro, 0, 252, .any, 1, 0, 1, 0, .none⟩
/-- 09_plumb_time.md, R272: Total steering from nominal, units of 10⁻¹², two's complement -/
def PLUMB_OFFSET_FREQ_ADJ : Fld := ⟨341, .plumb, 56, true, 32, 32, .ro, 0, 252, .any, 1, 0, 1, 0, .none⟩
/-- 09_plumb_time.md, R272: Fine units, two's complement, from −8,388,608 to +8,388,607; every encoding is legal -/
def PLUMB_ASYM_ASYM : Fld := ⟨342, .plumb, 64, false, 0, 24, .rw, 0, 252, .any, 8, 4, 1, 0, .none⟩
/-- 09_plumb_time.md, R272: Offset at re-lock, fine units, two's complement, saturating -/
def PLUMB_HOLD_HOLD_ERR : Fld := ⟨343, .plumb, 96, true, 0, 32, .ro, 0, 252, .any, 1, 0, 1, 0, .none⟩
/-- 09_plumb_time.md, R272: Length of the holdover, seconds, saturating -/
def PLUMB_HOLD_HOLD_DUR : Fld := ⟨344, .plumb, 96, true, 32, 32, .ro, 0, 252, .any, 1, 0, 1, 0, .none⟩
/-- 09_plumb_time.md, R272: Last step: signed movement of the Plumb counter in ticks, two's complement; negative when the node was ... -/
def PLUMB_STEPLOG_LAST_STEP : Fld := ⟨345, .plumb, 104, true, 0, 32, .ro, 0, 252, .any, 1, 0, 1, 0, .none⟩
/-- 09_plumb_time.md, R272: Steps applied, saturating at 65,535 -/
def PLUMB_STEPLOG_STEP_COUNT : Fld := ⟨346, .plumb, 104, true, 32, 16, .ro, 0, 252, .any, 1, 0, 1, 0, .none⟩
/-- 09_plumb_time.md, R272: Writing 1 sets STEP_COUNT to 0 -/
def PLUMB_STEPLOG_CLR : Fld := ⟨347, .plumb, 104, true, 63, 1, .wo, 0, 0, .any, 1, 0, 1, 0, .none⟩
/-- 09_plumb_time.md, R272: Timing island to TX balls of lane n, fine units (R256) -/
def PLUMB_LAT_TX_LAT : Fld := ⟨348, .plumb, 128, true, 0, 24, .ro, 0, 0, .any, 8, 8, 1, 0, .none⟩
/-- 09_plumb_time.md, R272: RX balls of lane n to timing island, fine units -/
def PLUMB_LAT_RX_LAT : Fld := ⟨349, .plumb, 128, true, 24, 24, .ro, 0, 0, .any, 8, 8, 1, 0, .none⟩
/-- 09_plumb_time.md, R272: Missed exchanges on lane n as lane 0 of a port, saturating at 65,535 -/
def PLUMB_LAT_MISSED : Fld := ⟨350, .plumb, 128, true, 48, 16, .ro, 0, 252, .any, 8, 8, 1, 0, .none⟩

/-- Fields of block plumb. -/
def plumbTable : List Fld := [
  PLUMB_CTRL_ROLE, PLUMB_CTRL_PARENT, PLUMB_CTRL_ALT_PARENT, PLUMB_CTRL_ALT_EN, PLUMB_CTRL_STEP_EN, PLUMB_CTRL_PPS_POL,
  PLUMB_CTRL_GM_ID, PLUMB_SERVO_SLEW_MAX, PLUMB_SERVO_PHASE_TC, PLUMB_SERVO_HOLD_TIMEOUT, PLUMB_THR_STEP_THR, PLUMB_THR_LOCK_THR,
  PLUMB_PPS_PPS_DLY, PLUMB_GM_SEC_NEXT_SEC, PLUMB_NOW_SEC, PLUMB_NOW_FINE, PLUMB_NOW_TICK, PLUMB_STATUS_STATE,
  PLUMB_STATUS_HOPS, PLUMB_STATUS_PORT_NOW, PLUMB_STATUS_ON_ALT, PLUMB_STATUS_STEP, PLUMB_STATUS_HOLDOVER, PLUMB_STATUS_RELOCK,
  PLUMB_STATUS_PPS_LOST, PLUMB_STATUS_PARENT_SWITCH, PLUMB_STATUS_TENON_SLIP, PLUMB_EVENT_EN_EV_MASK, PLUMB_OFFSET_THETA, PLUMB_OFFSET_FREQ_ADJ,
  PLUMB_ASYM_ASYM, PLUMB_HOLD_HOLD_ERR, PLUMB_HOLD_HOLD_DUR, PLUMB_STEPLOG_LAST_STEP, PLUMB_STEPLOG_STEP_COUNT, PLUMB_STEPLOG_CLR,
  PLUMB_LAT_TX_LAT, PLUMB_LAT_RX_LAT, PLUMB_LAT_MISSED]

/-- 11_queues_and_protected_memory.md, R337: Free cells -/
def POOL_STATUS_FREE_CELLS : Fld := ⟨355, .queues, 0, false, 0, 20, .ro, 524288, 252, .any, 1, 0, 1, 0, .none⟩
/-- 11_queues_and_protected_memory.md, R337: Reserves exceed the limit of R308 -/
def POOL_STATUS_OVERCOMMIT : Fld := ⟨356, .queues, 0, false, 20, 1, .ro, 0, 252, .any, 1, 0, 1, 0, .none⟩
/-- 11_queues_and_protected_memory.md, R337: Bit b: bank b in service. Retirements are kept in retention memory. -/
def POOL_BANKS_IN_SERVICE : Fld := ⟨357, .queues, 4, false, 0, 16, .ro, 65535, 254, .any, 1, 0, 1, 0, .none⟩
/-- 11_queues_and_protected_memory.md, R337: Queue reached through QCFG, QSTAT, QDROP and QCMD. From 0 to 4,095; every encoding is legal. -/
def QSEL_QUEUE : Fld := ⟨358, .queues, 16, false, 0, 12, .rw, 0, 252, .any, 1, 0, 1, 0, .none⟩
/-- 11_queues_and_protected_memory.md, R337: 1: queue takes cells (R312) -/
def QCFG_EN : Fld := ⟨359, .queues, 20, false, 0, 1, .rw, 0, 252, .any, 1, 0, 1, 0, .queue⟩
/-- 11_queues_and_protected_memory.md, R337: 0 lowest, 7 highest; every encoding is legal -/
def QCFG_PRIO : Fld := ⟨360, .queues, 20, false, 1, 3, .rw, 0, 252, .any, 1, 0, 1, 0, .queue⟩
/-- 11_queues_and_protected_memory.md, R337: 0: none; 1: host record ring; 2: Zillo core; 3: Seif engine; 4: fabric forwarder. Codes 5 to 15 are undefined. -/
def QCFG_READER_KIND : Fld := ⟨361, .queues, 20, false, 4, 4, .rw, 0, 252, .enum [0, 1, 2, 3, 4], 1, 0, 1, 0, .queue⟩
/-- 11_queues_and_protected_memory.md, R337: Ring from 0 to 1,023; core from 0 to 3; engine from 0 to 1; forwarder from 0 to 63. Values above read back ... -/
def QCFG_READER_IDX : Fld := ⟨362, .queues, 20, false, 8, 10, .rw, 0, 252, .special, 1, 0, 1, 0, .queue⟩
/-- 11_queues_and_protected_memory.md, R337: From 1 to 524,288. 0 reads back as 1; values above read back as 524,288. -/
def QCFG_MAX_CELLS : Fld := ⟨363, .queues, 24, false, 0, 20, .rw, 524288, 252, .range 1 524288, 1, 0, 1, 0, .queue⟩
/-- 11_queues_and_protected_memory.md, R337: From 0 to MAX_CELLS, and within R308. Values beyond read back as the lower limit. A write that lowers ... -/
def QCFG_RESERVE : Fld := ⟨364, .queues, 28, false, 0, 20, .rw, 0, 252, .special, 1, 0, 1, 0, .queue⟩
/-- 11_queues_and_protected_memory.md, R337: Cells held, open packets included -/
def QSTAT_CELLS : Fld := ⟨365, .queues, 32, true, 0, 20, .ro, 0, 252, .any, 1, 0, 1, 0, .queue⟩
/-- 11_queues_and_protected_memory.md, R337: Closed packets waiting -/
def QSTAT_PKTS : Fld := ⟨366, .queues, 32, true, 20, 20, .ro, 0, 252, .any, 1, 0, 1, 0, .queue⟩
/-- 11_queues_and_protected_memory.md, R337: Greatest CELLS since the last CLR of QDROP -/
def QSTAT_HIGH_WATER : Fld := ⟨367, .queues, 32, true, 40, 20, .ro, 0, 252, .any, 1, 0, 1, 0, .queue⟩
/-- 11_queues_and_protected_memory.md, R337: Halted under R322 -/
def QSTAT_HALTED : Fld := ⟨368, .queues, 32, true, 60, 1, .ro, 0, 252, .any, 1, 0, 1, 0, .queue⟩
/-- 11_queues_and_protected_memory.md, R337: Records discarded under R309 and R310, saturating at 2^31 − 1 -/
def QDROP_DROPS : Fld := ⟨369, .queues, 40, false, 0, 31, .ro, 0, 252, .any, 1, 0, 1, 0, .queue⟩
/-- 11_queues_and_protected_memory.md, R337: Writing 1 sets DROPS and HIGH_WATER to 0 -/
def QDROP_CLR : Fld := ⟨370, .queues, 40, false, 31, 1, .wo, 0, 0, .any, 1, 0, 1, 0, .queue⟩
/-- 11_queues_and_protected_memory.md, R337: Writing 1 acts under R323; no effect unless HALTED -/
def QCMD_RESUME : Fld := ⟨371, .queues, 44, false, 0, 1, .wo, 0, 0, .any, 1, 0, 1, 0, .queue⟩
/-- 11_queues_and_protected_memory.md, R337: Stream ID whose entry MAP_DATA reaches; every encoding is legal -/
def MAP_SEL_STREAM : Fld := ⟨372, .queues, 48, false, 0, 16, .rw, 0, 252, .any, 1, 0, 1, 0, .none⟩
/-- 11_queues_and_protected_memory.md, R337: Queue of the stream (R306), from 0 to 4,095; every encoding is legal. A change takes effect at the ... -/
def MAP_DATA_QUEUE : Fld := ⟨373, .queues, 52, false, 0, 12, .rw, 0, 252, .any, 1, 0, 1, 0, .map⟩
/-- 11_queues_and_protected_memory.md, R337: Single corrections, saturating -/
def MEM_ECC_SINGLE : Fld := ⟨374, .queues, 256, false, 0, 32, .ro, 0, 252, .any, 48, 16, 1, 0, .none⟩
/-- 11_queues_and_protected_memory.md, R337: Double corrections, saturating -/
def MEM_ECC_DOUBLE : Fld := ⟨375, .queues, 260, false, 0, 32, .ro, 0, 252, .any, 48, 16, 1, 0, .none⟩
/-- 11_queues_and_protected_memory.md, R337: Uncorrectable words, saturating at 65,535 -/
def MEM_ECC_UNCORR : Fld := ⟨376, .queues, 264, false, 0, 16, .ro, 0, 252, .any, 48, 16, 1, 0, .none⟩
/-- 11_queues_and_protected_memory.md, R337: Address faults, saturating at 32,767 -/
def MEM_ECC_ADDR : Fld := ⟨377, .queues, 264, false, 16, 15, .ro, 0, 252, .any, 48, 16, 1, 0, .none⟩
/-- 11_queues_and_protected_memory.md, R337: Writing 1 sets all four counts and BAD_VALID to 0 -/
def MEM_ECC_CLR : Fld := ⟨378, .queues, 264, false, 31, 1, .wo, 0, 0, .any, 48, 16, 1, 0, .none⟩
/-- 11_queues_and_protected_memory.md, R337: Word address of the first uncorrectable word -/
def MEM_ECC_FIRST_BAD : Fld := ⟨379, .queues, 268, false, 0, 23, .ro, 0, 252, .any, 48, 16, 1, 0, .none⟩
/-- 11_queues_and_protected_memory.md, R337: 1: FIRST_BAD is valid -/
def MEM_ECC_BAD_VALID : Fld := ⟨380, .queues, 268, false, 31, 1, .ro, 0, 252, .any, 48, 16, 1, 0, .none⟩
/-- 11_queues_and_protected_memory.md, R337: Corrections per threshold step (R336). From 1 to 65,535. 0 reads back as 1. -/
def MEM_THR_CORR_THR : Fld := ⟨381, .queues, 1024, false, 0, 16, .rw, 1000, 252, .range 1 65535, 1, 0, 1, 0, .none⟩
/-- 11_queues_and_protected_memory.md, R337: Summary of the last completed scrub, laid out under R325 -/
def SCRUB_LAST_SUMMARY : Fld := ⟨382, .queues, 1056, true, 0, 64, .ro, 0, 252, .any, 4, 8, 1, 0, .none⟩
/-- 11_queues_and_protected_memory.md, R337: Bank of the current or last repair -/
def REPAIR_STATUS_BANK : Fld := ⟨383, .queues, 1088, false, 0, 4, .ro, 0, 252, .any, 1, 0, 1, 0, .none⟩
/-- 11_queues_and_protected_memory.md, R337: 0: idle; 1: MIGRATING; 2: TESTING; 3: DONE; 4: FAILED -/
def REPAIR_STATUS_REPAIR_STATE : Fld := ⟨384, .queues, 1088, false, 4, 3, .ro, 0, 252, .any, 1, 0, 1, 0, .none⟩
/-- 11_queues_and_protected_memory.md, R337: Spare rows mapped in BANK, from 0 to 8 -/
def REPAIR_STATUS_SPARES_USED : Fld := ⟨385, .queues, 1088, false, 8, 4, .ro, 0, 254, .any, 1, 0, 1, 0, .none⟩
/-- 11_queues_and_protected_memory.md, R337: Cells still to migrate -/
def REPAIR_STATUS_LIVE : Fld := ⟨386, .queues, 1088, false, 12, 20, .ro, 0, 252, .any, 1, 0, 1, 0, .none⟩
/-- 11_queues_and_protected_memory.md, R337: A threshold step was reached (R336) -/
def MEM_STATUS_CORR_THR : Fld := ⟨387, .queues, 1104, false, 8, 1, .w1c, 0, 252, .any, 1, 0, 1, 0, .none⟩
/-- 11_queues_and_protected_memory.md, R337: An uncorrectable word was found -/
def MEM_STATUS_UNCORR : Fld := ⟨388, .queues, 1104, false, 9, 1, .w1c, 0, 252, .any, 1, 0, 1, 0, .none⟩
/-- 11_queues_and_protected_memory.md, R337: An address fault was found -/
def MEM_STATUS_ADDR : Fld := ⟨389, .queues, 1104, false, 10, 1, .w1c, 0, 252, .any, 1, 0, 1, 0, .none⟩
/-- 11_queues_and_protected_memory.md, R337: A repair completed -/
def MEM_STATUS_REPAIR_DONE : Fld := ⟨390, .queues, 1104, false, 11, 1, .w1c, 0, 252, .any, 1, 0, 1, 0, .none⟩
/-- 11_queues_and_protected_memory.md, R337: A word was delivered poisoned (R332) -/
def MEM_STATUS_POISON : Fld := ⟨391, .queues, 1104, false, 12, 1, .w1c, 0, 252, .any, 1, 0, 1, 0, .none⟩
/-- 11_queues_and_protected_memory.md, R337: Bit n enables event raising by MEM_STATUS bit n + 8 -/
def MEM_EVENT_EN_EV_MASK : Fld := ⟨392, .queues, 1108, false, 8, 5, .rw, 31, 252, .any, 1, 0, 1, 0, .none⟩
/-- 11_queues_and_protected_memory.md, R337: A queue halted (R322) -/
def QEV_STATUS_HALT : Fld := ⟨393, .queues, 1120, false, 8, 1, .w1c, 0, 252, .any, 1, 0, 1, 0, .none⟩
/-- 11_queues_and_protected_memory.md, R337: A record was discarded under R309 -/
def QEV_STATUS_DROP : Fld := ⟨394, .queues, 1120, false, 9, 1, .w1c, 0, 252, .any, 1, 0, 1, 0, .none⟩
/-- 11_queues_and_protected_memory.md, R337: A packet was removed without a loss record (R323) -/
def QEV_STATUS_HDR_LOST : Fld := ⟨395, .queues, 1120, false, 10, 1, .w1c, 0, 252, .any, 1, 0, 1, 0, .none⟩
/-- 11_queues_and_protected_memory.md, R337: Bit n enables event raising by QEV_STATUS bit n + 8 -/
def QEV_EN_EV_MASK : Fld := ⟨396, .queues, 1124, false, 8, 3, .rw, 7, 252, .any, 1, 0, 1, 0, .none⟩

/-- Fields of block queues, part 0. -/
def queuesTable0 : List Fld := [
  POOL_STATUS_FREE_CELLS, POOL_STATUS_OVERCOMMIT, POOL_BANKS_IN_SERVICE, QSEL_QUEUE, QCFG_EN, QCFG_PRIO,
  QCFG_READER_KIND, QCFG_READER_IDX, QCFG_MAX_CELLS, QCFG_RESERVE, QSTAT_CELLS, QSTAT_PKTS,
  QSTAT_HIGH_WATER, QSTAT_HALTED, QDROP_DROPS, QDROP_CLR, QCMD_RESUME, MAP_SEL_STREAM,
  MAP_DATA_QUEUE, MEM_ECC_SINGLE, MEM_ECC_DOUBLE, MEM_ECC_UNCORR, MEM_ECC_ADDR, MEM_ECC_CLR,
  MEM_ECC_FIRST_BAD, MEM_ECC_BAD_VALID, MEM_THR_CORR_THR, SCRUB_LAST_SUMMARY, REPAIR_STATUS_BANK, REPAIR_STATUS_REPAIR_STATE,
  REPAIR_STATUS_SPARES_USED, REPAIR_STATUS_LIVE, MEM_STATUS_CORR_THR, MEM_STATUS_UNCORR, MEM_STATUS_ADDR, MEM_STATUS_REPAIR_DONE,
  MEM_STATUS_POISON, MEM_EVENT_EN_EV_MASK, QEV_STATUS_HALT, QEV_STATUS_DROP]

/-- Fields of block queues, part 1. -/
def queuesTable1 : List Fld := [
  QEV_STATUS_HDR_LOST, QEV_EN_EV_MASK]

/-- Every field of block queues. -/
def queuesTable : List Fld := queuesTable0 ++ queuesTable1

/-- 12_seif_compression.md, R360: 1: queue mode on (R348) -/
def SEIF_CTRL_EN : Fld := ⟨397, .seif, 0, false, 0, 1, .rw, 0, 252, .any, 2, 64, 1, 0, .none⟩
/-- 12_seif_compression.md, R360: Predictor for TYPE 0x01 records. Code 3 is undefined. -/
def SEIF_CTRL_PRED : Fld := ⟨398, .seif, 0, false, 1, 2, .rw, 1, 252, .enum [0, 1, 2], 2, 64, 1, 0, .none⟩
/-- 12_seif_compression.md, R360: 0: 4 KiB; 1: 16 KiB; 2: 64 KiB. Code 3 is undefined. -/
def SEIF_CTRL_SIZE : Fld := ⟨399, .seif, 0, false, 4, 2, .rw, 0, 252, .enum [0, 1, 2], 2, 64, 1, 0, .none⟩
/-- 12_seif_compression.md, R360: Output queue, from 0 to 4,095; every encoding is legal -/
def SEIF_CTRL_OUT_QUEUE : Fld := ⟨400, .seif, 0, false, 16, 12, .rw, 0, 252, .any, 2, 64, 1, 0, .none⟩
/-- 12_seif_compression.md, R360: Input bytes taken, queue mode and jobs -/
def SEIF_CNT_IN_BYTES : Fld := ⟨401, .seif, 8, true, 0, 64, .ro, 0, 252, .any, 2, 64, 1, 0, .none⟩
/-- 12_seif_compression.md, R360: Output bytes written -/
def SEIF_CNT_OUT_BYTES : Fld := ⟨402, .seif, 16, true, 0, 64, .ro, 0, 252, .any, 2, 64, 1, 0, .none⟩
/-- 12_seif_compression.md, R360: Records compressed under R349, saturating -/
def SEIF_CNT_PACKED : Fld := ⟨403, .seif, 24, true, 0, 32, .ro, 0, 252, .any, 2, 64, 1, 0, .none⟩
/-- 12_seif_compression.md, R360: Records passed unchanged, saturating -/
def SEIF_CNT_PASSED : Fld := ⟨404, .seif, 24, true, 32, 31, .ro, 0, 252, .any, 2, 64, 1, 0, .none⟩
/-- 12_seif_compression.md, R360: Writing 1 sets all counts of the engine to 0 -/
def SEIF_CNT_CLR : Fld := ⟨405, .seif, 24, true, 63, 1, .wo, 0, 0, .any, 2, 64, 1, 0, .none⟩
/-- 12_seif_compression.md, R360: ILLEGAL_CODE faults, saturating at 65,535 -/
def SEIF_DFAULT_ILLEGAL : Fld := ⟨406, .seif, 256, true, 0, 16, .ro, 0, 252, .any, 1, 0, 1, 0, .none⟩
/-- 12_seif_compression.md, R360: DISTANCE_BEYOND_HISTORY faults, saturating at 65,535 -/
def SEIF_DFAULT_DISTANCE : Fld := ⟨407, .seif, 256, true, 16, 16, .ro, 0, 252, .any, 1, 0, 1, 0, .none⟩
/-- 12_seif_compression.md, R360: LENGTH_OVERRUN faults, saturating at 65,535 -/
def SEIF_DFAULT_OVERRUN : Fld := ⟨408, .seif, 256, true, 32, 16, .ro, 0, 252, .any, 1, 0, 1, 0, .none⟩
/-- 12_seif_compression.md, R360: BAD_CHECK faults, both classes, saturating at 32,767 -/
def SEIF_DFAULT_BADCHK : Fld := ⟨409, .seif, 256, true, 48, 15, .ro, 0, 252, .any, 1, 0, 1, 0, .none⟩
/-- 12_seif_compression.md, R360: Writing 1 sets all four counts to 0 -/
def SEIF_DFAULT_CLR : Fld := ⟨410, .seif, 256, true, 63, 1, .wo, 0, 0, .any, 1, 0, 1, 0, .none⟩
/-- 12_seif_compression.md, R360: Engine 0 is coding a block -/
def SEIF_STATUS_BUSY0 : Fld := ⟨411, .seif, 512, false, 0, 1, .ro, 0, 0, .any, 1, 0, 1, 0, .none⟩
/-- 12_seif_compression.md, R360: Engine 1 is coding a block -/
def SEIF_STATUS_BUSY1 : Fld := ⟨412, .seif, 512, false, 1, 1, .ro, 0, 0, .any, 1, 0, 1, 0, .none⟩
/-- 12_seif_compression.md, R360: The decompression engine runs a job -/
def SEIF_STATUS_DBUSY : Fld := ⟨413, .seif, 512, false, 2, 1, .ro, 0, 0, .any, 1, 0, 1, 0, .none⟩
/-- 12_seif_compression.md, R360: A job completed with OUTPUT_FULL -/
def SEIF_STATUS_OUTPUT_FULL : Fld := ⟨414, .seif, 512, false, 8, 1, .w1c, 0, 252, .any, 1, 0, 1, 0, .none⟩
/-- 12_seif_compression.md, R360: A class A job failed (R356) -/
def SEIF_STATUS_FAULT_A : Fld := ⟨415, .seif, 512, false, 9, 1, .w1c, 0, 252, .any, 1, 0, 1, 0, .none⟩
/-- 12_seif_compression.md, R360: A class B job stopped at a fault (R357) -/
def SEIF_STATUS_FAULT_B : Fld := ⟨416, .seif, 512, false, 10, 1, .w1c, 0, 252, .any, 1, 0, 1, 0, .none⟩
/-- 12_seif_compression.md, R360: Bit n enables event raising by SEIF_STATUS bit n + 8 -/
def SEIF_EVENT_EN_EV_MASK : Fld := ⟨417, .seif, 516, false, 8, 3, .rw, 6, 252, .any, 1, 0, 1, 0, .none⟩

/-- Fields of block seif. -/
def seifTable : List Fld := [
  SEIF_CTRL_EN, SEIF_CTRL_PRED, SEIF_CTRL_SIZE, SEIF_CTRL_OUT_QUEUE, SEIF_CNT_IN_BYTES, SEIF_CNT_OUT_BYTES,
  SEIF_CNT_PACKED, SEIF_CNT_PASSED, SEIF_CNT_CLR, SEIF_DFAULT_ILLEGAL, SEIF_DFAULT_DISTANCE, SEIF_DFAULT_OVERRUN,
  SEIF_DFAULT_BADCHK, SEIF_DFAULT_CLR, SEIF_STATUS_BUSY0, SEIF_STATUS_BUSY1, SEIF_STATUS_DBUSY, SEIF_STATUS_OUTPUT_FULL,
  SEIF_STATUS_FAULT_A, SEIF_STATUS_FAULT_B, SEIF_EVENT_EN_EV_MASK]

/-- 13_zillo_cores.md, R386: 1: core runs; 0: halt under R382 -/
def ZC_CTRL_RUN : Fld := ⟨418, .zillo, 0, false, 0, 1, .rw, 0, 252, .any, 1, 0, 1, 0, .none⟩
/-- 13_zillo_cores.md, R386: 1: watchdog on (R381) -/
def ZC_CTRL_WD_EN : Fld := ⟨419, .zillo, 0, false, 1, 1, .rw, 0, 252, .any, 1, 0, 1, 0, .none⟩
/-- 13_zillo_cores.md, R386: 0: EMPTY; 1: RUNNING; 2: WAITING; 3: HALTING; 4: HALTED; 5: TRAPPED; 6: LOADING -/
def ZC_STATUS_STATE : Fld := ⟨420, .zillo, 4, false, 0, 3, .ro, 0, 0, .any, 1, 0, 1, 0, .none⟩
/-- 13_zillo_cores.md, R386: The core trapped -/
def ZC_STATUS_TRAP : Fld := ⟨421, .zillo, 4, false, 8, 1, .w1c, 0, 252, .any, 1, 0, 1, 0, .none⟩
/-- 13_zillo_cores.md, R386: A WD reset occurred -/
def ZC_STATUS_WDOG : Fld := ⟨422, .zillo, 4, false, 9, 1, .w1c, 0, 252, .any, 1, 0, 1, 0, .none⟩
/-- 13_zillo_cores.md, R386: HALT was executed -/
def ZC_STATUS_FW_HALT : Fld := ⟨423, .zillo, 4, false, 10, 1, .w1c, 0, 252, .any, 1, 0, 1, 0, .none⟩
/-- 13_zillo_cores.md, R386: The core wrote MBO3 -/
def ZC_STATUS_MBOX : Fld := ⟨424, .zillo, 4, false, 11, 1, .w1c, 0, 252, .any, 1, 0, 1, 0, .none⟩
/-- 13_zillo_cores.md, R386: Bit n enables event raising by ZC_STATUS bit n + 8 -/
def ZC_EVENT_EN_EV_MASK : Fld := ⟨425, .zillo, 8, false, 8, 4, .rw, 3, 252, .any, 1, 0, 1, 0, .none⟩
/-- 13_zillo_cores.md, R386: Last trap cause (R380) -/
def ZC_TRAP_CAUSE : Fld := ⟨426, .zillo, 16, true, 0, 4, .ro, 0, 236, .any, 1, 0, 1, 0, .none⟩
/-- 13_zillo_cores.md, R386: Data address, for DATA and ALIGN -/
def ZC_TRAP_ADDR : Fld := ⟨427, .zillo, 16, true, 8, 19, .ro, 0, 236, .any, 1, 0, 1, 0, .none⟩
/-- 13_zillo_cores.md, R386: Address of the trapping instruction -/
def ZC_TRAP_PC : Fld := ⟨428, .zillo, 16, true, 32, 19, .ro, 0, 236, .any, 1, 0, 1, 0, .none⟩
/-- 13_zillo_cores.md, R386: µs. From 10 to 65,535. Values below read back as 10. -/
def ZC_WDOG_PERIOD : Fld := ⟨429, .zillo, 24, false, 0, 16, .rw, 10000, 252, .range 10 65535, 1, 0, 1, 0, .none⟩
/-- 13_zillo_cores.md, R386: Host to core; a write to word 3 latches line 1; every encoding is legal -/
def ZC_MBOX_IN_DATA : Fld := ⟨430, .zillo, 32, false, 0, 32, .rw, 0, 252, .any, 4, 4, 1, 0, .none⟩
/-- 13_zillo_cores.md, R386: Core to host, as written to MBO0 to MBO3 -/
def ZC_MBOX_OUT_DATA : Fld := ⟨431, .zillo, 48, false, 0, 32, .ro, 0, 236, .any, 4, 4, 1, 0, .none⟩
/-- 13_zillo_cores.md, R386: Cycles in STATE RUNNING -/
def ZC_CYCLES_COUNT : Fld := ⟨432, .zillo, 64, true, 0, 63, .ro, 0, 252, .any, 1, 0, 1, 0, .none⟩
/-- 13_zillo_cores.md, R386: Writing 1 sets COUNT to 0 -/
def ZC_CYCLES_CLR : Fld := ⟨433, .zillo, 64, true, 63, 1, .wo, 0, 0, .any, 1, 0, 1, 0, .none⟩
/-- 13_zillo_cores.md, R386: Word of core memory to read, from 0 to 65,535; every encoding is legal -/
def ZC_DBG_ADDR_WORD : Fld := ⟨434, .zillo, 256, false, 3, 16, .rw, 0, 252, .any, 1, 0, 1, 0, .none⟩
/-- 13_zillo_cores.md, R386: The corrected word, while debug access is open (see *Identity, bundles and debug*); zero otherwise -/
def ZC_DBG_DATA_DATA : Fld := ⟨435, .zillo, 264, true, 0, 64, .ro, 0, 0, .any, 1, 0, 1, 0, .none⟩

/-- Fields of block zillo. -/
def zilloTable : List Fld := [
  ZC_CTRL_RUN, ZC_CTRL_WD_EN, ZC_STATUS_STATE, ZC_STATUS_TRAP, ZC_STATUS_WDOG, ZC_STATUS_FW_HALT,
  ZC_STATUS_MBOX, ZC_EVENT_EN_EV_MASK, ZC_TRAP_CAUSE, ZC_TRAP_ADDR, ZC_TRAP_PC, ZC_WDOG_PERIOD,
  ZC_MBOX_IN_DATA, ZC_MBOX_OUT_DATA, ZC_CYCLES_COUNT, ZC_CYCLES_CLR, ZC_DBG_ADDR_WORD, ZC_DBG_DATA_DATA]

/-- 14_host_rings.md, R424: Gateway node ID; 0 for this node's endpoint. From 0 to 65,534. 0xFFFF reads back as 65,534. -/
def HR_GW_GW_NODE : Fld := ⟨436, .rings, 0, false, 0, 16, .rw, 0, 252, .range 0 65534, 1, 0, 1, 0, .none⟩
/-- 14_host_rings.md, R424: µs (R415, R417). From 10 to 65,535. Values below read back as 10. -/
def HR_GW_PROXY_TIMEOUT : Fld := ⟨437, .rings, 0, false, 16, 16, .rw, 1000, 252, .range 10 65535, 1, 0, 1, 0, .none⟩
/-- 14_host_rings.md, R424: 0: submission; 1: completion; 2: record. Code 3 is undefined. -/
def RING_SEL_KIND : Fld := ⟨438, .rings, 16, false, 0, 2, .rw, 0, 252, .enum [0, 1, 2], 1, 0, 1, 0, .none⟩
/-- 14_host_rings.md, R424: Ring. From 0 to 255 for kinds 0 and 1, and to 1,023 for kind 2. Values above read back as the limit. -/
def RING_SEL_INDEX : Fld := ⟨439, .rings, 16, false, 16, 10, .rw, 0, 252, .special, 1, 0, 1, 0, .none⟩
/-- 14_host_rings.md, R424: Host address of entry 0, a multiple of 4 KiB. Writes while EN is 1 are discarded; every encoding is legal. -/
def RING_BASE_ADDR : Fld := ⟨440, .rings, 24, true, 12, 52, .rw, 0, 248, .any, 1, 0, 1, 0, .ring⟩
/-- 14_host_rings.md, R424: 1: ring in use. A change from 0 to 1 sets head and tail to 0, sets the next PHASE to 1, and clears RING_ERR. -/
def RING_CFG_EN : Fld := ⟨441, .rings, 32, false, 0, 1, .rw, 0, 248, .any, 1, 0, 1, 0, .ring⟩
/-- 14_host_rings.md, R424: log2 of the entry count. From 4 to 16. Values beyond read back as the nearer limit. Writes while EN is 1 ... -/
def RING_CFG_SIZE : Fld := ⟨442, .rings, 32, false, 1, 5, .rw, 4, 248, .range 4 16, 1, 0, 1, 0, .ring⟩
/-- 14_host_rings.md, R424: Submission and record rings: the completion ring for their entries. From 0 to 255; every encoding is ... -/
def RING_CFG_BIND : Fld := ⟨443, .rings, 32, false, 8, 8, .rw, 0, 248, .any, 1, 0, 1, 0, .ring⟩
/-- 14_host_rings.md, R424: Submission rings: 0 lowest, 7 highest (R392); every encoding is legal -/
def RING_CFG_PRIO : Fld := ⟨444, .rings, 32, false, 16, 3, .rw, 0, 248, .any, 1, 0, 1, 0, .ring⟩
/-- 14_host_rings.md, R424: Completion rings: MSI-X vector (R406, R422). From 0 to 2,047; every encoding is legal. -/
def RING_CFG_VECTOR : Fld := ⟨445, .rings, 32, false, 21, 11, .rw, 0, 248, .any, 1, 0, 1, 0, .ring⟩
/-- 14_host_rings.md, R424: Completion rings: 1 for interrupts under R406 -/
def RING_COAL_IRQ_EN : Fld := ⟨446, .rings, 36, false, 0, 1, .rw, 0, 248, .any, 1, 0, 1, 0, .ring⟩
/-- 14_host_rings.md, R424: Entries per message. From 1 to 255. 0 reads back as 1. -/
def RING_COAL_COUNT : Fld := ⟨447, .rings, 36, false, 8, 8, .rw, 1, 248, .range 1 255, 1, 0, 1, 0, .ring⟩
/-- 14_host_rings.md, R424: µs. From 1 to 65,535. 0 reads back as 1. -/
def RING_COAL_TIME : Fld := ⟨448, .rings, 36, false, 16, 16, .rw, 10, 248, .range 1 65535, 1, 0, 1, 0, .ring⟩
/-- 14_host_rings.md, R424: Head index in use -/
def RING_POS_HEAD : Fld := ⟨449, .rings, 40, false, 0, 16, .ro, 0, 0, .any, 1, 0, 1, 0, .ring⟩
/-- 14_host_rings.md, R424: Tail index in use -/
def RING_POS_TAIL : Fld := ⟨450, .rings, 40, false, 16, 16, .ro, 0, 0, .any, 1, 0, 1, 0, .ring⟩
/-- 14_host_rings.md, R424: The ring is halted (R418, R420) -/
def RING_ERR_HALTED : Fld := ⟨451, .rings, 44, false, 0, 1, .ro, 0, 248, .any, 1, 0, 1, 0, .ring⟩
/-- 14_host_rings.md, R424: 0: none; 1: fetch failed; 2: GATEWAY; 3: resend failed -/
def RING_ERR_CAUSE : Fld := ⟨452, .rings, 44, false, 1, 3, .ro, 0, 248, .any, 1, 0, 1, 0, .ring⟩
/-- 14_host_rings.md, R424: Record rings: µs (R411). From 1 to 65,535. 0 reads back as 1. -/
def RING_FLUSH_FLUSH : Fld := ⟨453, .rings, 48, false, 0, 16, .rw, 1000, 248, .range 1 65535, 1, 0, 1, 0, .ring⟩
/-- 14_host_rings.md, R424: A ring halted -/
def HR_STATUS_HALT : Fld := ⟨454, .rings, 64, false, 8, 1, .w1c, 0, 252, .any, 1, 0, 1, 0, .none⟩
/-- 14_host_rings.md, R424: A proxied read was reissued, or a buffer or entry was resent -/
def HR_STATUS_RETRY : Fld := ⟨455, .rings, 64, false, 9, 1, .w1c, 0, 252, .any, 1, 0, 1, 0, .none⟩
/-- 14_host_rings.md, R424: A GW_DOWN answer arrived (R420) -/
def HR_STATUS_GW_DOWN : Fld := ⟨456, .rings, 64, false, 10, 1, .w1c, 0, 252, .any, 1, 0, 1, 0, .none⟩
/-- 14_host_rings.md, R424: A sync command was refused (R400) -/
def HR_STATUS_SYNC_LATE : Fld := ⟨457, .rings, 64, false, 11, 1, .w1c, 0, 252, .any, 1, 0, 1, 0, .none⟩
/-- 14_host_rings.md, R424: Bit n enables event raising by HR_STATUS bit n + 8 -/
def HR_EVENT_EN_EV_MASK : Fld := ⟨458, .rings, 68, false, 8, 4, .rw, 13, 252, .any, 1, 0, 1, 0, .none⟩
/-- 14_host_rings.md, R424: Proxied reads in flight at this gateway, from 0 to 16,384 -/
def HR_PROXY_IN_FLIGHT : Fld := ⟨459, .rings, 80, false, 0, 15, .ro, 0, 0, .any, 1, 0, 1, 0, .none⟩
/-- 14_host_rings.md, R424: Greatest IN_FLIGHT since the last CLR -/
def HR_PROXY_HIGH_WATER : Fld := ⟨460, .rings, 80, false, 16, 15, .ro, 0, 252, .any, 1, 0, 1, 0, .none⟩
/-- 14_host_rings.md, R424: Writing 1 sets HIGH_WATER to 0 -/
def HR_PROXY_CLR : Fld := ⟨461, .rings, 80, false, 31, 1, .wo, 0, 0, .any, 1, 0, 1, 0, .none⟩

/-- Fields of block rings. -/
def ringsTable : List Fld := [
  HR_GW_GW_NODE, HR_GW_PROXY_TIMEOUT, RING_SEL_KIND, RING_SEL_INDEX, RING_BASE_ADDR, RING_CFG_EN,
  RING_CFG_SIZE, RING_CFG_BIND, RING_CFG_PRIO, RING_CFG_VECTOR, RING_COAL_IRQ_EN, RING_COAL_COUNT,
  RING_COAL_TIME, RING_POS_HEAD, RING_POS_TAIL, RING_ERR_HALTED, RING_ERR_CAUSE, RING_FLUSH_FLUSH,
  HR_STATUS_HALT, HR_STATUS_RETRY, HR_STATUS_GW_DOWN, HR_STATUS_SYNC_LATE, HR_EVENT_EN_EV_MASK, HR_PROXY_IN_FLIGHT,
  HR_PROXY_HIGH_WATER, HR_PROXY_CLR]

/-- 14_host_rings.md, R424: MSI-X vector of source s, in the table of the gateway named by GW_NODE. From 0 to 2,047; every encoding is ... -/
def EV_MAP_VECTOR : Fld := ⟨462, .evmap, 0, false, 0, 11, .rw, 0, 248, .any, 288, 4, 1, 0, .none⟩
/-- 14_host_rings.md, R424: 1: a raise writes the vector (R414) -/
def EV_MAP_EN : Fld := ⟨463, .evmap, 0, false, 15, 1, .rw, 0, 248, .any, 288, 4, 1, 0, .none⟩

/-- Fields of block evmap. -/
def evmapTable : List Fld := [
  EV_MAP_VECTOR, EV_MAP_EN]

/-- 15_lanes.md, R444: 0: ACTIVE; 1: QUIET; 2: DEEP. Code 3 is undefined. -/
def LANE_CTRL_PSTATE : Fld := ⟨464, .lane, 0, false, 0, 2, .rw, 0, 252, .enum [0, 1, 2], 1, 0, 1, 0, .none⟩
/-- 15_lanes.md, R444: 1: frames wake a QUIET transmitter (R437) -/
def LANE_CTRL_AUTO_WAKE : Fld := ⟨465, .lane, 0, false, 2, 1, .rw, 1, 252, .any, 1, 0, 1, 0, .none⟩
/-- 15_lanes.md, R444: 1: signal wakes a DEEP lane (R438) -/
def LANE_CTRL_WAKE_DET : Fld := ⟨466, .lane, 0, false, 3, 1, .rw, 1, 252, .any, 1, 0, 1, 0, .none⟩
/-- 15_lanes.md, R444: 1: coefficients kept through DEEP (R434) -/
def LANE_CTRL_KEEP_COEF : Fld := ⟨467, .lane, 0, false, 4, 1, .rw, 0, 252, .any, 1, 0, 1, 0, .none⟩
/-- 15_lanes.md, R444: 1: training idles sent (R431) -/
def LANE_CTRL_TI_EN : Fld := ⟨468, .lane, 0, false, 5, 1, .rw, 1, 252, .any, 1, 0, 1, 0, .none⟩
/-- 15_lanes.md, R444: 1: transmit polarity inverted -/
def LANE_CTRL_TX_INV : Fld := ⟨469, .lane, 0, false, 6, 1, .rwl, 0, 252, .any, 1, 0, 1, 0, .none⟩
/-- 15_lanes.md, R444: 1: receive polarity inverted -/
def LANE_CTRL_RX_INV : Fld := ⟨470, .lane, 0, false, 7, 1, .rwl, 0, 252, .any, 1, 0, 1, 0, .none⟩
/-- 15_lanes.md, R444: Writing 1 retrains (R430) -/
def LANE_CTRL_RETRAIN : Fld := ⟨471, .lane, 0, false, 8, 1, .wo, 0, 0, .any, 1, 0, 1, 0, .none⟩
/-- 15_lanes.md, R444: 0: DOWN; 1: TRAINING; 2: ACTIVE; 3: QUIET; 4: DEEP; 5: TEST -/
def LANE_STATUS_STATE_NOW : Fld := ⟨472, .lane, 4, false, 0, 3, .ro, 0, 0, .any, 1, 0, 1, 0, .none⟩
/-- 15_lanes.md, R444: Receive signal present -/
def LANE_STATUS_SIGNAL : Fld := ⟨473, .lane, 4, false, 3, 1, .ro, 0, 0, .any, 1, 0, 1, 0, .none⟩
/-- 15_lanes.md, R444: Block lock -/
def LANE_STATUS_LOCK : Fld := ⟨474, .lane, 4, false, 4, 1, .ro, 0, 0, .any, 1, 0, 1, 0, .none⟩
/-- 15_lanes.md, R444: Adaptation frozen (R433) -/
def LANE_STATUS_FROZEN_NOW : Fld := ⟨475, .lane, 4, false, 5, 1, .ro, 0, 0, .any, 1, 0, 1, 0, .none⟩
/-- 15_lanes.md, R444: The lane went down (R429) -/
def LANE_STATUS_DOWN : Fld := ⟨476, .lane, 4, false, 8, 1, .w1c, 0, 252, .any, 1, 0, 1, 0, .none⟩
/-- 15_lanes.md, R444: HI_BER was declared -/
def LANE_STATUS_HI_BER : Fld := ⟨477, .lane, 4, false, 9, 1, .w1c, 0, 252, .any, 1, 0, 1, 0, .none⟩
/-- 15_lanes.md, R444: FROZEN_NOW rose -/
def LANE_STATUS_FREEZE : Fld := ⟨478, .lane, 4, false, 10, 1, .w1c, 0, 252, .any, 1, 0, 1, 0, .none⟩
/-- 15_lanes.md, R444: A TRAIN payload failed its check -/
def LANE_STATUS_TI_ERR : Fld := ⟨479, .lane, 4, false, 11, 1, .w1c, 0, 252, .any, 1, 0, 1, 0, .none⟩
/-- 15_lanes.md, R444: The lane left DEEP on signal -/
def LANE_STATUS_WAKE : Fld := ⟨480, .lane, 4, false, 12, 1, .w1c, 0, 252, .any, 1, 0, 1, 0, .none⟩
/-- 15_lanes.md, R444: Bit n enables event raising by LANE_STATUS bit n + 8 -/
def LANE_EVENT_EN_EV_MASK : Fld := ⟨481, .lane, 8, false, 8, 5, .rw, 19, 252, .any, 1, 0, 1, 0, .none⟩
/-- 15_lanes.md, R444: 400 mV + 40 mV × SWING. From 0 to 15; every encoding is legal. -/
def LANE_TX_SWING : Fld := ⟨482, .lane, 16, false, 0, 4, .rw, 10, 252, .any, 1, 0, 1, 0, .none⟩
/-- 15_lanes.md, R444: Pre-cursor, % of swing. From 0 to 15; every encoding is legal. -/
def LANE_TX_PRE : Fld := ⟨483, .lane, 16, false, 8, 4, .rw, 4, 252, .any, 1, 0, 1, 0, .none⟩
/-- 15_lanes.md, R444: Post-cursor, % of swing. From 0 to 31; every encoding is legal. -/
def LANE_TX_POST : Fld := ⟨484, .lane, 16, false, 16, 5, .rw, 12, 252, .any, 1, 0, 1, 0, .none⟩
/-- 15_lanes.md, R444: Inner eye height after equalisation, mV -/
def LANE_EYE_HEIGHT : Fld := ⟨485, .lane, 24, false, 0, 10, .ro, 0, 0, .any, 1, 0, 1, 0, .none⟩
/-- 15_lanes.md, R444: Inner eye width, UI/64 -/
def LANE_EYE_WIDTH : Fld := ⟨486, .lane, 24, false, 10, 6, .ro, 0, 0, .any, 1, 0, 1, 0, .none⟩
/-- 15_lanes.md, R444: Equaliser peaking in use, units of 0.5 dB -/
def LANE_EYE_CTLE : Fld := ⟨487, .lane, 24, false, 16, 5, .ro, 0, 0, .any, 1, 0, 1, 0, .none⟩
/-- 15_lanes.md, R444: Invalid sync headers and header errors of R427, saturating -/
def LANE_CNT_HDR_ERR : Fld := ⟨488, .lane, 32, true, 0, 32, .ro, 0, 252, .any, 1, 0, 1, 0, .none⟩
/-- 15_lanes.md, R444: TRAIN payloads in error, saturating at 65,535 -/
def LANE_CNT_TI_ERRS : Fld := ⟨489, .lane, 32, true, 32, 16, .ro, 0, 252, .any, 1, 0, 1, 0, .none⟩
/-- 15_lanes.md, R444: Losses under R429, saturating at 32,767 -/
def LANE_CNT_DOWNS : Fld := ⟨490, .lane, 32, true, 48, 15, .ro, 0, 252, .any, 1, 0, 1, 0, .none⟩
/-- 15_lanes.md, R444: Writing 1 sets all three counts to 0 -/
def LANE_CNT_CLR : Fld := ⟨491, .lane, 32, true, 63, 1, .wo, 0, 0, .any, 1, 0, 1, 0, .none⟩
/-- 15_lanes.md, R444: Per R440. Codes 0 and 7 are undefined. -/
def LANE_TEST_PATTERN : Fld := ⟨492, .lane, 64, false, 0, 3, .rw, 5, 252, .enum [1, 2, 3, 4, 5, 6], 1, 0, 1, 0, .none⟩
/-- 15_lanes.md, R444: 1: pattern complemented -/
def LANE_TEST_INVERT : Fld := ⟨493, .lane, 64, false, 3, 1, .rw, 0, 252, .any, 1, 0, 1, 0, .none⟩
/-- 15_lanes.md, R444: 1: generator on (R439) -/
def LANE_TEST_GEN_EN : Fld := ⟨494, .lane, 64, false, 4, 1, .rw, 0, 252, .any, 1, 0, 1, 0, .none⟩
/-- 15_lanes.md, R444: 1: checker on (R439) -/
def LANE_TEST_CHK_EN : Fld := ⟨495, .lane, 64, false, 5, 1, .rw, 0, 252, .any, 1, 0, 1, 0, .none⟩
/-- 15_lanes.md, R444: 0: none; 1: near-end; 2: far-end. Code 3 is undefined. -/
def LANE_TEST_LOOP : Fld := ⟨496, .lane, 64, false, 8, 2, .rw, 0, 252, .enum [0, 1, 2], 1, 0, 1, 0, .none⟩
/-- 15_lanes.md, R444: User pattern; every encoding is legal -/
def LANE_USER_USER : Fld := ⟨497, .lane, 72, true, 0, 64, .rw, 71777214294589695, 252, .any, 1, 0, 1, 0, .none⟩
/-- 15_lanes.md, R444: 0: none; 1: BIT; 2: BURST; 3: HEADER -/
def LANE_INJ_KIND : Fld := ⟨498, .lane, 80, false, 0, 2, .rw, 0, 252, .any, 1, 0, 1, 0, .none⟩
/-- 15_lanes.md, R444: Payload bit, from 0 to 63; every encoding is legal -/
def LANE_INJ_INJ_POS : Fld := ⟨499, .lane, 80, false, 8, 6, .rw, 0, 252, .any, 1, 0, 1, 0, .none⟩
/-- 15_lanes.md, R444: From 1 to 64 − INJ_POS. Values beyond read back as the nearer limit. -/
def LANE_INJ_BURST_LEN : Fld := ⟨500, .lane, 80, false, 16, 7, .rw, 1, 252, .special, 1, 0, 1, 0, .none⟩
/-- 15_lanes.md, R444: Writing 1 injects once (R439, R442) -/
def LANE_INJ_GO : Fld := ⟨501, .lane, 80, false, 31, 1, .wo, 0, 0, .any, 1, 0, 1, 0, .none⟩
/-- 15_lanes.md, R444: Bits compared while locked -/
def LANE_BERT_BITS : Fld := ⟨502, .lane, 88, true, 0, 63, .ro, 0, 0, .any, 1, 0, 1, 0, .none⟩
/-- 15_lanes.md, R444: Checker locked -/
def LANE_BERT_CHK_LOCK : Fld := ⟨503, .lane, 88, true, 63, 1, .ro, 0, 0, .any, 1, 0, 1, 0, .none⟩
/-- 15_lanes.md, R444: Bit errors while locked -/
def LANE_BERT_ERRORS : Fld := ⟨504, .lane, 96, true, 0, 63, .ro, 0, 0, .any, 1, 0, 1, 0, .none⟩
/-- 15_lanes.md, R444: Writing 1 sets BITS and ERRORS to 0 -/
def LANE_BERT_CLR : Fld := ⟨505, .lane, 96, true, 63, 1, .wo, 0, 0, .any, 1, 0, 1, 0, .none⟩

/-- Fields of block lane, part 0. -/
def laneTable0 : List Fld := [
  LANE_CTRL_PSTATE, LANE_CTRL_AUTO_WAKE, LANE_CTRL_WAKE_DET, LANE_CTRL_KEEP_COEF, LANE_CTRL_TI_EN, LANE_CTRL_TX_INV,
  LANE_CTRL_RX_INV, LANE_CTRL_RETRAIN, LANE_STATUS_STATE_NOW, LANE_STATUS_SIGNAL, LANE_STATUS_LOCK, LANE_STATUS_FROZEN_NOW,
  LANE_STATUS_DOWN, LANE_STATUS_HI_BER, LANE_STATUS_FREEZE, LANE_STATUS_TI_ERR, LANE_STATUS_WAKE, LANE_EVENT_EN_EV_MASK,
  LANE_TX_SWING, LANE_TX_PRE, LANE_TX_POST, LANE_EYE_HEIGHT, LANE_EYE_WIDTH, LANE_EYE_CTLE,
  LANE_CNT_HDR_ERR, LANE_CNT_TI_ERRS, LANE_CNT_DOWNS, LANE_CNT_CLR, LANE_TEST_PATTERN, LANE_TEST_INVERT,
  LANE_TEST_GEN_EN, LANE_TEST_CHK_EN, LANE_TEST_LOOP, LANE_USER_USER, LANE_INJ_KIND, LANE_INJ_INJ_POS,
  LANE_INJ_BURST_LEN, LANE_INJ_GO, LANE_BERT_BITS, LANE_BERT_CHK_LOCK]

/-- Fields of block lane, part 1. -/
def laneTable1 : List Fld := [
  LANE_BERT_ERRORS, LANE_BERT_CLR]

/-- Every field of block lane. -/
def laneTable : List Fld := laneTable0 ++ laneTable1

/-- 16_woreg_fabric.md, R479: Node ID (R445); also set under R472 and R476. From 1 to 65,534, or 0xFFFF. 0 reads back as 0xFFFF (R445). -/
def FAB_NODE_ID : Fld := ⟨506, .fab, 0, false, 0, 16, .rwl, 65535, 254, .special, 1, 0, 1, 0, .none⟩
/-- 16_woreg_fabric.md, R479: µs (R461). From 1 to 255. 0 reads back as 1. -/
def FAB_CFG_DWELL_MAX : Fld := ⟨507, .fab, 4, false, 0, 8, .rw, 10, 254, .range 1 255, 1, 0, 1, 0, .none⟩
/-- 16_woreg_fabric.md, R479: From 1 to 65,534, or 0xFFFF for none. 0 reads back as 0xFFFF (R445). -/
def FAB_ASSIGN_NEW_ID : Fld := ⟨508, .fab, 8, false, 0, 16, .rw, 65535, 244, .special, 1, 0, 1, 0, .none⟩
/-- 16_woreg_fabric.md, R479: 1: the next PROBE carries NEW_ID; cleared under R472 -/
def FAB_ASSIGN_ARM : Fld := ⟨509, .fab, 8, false, 16, 1, .rw, 0, 244, .any, 1, 0, 1, 0, .none⟩
/-- 16_woreg_fabric.md, R479: Drawn afresh at PO, PN and every judgement (R475) -/
def FAB_FA_NONCE_NONCE : Fld := ⟨510, .fab, 16, true, 0, 64, .ro, 0, 244, .any, 1, 0, 1, 0, .none⟩
/-- 16_woreg_fabric.md, R479: A fabric reset was accepted -/
def FAB_STATUS_FA_DONE : Fld := ⟨511, .fab, 24, false, 8, 1, .w1c, 0, 252, .any, 1, 0, 1, 0, .none⟩
/-- 16_woreg_fabric.md, R479: A fabric reset was refused -/
def FAB_STATUS_FA_DENIED : Fld := ⟨512, .fab, 24, false, 9, 1, .w1c, 0, 252, .any, 1, 0, 1, 0, .none⟩
/-- 16_woreg_fabric.md, R479: The node took an ID under R472 -/
def FAB_STATUS_ASSIGNED : Fld := ⟨513, .fab, 24, false, 10, 1, .w1c, 0, 252, .any, 1, 0, 1, 0, .none⟩
/-- 16_woreg_fabric.md, R479: A count of FAB_DROP advanced -/
def FAB_STATUS_DROP : Fld := ⟨514, .fab, 24, false, 11, 1, .w1c, 0, 252, .any, 1, 0, 1, 0, .none⟩
/-- 16_woreg_fabric.md, R479: Bit n enables event raising by FAB_STATUS bit n + 8 -/
def FAB_EVENT_EN_EV_MASK : Fld := ⟨515, .fab, 28, false, 8, 4, .rw, 3, 252, .any, 1, 0, 1, 0, .none⟩
/-- 16_woreg_fabric.md, R479: Discards under R458, saturating at 65,535 -/
def FAB_DROP_NO_ROUTE : Fld := ⟨516, .fab, 32, true, 0, 16, .ro, 0, 244, .any, 1, 0, 1, 0, .none⟩
/-- 16_woreg_fabric.md, R479: Discards under R459, saturating at 65,535 -/
def FAB_DROP_HOP : Fld := ⟨517, .fab, 32, true, 16, 16, .ro, 0, 244, .any, 1, 0, 1, 0, .none⟩
/-- 16_woreg_fabric.md, R479: Discards under R461, saturating at 65,535 -/
def FAB_DROP_DWELL : Fld := ⟨518, .fab, 32, true, 32, 16, .ro, 0, 244, .any, 1, 0, 1, 0, .none⟩
/-- 16_woreg_fabric.md, R479: Discards under R452, saturating at 32,767 -/
def FAB_DROP_BAD_TYPE : Fld := ⟨519, .fab, 32, true, 48, 15, .ro, 0, 244, .any, 1, 0, 1, 0, .none⟩
/-- 16_woreg_fabric.md, R479: Writing 1 sets all four counts to 0 -/
def FAB_DROP_CLR : Fld := ⟨520, .fab, 32, true, 63, 1, .wo, 0, 0, .any, 1, 0, 1, 0, .none⟩
/-- 16_woreg_fabric.md, R479: 1: port in use (R448) -/
def FAB_PORT_EN : Fld := ⟨521, .fab, 256, false, 0, 1, .rw, 1, 252, .any, 8, 32, 1, 0, .none⟩
/-- 16_woreg_fabric.md, R479: 0: off; 1: 1 lane; 2: 2 lanes; clamped under R447. Code 3 reads back as 1. -/
def FAB_PORT_WIDTH : Fld := ⟨522, .fab, 256, false, 1, 2, .rwl, 1, 252, .special, 8, 32, 1, 0, .none⟩
/-- 16_woreg_fabric.md, R479: 0: OFF; 1: DOWN; 2: INIT; 3: UP -/
def FAB_PORT_STATE : Fld := ⟨523, .fab, 260, false, 0, 3, .ro, 0, 0, .any, 8, 32, 1, 0, .none⟩
/-- 16_woreg_fabric.md, R479: Partner's port -/
def FAB_PORT_PEER_PORT : Fld := ⟨524, .fab, 260, false, 3, 3, .ro, 0, 0, .any, 8, 32, 1, 0, .none⟩
/-- 16_woreg_fabric.md, R479: Partner's Mortise: 0 A, 1 B -/
def FAB_PORT_PEER_DIE : Fld := ⟨525, .fab, 260, false, 6, 1, .ro, 0, 0, .any, 8, 32, 1, 0, .none⟩
/-- 16_woreg_fabric.md, R479: Partner announces STANDBY (R450) -/
def FAB_PORT_PEER_STANDBY : Fld := ⟨526, .fab, 260, false, 7, 1, .ro, 0, 0, .any, 8, 32, 1, 0, .none⟩
/-- 16_woreg_fabric.md, R479: Partner's ID; 0xFFFF without LINK_INIT -/
def FAB_PORT_PEER_NODE : Fld := ⟨527, .fab, 260, false, 16, 16, .ro, 65535, 0, .any, 8, 32, 1, 0, .none⟩
/-- 16_woreg_fabric.md, R479: The port went DOWN -/
def FAB_PORT_DOWN : Fld := ⟨528, .fab, 264, false, 8, 1, .w1c, 0, 252, .any, 8, 32, 1, 0, .none⟩
/-- 16_woreg_fabric.md, R479: Under R454 -/
def FAB_PORT_REPLAY_FAIL : Fld := ⟨529, .fab, 264, false, 9, 1, .w1c, 0, 252, .any, 8, 32, 1, 0, .none⟩
/-- 16_woreg_fabric.md, R479: Under R448 -/
def FAB_PORT_WIDTH_MISMATCH : Fld := ⟨530, .fab, 264, false, 10, 1, .w1c, 0, 252, .any, 8, 32, 1, 0, .none⟩
/-- 16_woreg_fabric.md, R479: Under R460 -/
def FAB_PORT_REROUTE : Fld := ⟨531, .fab, 264, false, 11, 1, .w1c, 0, 252, .any, 8, 32, 1, 0, .none⟩
/-- 16_woreg_fabric.md, R479: Bit n enables event raising by bit n + 8 at +0x8 -/
def FAB_PORT_EV_MASK : Fld := ⟨532, .fab, 268, false, 8, 4, .rw, 11, 252, .any, 8, 32, 1, 0, .none⟩
/-- 16_woreg_fabric.md, R479: Replays, saturating at 65,535 -/
def FAB_PORT_REPLAYS : Fld := ⟨533, .fab, 272, true, 0, 16, .ro, 0, 244, .any, 8, 32, 1, 0, .none⟩
/-- 16_woreg_fabric.md, R479: Frames discarded under R460, saturating at 65,535 -/
def FAB_PORT_DISCARDS : Fld := ⟨534, .fab, 272, true, 16, 16, .ro, 0, 244, .any, 8, 32, 1, 0, .none⟩
/-- 16_woreg_fabric.md, R479: Frames received with a CRC error, saturating at 65,535 -/
def FAB_PORT_CRC_ERRS : Fld := ⟨535, .fab, 272, true, 32, 16, .ro, 0, 244, .any, 8, 32, 1, 0, .none⟩
/-- 16_woreg_fabric.md, R479: Writing 1 sets the three counts to 0 -/
def FAB_PORT_CLR : Fld := ⟨536, .fab, 272, true, 63, 1, .wo, 0, 0, .any, 8, 32, 1, 0, .none⟩
/-- 16_woreg_fabric.md, R479: From 1 to 65,534, or 0xFFFF for none (R468). 0 reads back as 0xFFFF (R445). -/
def FAB_FWD_DEST_NODE : Fld := ⟨537, .fab, 2048, false, 0, 16, .rw, 65535, 252, .special, 64, 16, 1, 0, .none⟩
/-- 16_woreg_fabric.md, R479: From 0 to 63; every encoding is legal -/
def FAB_FWD_DEST_SLOT : Fld := ⟨538, .fab, 2048, false, 16, 6, .rw, 0, 252, .any, 64, 16, 1, 0, .none⟩
/-- 16_woreg_fabric.md, R479: 1: forwarder runs (R468) -/
def FAB_FWD_EN : Fld := ⟨539, .fab, 2048, false, 31, 1, .rw, 0, 252, .any, 64, 16, 1, 0, .none⟩
/-- 16_woreg_fabric.md, R479: FSEQ of the next new record -/
def FAB_FWD_NEXT_FSEQ : Fld := ⟨540, .fab, 2052, false, 0, 14, .ro, 0, 254, .any, 64, 16, 1, 0, .none⟩
/-- 16_woreg_fabric.md, R479: Records awaiting FWD_ACK, from 0 to 16 -/
def FAB_FWD_UNACKED : Fld := ⟨541, .fab, 2052, false, 16, 5, .ro, 0, 0, .any, 64, 16, 1, 0, .none⟩
/-- 16_woreg_fabric.md, R479: Records sent again, saturating at 65,535 -/
def FAB_FWD_RESENDS : Fld := ⟨542, .fab, 2056, false, 0, 16, .ro, 0, 244, .any, 64, 16, 1, 0, .none⟩
/-- 16_woreg_fabric.md, R479: From 1 to 65,534, or 0xFFFF for none (R469). 0 reads back as 0xFFFF (R445). -/
def FAB_FIN_SRC_NODE : Fld := ⟨543, .fab, 3072, false, 0, 16, .rw, 65535, 252, .special, 64, 16, 1, 0, .none⟩
/-- 16_woreg_fabric.md, R479: From 0 to 63; every encoding is legal -/
def FAB_FIN_SRC_FWD : Fld := ⟨544, .fab, 3072, false, 16, 6, .rw, 0, 252, .any, 64, 16, 1, 0, .none⟩
/-- 16_woreg_fabric.md, R479: 1: slot accepts records (R469) -/
def FAB_FIN_EN : Fld := ⟨545, .fab, 3072, false, 31, 1, .rw, 0, 252, .any, 64, 16, 1, 0, .none⟩
/-- 16_woreg_fabric.md, R479: From 0 to 4,095; every encoding is legal -/
def FAB_FIN_QUEUE : Fld := ⟨546, .fab, 3076, false, 0, 12, .rw, 0, 252, .any, 64, 16, 1, 0, .none⟩
/-- 16_woreg_fabric.md, R479: FSEQ expected. Writes while EN is 1 are discarded; every encoding is legal. -/
def FAB_FIN_EXPECT : Fld := ⟨547, .fab, 3080, false, 0, 14, .rw, 0, 254, .any, 64, 16, 1, 0, .none⟩
/-- 16_woreg_fabric.md, R479: Records discarded other than as duplicates, saturating at 65,535 -/
def FAB_FIN_REJECTS : Fld := ⟨548, .fab, 3084, false, 0, 16, .ro, 0, 244, .any, 64, 16, 1, 0, .none⟩

/-- Fields of block fab, part 0. -/
def fabTable0 : List Fld := [
  FAB_NODE_ID, FAB_CFG_DWELL_MAX, FAB_ASSIGN_NEW_ID, FAB_ASSIGN_ARM, FAB_FA_NONCE_NONCE, FAB_STATUS_FA_DONE,
  FAB_STATUS_FA_DENIED, FAB_STATUS_ASSIGNED, FAB_STATUS_DROP, FAB_EVENT_EN_EV_MASK, FAB_DROP_NO_ROUTE, FAB_DROP_HOP,
  FAB_DROP_DWELL, FAB_DROP_BAD_TYPE, FAB_DROP_CLR, FAB_PORT_EN, FAB_PORT_WIDTH, FAB_PORT_STATE,
  FAB_PORT_PEER_PORT, FAB_PORT_PEER_DIE, FAB_PORT_PEER_STANDBY, FAB_PORT_PEER_NODE, FAB_PORT_DOWN, FAB_PORT_REPLAY_FAIL,
  FAB_PORT_WIDTH_MISMATCH, FAB_PORT_REROUTE, FAB_PORT_EV_MASK, FAB_PORT_REPLAYS, FAB_PORT_DISCARDS, FAB_PORT_CRC_ERRS,
  FAB_PORT_CLR, FAB_FWD_DEST_NODE, FAB_FWD_DEST_SLOT, FAB_FWD_EN, FAB_FWD_NEXT_FSEQ, FAB_FWD_UNACKED,
  FAB_FWD_RESENDS, FAB_FIN_SRC_NODE, FAB_FIN_SRC_FWD, FAB_FIN_EN]

/-- Fields of block fab, part 1. -/
def fabTable1 : List Fld := [
  FAB_FIN_QUEUE, FAB_FIN_EXPECT, FAB_FIN_REJECTS]

/-- Every field of block fab. -/
def fabTable : List Fld := fabTable0 ++ fabTable1

/-- 17_duplex.md, R506: Writing 1 on the active starts a planned switch-over (R499) -/
def DX_CTRL_SWITCH : Fld := ⟨556, .duplex, 0, false, 0, 1, .wo, 0, 0, .any, 1, 0, 1, 0, .none⟩
/-- 17_duplex.md, R506: Writing 1 on the standby forces a takeover (R495) -/
def DX_CTRL_FORCE_TAKE : Fld := ⟨557, .duplex, 0, false, 1, 1, .wo, 0, 0, .any, 1, 0, 1, 0, .none⟩
/-- 17_duplex.md, R506: 1: a supply monitor of the die out of range declares a fault -/
def DX_CTRL_F_SUPPLY : Fld := ⟨558, .duplex, 0, false, 8, 1, .rw, 1, 220, .any, 1, 0, 1, 0, .none⟩
/-- 17_duplex.md, R506: 1: Tj above 150 °C declares a fault -/
def DX_CTRL_F_TEMP : Fld := ⟨559, .duplex, 0, false, 9, 1, .rw, 1, 220, .any, 1, 0, 1, 0, .none⟩
/-- 17_duplex.md, R506: 1: an uncorrectable word in link memory or route table declares a fault -/
def DX_CTRL_F_MEM : Fld := ⟨560, .duplex, 0, false, 10, 1, .rw, 1, 220, .any, 1, 0, 1, 0, .none⟩
/-- 17_duplex.md, R506: 1: the active's PCIe link down, while the standby's is up, declares a fault -/
def DX_CTRL_F_LINK : Fld := ⟨561, .duplex, 0, false, 11, 1, .rw, 0, 220, .any, 1, 0, 1, 0, .none⟩
/-- 17_duplex.md, R506: 0: Mortise A; 1: Mortise B -/
def DX_STATUS_DIE : Fld := ⟨562, .duplex, 4, false, 0, 1, .ro, 0, 0, .any, 1, 0, 1, 0, .none⟩
/-- 17_duplex.md, R506: This die holds PEG -/
def DX_STATUS_PEG : Fld := ⟨563, .duplex, 4, false, 1, 1, .ro, 0, 0, .any, 1, 0, 1, 0, .none⟩
/-- 17_duplex.md, R506: Per the readiness table -/
def DX_STATUS_SB_STATE : Fld := ⟨564, .duplex, 4, false, 2, 2, .ro, 0, 0, .any, 1, 0, 1, 0, .none⟩
/-- 17_duplex.md, R506: Last switch-over cause (R495) -/
def DX_STATUS_CAUSE : Fld := ⟨565, .duplex, 4, false, 4, 4, .ro, 0, 220, .any, 1, 0, 1, 0, .none⟩
/-- 17_duplex.md, R506: Bit t: the standby's port to Tenon t is up -/
def DX_STATUS_READY_MASK : Fld := ⟨566, .duplex, 4, false, 8, 6, .ro, 0, 0, .any, 1, 0, 1, 0, .none⟩
/-- 17_duplex.md, R506: A switch-over took place -/
def DX_STATUS_SWITCHED : Fld := ⟨567, .duplex, 4, false, 16, 1, .w1c, 0, 220, .any, 1, 0, 1, 0, .none⟩
/-- 17_duplex.md, R506: SB_STATE left READY -/
def DX_STATUS_NOT_READY : Fld := ⟨568, .duplex, 4, false, 17, 1, .w1c, 0, 220, .any, 1, 0, 1, 0, .none⟩
/-- 17_duplex.md, R506: SB_STATE became LAGGING -/
def DX_STATUS_LAGGING : Fld := ⟨569, .duplex, 4, false, 18, 1, .w1c, 0, 220, .any, 1, 0, 1, 0, .none⟩
/-- 17_duplex.md, R506: The active declared itself faulty -/
def DX_STATUS_FAULT : Fld := ⟨570, .duplex, 4, false, 19, 1, .w1c, 0, 220, .any, 1, 0, 1, 0, .none⟩
/-- 17_duplex.md, R506: Bit n enables event raising by DX_STATUS bit n + 16 -/
def DX_EVENT_EN_EV_MASK : Fld := ⟨571, .duplex, 8, false, 16, 4, .rw, 15, 220, .any, 1, 0, 1, 0, .none⟩
/-- 17_duplex.md, R506: Switch-overs, saturating at 65,535; kept in retention memory -/
def DX_COUNT_SWITCHES : Fld := ⟨572, .duplex, 16, false, 0, 16, .ro, 0, 222, .any, 1, 0, 1, 0, .none⟩
/-- 17_duplex.md, R506: Switch-overs of causes 1, 2 and 5, saturating at 32,767 -/
def DX_COUNT_UNPLANNED : Fld := ⟨573, .duplex, 16, false, 16, 15, .ro, 0, 222, .any, 1, 0, 1, 0, .none⟩
/-- 17_duplex.md, R506: Writing 1 sets both counts to 0 -/
def DX_COUNT_CLR : Fld := ⟨574, .duplex, 16, false, 31, 1, .wo, 0, 0, .any, 1, 0, 1, 0, .none⟩
/-- 17_duplex.md, R506: Bits [63:0] of the Plumb time of the last PEG grant -/
def DX_LAST_TIME_LO : Fld := ⟨575, .duplex, 24, true, 0, 64, .ro, 0, 220, .any, 1, 0, 1, 0, .none⟩
/-- 17_duplex.md, R506: Bits [79:64] of the same time -/
def DX_LAST_TIME_HI : Fld := ⟨576, .duplex, 32, true, 0, 16, .ro, 0, 220, .any, 1, 0, 1, 0, .none⟩
/-- 17_duplex.md, R506: Gap of R498, units of 10 ns -/
def DX_LAST_GAP : Fld := ⟨577, .duplex, 32, true, 32, 16, .ro, 0, 220, .any, 1, 0, 1, 0, .none⟩
/-- 17_duplex.md, R506: Bytes of the last cycle, divided by 8 -/
def DX_SCARF_USED : Fld := ⟨578, .duplex, 40, false, 0, 16, .ro, 0, 0, .any, 1, 0, 1, 0, .none⟩
/-- 17_duplex.md, R506: Longest wait of an action under R485, units of 10 ns, saturating -/
def DX_SCARF_HOLD_MAX : Fld := ⟨579, .duplex, 40, false, 16, 15, .ro, 0, 220, .any, 1, 0, 1, 0, .none⟩
/-- 17_duplex.md, R506: Writing 1 sets HOLD_MAX to 0 -/
def DX_SCARF_CLR : Fld := ⟨580, .duplex, 40, false, 31, 1, .wo, 0, 0, .any, 1, 0, 1, 0, .none⟩

/-- Fields of block duplex. -/
def duplexTable : List Fld := [
  DX_CTRL_SWITCH, DX_CTRL_FORCE_TAKE, DX_CTRL_F_SUPPLY, DX_CTRL_F_TEMP, DX_CTRL_F_MEM, DX_CTRL_F_LINK,
  DX_STATUS_DIE, DX_STATUS_PEG, DX_STATUS_SB_STATE, DX_STATUS_CAUSE, DX_STATUS_READY_MASK, DX_STATUS_SWITCHED,
  DX_STATUS_NOT_READY, DX_STATUS_LAGGING, DX_STATUS_FAULT, DX_EVENT_EN_EV_MASK, DX_COUNT_SWITCHES, DX_COUNT_UNPLANNED,
  DX_COUNT_CLR, DX_LAST_TIME_LO, DX_LAST_TIME_HI, DX_LAST_GAP, DX_SCARF_USED, DX_SCARF_HOLD_MAX,
  DX_SCARF_CLR]

/-- 18_modes_power_reset.md, R532: 2: SETUP; 3: RUN; 5: DORMANT; 6: SERVICE; 7: SAFE (R508). Codes 0, 1 and 4 are undefined and take the ... -/
def MODE_CTRL_REQ : Fld := ⟨581, .modes, 0, false, 0, 3, .wo, 0, 0, .any, 1, 0, 1, 0, .none⟩
/-- 18_modes_power_reset.md, R532: Device mode -/
def MODE_STATUS_MODE : Fld := ⟨582, .modes, 4, false, 0, 3, .ro, 1, 0, .any, 1, 0, 1, 0, .none⟩
/-- 18_modes_power_reset.md, R532: Mode held before the last DORMANT -/
def MODE_STATUS_PREV : Fld := ⟨583, .modes, 4, false, 4, 3, .ro, 0, 252, .any, 1, 0, 1, 0, .none⟩
/-- 18_modes_power_reset.md, R532: 0: none; 1: request; 2: Tenon temperature; 3: Mortise temperature -/
def MODE_STATUS_SAFE_CAUSE : Fld := ⟨584, .modes, 4, false, 8, 2, .ro, 0, 252, .any, 1, 0, 1, 0, .none⟩
/-- 18_modes_power_reset.md, R532: A request or PART_CMD was refused -/
def MODE_STATUS_REFUSED : Fld := ⟨585, .modes, 4, false, 16, 1, .w1c, 0, 252, .any, 1, 0, 1, 0, .none⟩
/-- 18_modes_power_reset.md, R532: SAFE was entered -/
def MODE_STATUS_SAFE : Fld := ⟨586, .modes, 4, false, 17, 1, .w1c, 0, 252, .any, 1, 0, 1, 0, .none⟩
/-- 18_modes_power_reset.md, R532: The node left DORMANT; set after the DX of the wake has been applied -/
def MODE_STATUS_WOKE : Fld := ⟨587, .modes, 4, false, 18, 1, .w1c, 0, 252, .any, 1, 0, 1, 0, .none⟩
/-- 18_modes_power_reset.md, R532: DEGRADED was entered -/
def MODE_STATUS_DEGRADED : Fld := ⟨588, .modes, 4, false, 19, 1, .w1c, 0, 252, .any, 1, 0, 1, 0, .none⟩
/-- 18_modes_power_reset.md, R532: Bit n enables event raising by MODE_STATUS bit n + 16 -/
def MODE_EVENT_EN_EV_MASK : Fld := ⟨589, .modes, 8, false, 16, 4, .rw, 14, 252, .any, 1, 0, 1, 0, .none⟩
/-- 18_modes_power_reset.md, R532: Lowest-numbered BOOT step of R520 that is not yet complete; 7 when BOOT is complete -/
def BOOT_STATUS_STEP : Fld := ⟨590, .modes, 16, false, 0, 3, .ro, 0, 0, .any, 1, 0, 1, 0, .none⟩
/-- 18_modes_power_reset.md, R532: REFCLK_P/N absent -/
def BOOT_STATUS_NO_REFCLK : Fld := ⟨591, .modes, 16, false, 3, 1, .ro, 0, 0, .any, 1, 0, 1, 0, .none⟩
/-- 18_modes_power_reset.md, R532: Mortise self-test failed -/
def BOOT_STATUS_SELFTEST_FAIL : Fld := ⟨592, .modes, 16, false, 4, 1, .ro, 0, 0, .any, 1, 0, 1, 0, .none⟩
/-- 18_modes_power_reset.md, R532: A bundle named in OTP failed verification -/
def BOOT_STATUS_BUNDLE_FAIL : Fld := ⟨593, .modes, 16, false, 5, 1, .ro, 0, 0, .any, 1, 0, 1, 0, .none⟩
/-- 18_modes_power_reset.md, R532: Bit t: Tenon t failed step 3 -/
def BOOT_STATUS_TENON_FAIL : Fld := ⟨594, .modes, 16, false, 8, 6, .ro, 0, 0, .any, 1, 0, 1, 0, .none⟩
/-- 18_modes_power_reset.md, R532: Last package reset: 0 PO; 1 PN -/
def RESET_CAUSE_PKG : Fld := ⟨595, .modes, 20, false, 0, 2, .ro, 0, 252, .any, 1, 0, 1, 0, .none⟩
/-- 18_modes_power_reset.md, R532: Bit t: Tenon t has had a DI since the last clear. A DI of Tenon t sets bit t and leaves the other bits ... -/
def RESET_CAUSE_TENON_DI : Fld := ⟨596, .modes, 20, false, 8, 6, .w1c, 0, 252, .any, 1, 0, 1, 0, .none⟩
/-- 18_modes_power_reset.md, R532: 0: bent; 1: Tenon; 2: Zillo core; 3: lane; 4: standby Mortise. Codes 5 to 7 are undefined. -/
def PART_SEL_KIND : Fld := ⟨597, .modes, 32, false, 0, 3, .rw, 0, 252, .enum [0, 1, 2, 3, 4], 1, 0, 1, 0, .none⟩
/-- 18_modes_power_reset.md, R532: Bent 16t + b, from 0 to 95; Tenon, from 0 to 5; core, from 0 to 3; lane, from 0 to 7; 0 for the standby. ... -/
def PART_SEL_INDEX : Fld := ⟨598, .modes, 32, false, 16, 7, .rw, 0, 252, .special, 1, 0, 1, 0, .none⟩
/-- 18_modes_power_reset.md, R532: 1: ISOLATE; 2: RELEASE; 3: RESET, which is BE for a bent, DI for a Tenon or the standby, a halt and ... -/
def PART_CMD_CMD : Fld := ⟨599, .modes, 36, false, 0, 2, .wo, 0, 0, .any, 1, 0, 1, 0, .none⟩
/-- 18_modes_power_reset.md, R532: Part state of the selected part (R515) -/
def PART_STATE_STATE : Fld := ⟨600, .modes, 40, false, 0, 2, .ro, 0, 0, .any, 1, 0, 1, 0, .none⟩
/-- 18_modes_power_reset.md, R532: For ISOLATED: 0 host; 1 fault; 2 supply -/
def PART_STATE_CAUSE : Fld := ⟨601, .modes, 40, false, 2, 2, .ro, 0, 0, .any, 1, 0, 1, 0, .none⟩
/-- 18_modes_power_reset.md, R532: 1: bents in scanner use are duty-cycled (R523) -/
def DORM_CFG_DUTY : Fld := ⟨602, .modes, 48, false, 0, 1, .rw, 1, 252, .any, 1, 0, 1, 0, .none⟩
/-- 18_modes_power_reset.md, R532: 1: segment memory stays powered -/
def DORM_CFG_SEG_KEEP : Fld := ⟨603, .modes, 48, false, 1, 1, .rw, 0, 252, .any, 1, 0, 1, 0, .none⟩
/-- 18_modes_power_reset.md, R532: 1: triggers wake the node -/
def DORM_CFG_TRIG_WAKE : Fld := ⟨604, .modes, 48, false, 2, 1, .rw, 1, 252, .any, 1, 0, 1, 0, .none⟩
/-- 18_modes_power_reset.md, R532: 1: lane signal wakes the node -/
def DORM_CFG_FAB_WAKE : Fld := ⟨605, .modes, 48, false, 3, 1, .rw, 1, 252, .any, 1, 0, 1, 0, .none⟩
/-- 18_modes_power_reset.md, R532: 1: PCIe requests wake the node -/
def DORM_CFG_HOST_WAKE : Fld := ⟨606, .modes, 48, false, 4, 1, .rw, 1, 252, .any, 1, 0, 1, 0, .none⟩
/-- 18_modes_power_reset.md, R532: ms. From 1 to 255. 0 reads back as 1. -/
def DORM_CFG_DUTY_LEAD : Fld := ⟨607, .modes, 48, false, 8, 8, .rw, 5, 252, .range 1 255, 1, 0, 1, 0, .none⟩
/-- 18_modes_power_reset.md, R532: ms. From 0 to 65,535; every encoding is legal. -/
def DORM_CFG_DRAIN : Fld := ⟨608, .modes, 48, false, 16, 16, .rw, 100, 252, .any, 1, 0, 1, 0, .none⟩
/-- 18_modes_power_reset.md, R532: Bit 16t + b, counted from w0 bit 0: bent b of Tenon t stays on in DORMANT. Bits of absent Tenons read 0. -/
def DORM_KEEP_KEEP : Fld := ⟨609, .modes, 52, false, 0, 32, .rw, 0, 252, .any, 3, 4, 1, 0, .none⟩
/-- 18_modes_power_reset.md, R532: TAI second of the timer wake; every encoding is legal -/
def DORM_WAKE_WAKE_SEC : Fld := ⟨610, .modes, 64, true, 0, 40, .rw, 0, 252, .any, 1, 0, 1, 0, .none⟩
/-- 18_modes_power_reset.md, R532: 1: timer wake enabled -/
def DORM_WAKE_WAKE_EN : Fld := ⟨611, .modes, 64, true, 63, 1, .rw, 0, 252, .any, 1, 0, 1, 0, .none⟩
/-- 18_modes_power_reset.md, R532: One bit for each Mortise domain, 1 while it is on: [0] always-on; [4:1] Zillo cores 0 to 3; [8:5] ... -/
def PWR_STATUS_MORTISE_ON : Fld := ⟨612, .modes, 72, false, 0, 14, .ro, 12257, 0, .any, 1, 0, 1, 0, .none⟩
/-- 18_modes_power_reset.md, R532: Bit t: R532 applies to Tenon t -/
def PWR_STATUS_VEX_LOW : Fld := ⟨613, .modes, 72, false, 16, 6, .ro, 0, 0, .any, 1, 0, 1, 0, .none⟩
/-- 18_modes_power_reset.md, R532: Bit t: a Tenon t supply is out of range -/
def PWR_STATUS_SUPPLY_LOW : Fld := ⟨614, .modes, 72, false, 24, 6, .ro, 0, 0, .any, 1, 0, 1, 0, .none⟩
/-- 18_modes_power_reset.md, R532: 1: PCIe domain off. Reads 0 on a node whose HR_GW names its own endpoint. -/
def PWR_CTRL_PCIE_OFF : Fld := ⟨615, .modes, 80, false, 0, 1, .rwl, 0, 252, .any, 1, 0, 1, 0, .none⟩

/-- Fields of block modes. -/
def modesTable : List Fld := [
  MODE_CTRL_REQ, MODE_STATUS_MODE, MODE_STATUS_PREV, MODE_STATUS_SAFE_CAUSE, MODE_STATUS_REFUSED, MODE_STATUS_SAFE,
  MODE_STATUS_WOKE, MODE_STATUS_DEGRADED, MODE_EVENT_EN_EV_MASK, BOOT_STATUS_STEP, BOOT_STATUS_NO_REFCLK, BOOT_STATUS_SELFTEST_FAIL,
  BOOT_STATUS_BUNDLE_FAIL, BOOT_STATUS_TENON_FAIL, RESET_CAUSE_PKG, RESET_CAUSE_TENON_DI, PART_SEL_KIND, PART_SEL_INDEX,
  PART_CMD_CMD, PART_STATE_STATE, PART_STATE_CAUSE, DORM_CFG_DUTY, DORM_CFG_SEG_KEEP, DORM_CFG_TRIG_WAKE,
  DORM_CFG_FAB_WAKE, DORM_CFG_HOST_WAKE, DORM_CFG_DUTY_LEAD, DORM_CFG_DRAIN, DORM_KEEP_KEEP, DORM_WAKE_WAKE_SEC,
  DORM_WAKE_WAKE_EN, PWR_STATUS_MORTISE_ON, PWR_STATUS_VEX_LOW, PWR_STATUS_SUPPLY_LOW, PWR_CTRL_PCIE_OFF]

/-- 19_security.md, R551: Under R535 -/
def SEC_ID_ID_TAG : Fld := ⟨616, .sec, 0, true, 0, 64, .ro, 0, 255, .any, 1, 0, 1, 0, .none⟩
/-- 19_security.md, R551: 2 bits per slot: 0 BLANK, 1 LIVE, 2 ERASED -/
def SEC_OTP_ID_SLOTS : Fld := ⟨617, .sec, 8, false, 0, 8, .ro, 0, 255, .any, 1, 0, 1, 0, .none⟩
/-- 19_security.md, R551: 2 bits per slot: 0 BLANK, 1 LIVE, 2 REVOKED -/
def SEC_OTP_OWNERS : Fld := ⟨618, .sec, 8, false, 8, 4, .ro, 0, 255, .any, 1, 0, 1, 0, .none⟩
/-- 19_security.md, R551: Rollback counter -/
def SEC_OTP_SVN : Fld := ⟨619, .sec, 8, false, 16, 7, .ro, 0, 255, .any, 1, 0, 1, 0, .none⟩
/-- 19_security.md, R551: Debug-opening counter -/
def SEC_OTP_DEBUG_OPENS : Fld := ⟨620, .sec, 8, false, 24, 5, .ro, 0, 255, .any, 1, 0, 1, 0, .none⟩
/-- 19_security.md, R551: Drawn at PO, PN and each judgement (R544) -/
def SEC_NONCE_NONCE : Fld := ⟨621, .sec, 16, true, 0, 64, .ro, 0, 252, .any, 1, 0, 1, 0, .none⟩
/-- 19_security.md, R551: Debug open (R550) -/
def SEC_STATUS_DEBUG : Fld := ⟨622, .sec, 24, false, 0, 1, .ro, 0, 252, .any, 1, 0, 1, 0, .none⟩
/-- 19_security.md, R551: Identity in use; 7 for none -/
def SEC_STATUS_SLOT : Fld := ⟨623, .sec, 24, false, 1, 3, .ro, 0, 255, .any, 1, 0, 1, 0, .none⟩
/-- 19_security.md, R551: An operation was refused -/
def SEC_STATUS_DENIED : Fld := ⟨624, .sec, 24, false, 8, 1, .w1c, 0, 252, .any, 1, 0, 1, 0, .none⟩
/-- 19_security.md, R551: Debug opened -/
def SEC_STATUS_OPENED : Fld := ⟨625, .sec, 24, false, 9, 1, .w1c, 0, 252, .any, 1, 0, 1, 0, .none⟩
/-- 19_security.md, R551: A slot became LIVE or REVOKED -/
def SEC_STATUS_ENROLLED : Fld := ⟨626, .sec, 24, false, 10, 1, .w1c, 0, 252, .any, 1, 0, 1, 0, .none⟩
/-- 19_security.md, R551: A bundle failed R539 -/
def SEC_STATUS_BAD_BUNDLE : Fld := ⟨627, .sec, 24, false, 11, 1, .w1c, 0, 252, .any, 1, 0, 1, 0, .none⟩
/-- 19_security.md, R551: Bit n enables event raising by SEC_STATUS bit n + 8 -/
def SEC_EVENT_EN_EV_MASK : Fld := ⟨628, .sec, 28, false, 8, 4, .rw, 15, 252, .any, 1, 0, 1, 0, .none⟩
/-- 19_security.md, R551: Bundles loaded, at boot or by ZILLO_LOAD; retention memory; saturating -/
def SEC_CNT_LOADS : Fld := ⟨629, .sec, 32, true, 0, 32, .ro, 0, 254, .any, 1, 0, 1, 0, .none⟩
/-- 19_security.md, R551: Refusals under R546; retention memory; saturating at 65,535 -/
def SEC_CNT_AUTH_FAILS : Fld := ⟨630, .sec, 32, true, 32, 16, .ro, 0, 254, .any, 1, 0, 1, 0, .none⟩
/-- 19_security.md, R551: Code of the last failed verification (R539) -/
def SEC_CNT_LAST_CODE : Fld := ⟨631, .sec, 32, true, 48, 4, .ro, 0, 252, .any, 1, 0, 1, 0, .none⟩
/-- 19_security.md, R551: Entry written -/
def SEC_BOOT_VALID : Fld := ⟨632, .sec, 64, true, 0, 1, .ro, 0, 255, .any, 16, 8, 1, 0, .none⟩
/-- 19_security.md, R551: Core loaded -/
def SEC_BOOT_CORE : Fld := ⟨633, .sec, 64, true, 1, 2, .ro, 0, 255, .any, 16, 8, 1, 0, .none⟩
/-- 19_security.md, R551: Under R541 -/
def SEC_BOOT_AUTORUN : Fld := ⟨634, .sec, 64, true, 3, 1, .ro, 0, 255, .any, 16, 8, 1, 0, .none⟩
/-- 19_security.md, R551: SVN of the bundle -/
def SEC_BOOT_SVN : Fld := ⟨635, .sec, 64, true, 4, 7, .ro, 0, 255, .any, 16, 8, 1, 0, .none⟩
/-- 19_security.md, R551: Offset in the store, units of 8 bytes -/
def SEC_BOOT_OFFSET : Fld := ⟨636, .sec, 64, true, 12, 20, .ro, 0, 255, .any, 16, 8, 1, 0, .none⟩
/-- 19_security.md, R551: Bytes 0 to 3 of the entry's digest -/
def SEC_BOOT_DIGEST_LO : Fld := ⟨637, .sec, 64, true, 32, 32, .ro, 0, 255, .any, 16, 8, 1, 0, .none⟩

/-- Fields of block sec. -/
def secTable : List Fld := [
  SEC_ID_ID_TAG, SEC_OTP_ID_SLOTS, SEC_OTP_OWNERS, SEC_OTP_SVN, SEC_OTP_DEBUG_OPENS, SEC_NONCE_NONCE,
  SEC_STATUS_DEBUG, SEC_STATUS_SLOT, SEC_STATUS_DENIED, SEC_STATUS_OPENED, SEC_STATUS_ENROLLED, SEC_STATUS_BAD_BUNDLE,
  SEC_EVENT_EN_EV_MASK, SEC_CNT_LOADS, SEC_CNT_AUTH_FAILS, SEC_CNT_LAST_CODE, SEC_BOOT_VALID, SEC_BOOT_CORE,
  SEC_BOOT_AUTORUN, SEC_BOOT_SVN, SEC_BOOT_OFFSET, SEC_BOOT_DIGEST_LO]

/-- 20_faults_and_availability.md, R561: 1: health records written -/
def HEALTH_CFG_EN : Fld := ⟨638, .ident, 256, false, 0, 1, .rw, 1, 252, .any, 1, 0, 1, 0, .none⟩
/-- 20_faults_and_availability.md, R561: Seconds. From 1 to 86,400. 0 reads back as 1; values above 86,400 read back as 86,400. -/
def HEALTH_CFG_PERIOD : Fld := ⟨639, .ident, 256, false, 8, 17, .rw, 60, 252, .range 1 86400, 1, 0, 1, 0, .none⟩
/-- 22_address_map.md, R580: 0xB702 VT2; 0xB704 VT4; 0xB708 VT8; equal to the IDCODE part field -/
def ID_DEV_PART : Fld := ⟨640, .ident, 0, false, 0, 16, .ro, 0, 255, .any, 1, 0, 1, 0, .none⟩
/-- 22_address_map.md, R580: Silicon revision, from 1 -/
def ID_DEV_REV : Fld := ⟨641, .ident, 0, false, 16, 4, .ro, 0, 255, .any, 1, 0, 1, 0, .none⟩
/-- 22_address_map.md, R580: Version of this map -/
def ID_DEV_MAP_VER : Fld := ⟨642, .ident, 0, false, 20, 4, .ro, 1, 0, .any, 1, 0, 1, 0, .none⟩
/-- 22_address_map.md, R580: Bit t: Tenon t is present -/
def ID_DIES_TENONS : Fld := ⟨643, .ident, 4, false, 0, 6, .ro, 0, 255, .any, 1, 0, 1, 0, .none⟩
/-- 22_address_map.md, R580: Bit 6 Mortise A; bit 7 Mortise B -/
def ID_DIES_MORTISES : Fld := ⟨644, .ident, 4, false, 6, 2, .ro, 0, 255, .any, 1, 0, 1, 0, .none⟩
/-- 22_address_map.md, R580: Die answering this endpoint: 0 A, 1 B -/
def ID_DIES_THIS_DIE : Fld := ⟨645, .ident, 4, false, 8, 1, .ro, 0, 0, .any, 1, 0, 1, 0, .none⟩
/-- 22_address_map.md, R580: That die holds the PEG line; 1 on VT2 and VT4 after BOOT -/
def ID_DIES_PEG : Fld := ⟨646, .ident, 4, false, 9, 1, .ro, 0, 0, .any, 1, 0, 1, 0, .none⟩
/-- 22_address_map.md, R580: A write was discarded under R581. Raises no event. -/
def ID_STATUS_BAD_ACCESS : Fld := ⟨647, .ident, 8, false, 8, 1, .w1c, 0, 252, .any, 1, 0, 1, 0, .none⟩

/-- Fields of block ident. -/
def identTable : List Fld := [
  HEALTH_CFG_EN, HEALTH_CFG_PERIOD, ID_DEV_PART, ID_DEV_REV, ID_DEV_MAP_VER, ID_DIES_TENONS,
  ID_DIES_MORTISES, ID_DIES_THIS_DIE, ID_DIES_PEG, ID_STATUS_BAD_ACCESS]

/-- The fields of a block (R579, R580). -/
def ofBlk : Blk → List Fld
  | .chan => chanTable
  | .bent => bentTable
  | .tdie => tdieTable
  | .cap => capTable
  | .capdie => capdieTable
  | .stamp => stampTable
  | .stats => statsTable
  | .loop => loopTable
  | .plumb => plumbTable
  | .queues => queuesTable
  | .seif => seifTable
  | .zillo => zilloTable
  | .rings => ringsTable
  | .evmap => evmapTable
  | .lane => laneTable
  | .fab => fabTable
  | .duplex => duplexTable
  | .modes => modesTable
  | .sec => secTable
  | .ident => identTable

/-- Every field of the W0 map, block by block. -/
def all : List Fld :=
  chanTable ++ bentTable ++ tdieTable ++ capTable ++ capdieTable ++ stampTable ++ statsTable ++ loopTable ++ plumbTable ++ queuesTable ++ seifTable ++ zilloTable ++ ringsTable ++ evmapTable ++ laneTable ++ fabTable ++ duplexTable ++ modesTable ++ secTable ++ identTable

end Sys2Proof.Machine.F
end

