-- ==== Sys2Proof/Machine/Ops.lean ====
section
/-! DEFINITION. The named operations over the state that every family uses: register fields, Plumb time, outputs,
streams and their records, the cell pool, events. -/

namespace Sys2Proof.Machine

open Sys2Proof

/-! ### Register fields -/

/-- The key of copy i of a field in the register map. -/
def fkey (f : Fld) (i : Nat) : Nat := f.id * 2 ^ 20 + i

/-- The value a reset gives copy i of a field: its Reset column, with queue 0 enabled and bound to a host ring, and
the factory values of retained constants (R529). -/
def resetOf (f : Fld) (i : Nat) : Nat :=
  if f.id = F.QCFG_EN.id ∨ f.id = F.QCFG_READER_KIND.id then (if i = 0 then 1 else 0)
  else if f.id = F.SCAN_GAIN_CAL.id ∨ f.id = F.SCAN_OFS_CAL.id ∨ f.id = F.EXC_GAIN_CAL.id
    ∨ f.id = F.EXC_OFS_CAL.id ∨ f.id = F.IMON_GAIN_CAL.id ∨ f.id = F.CH_GAIN_CAL.id ∨ f.id = F.CH_OFS_CAL.id
    ∨ f.id = F.ST_DLY_DISC_DLY.id then Config.factory f.id i % 2 ^ f.width
  else if f.id = F.FAB_FA_NONCE_NONCE.id ∨ f.id = F.SEC_NONCE_NONCE.id then Config.randomReset f.id i % 2 ^ f.width
  else f.reset

/-- The value of copy i of a field. -/
def State.rd (s : State) (f : Fld) (i : Nat) : Nat := smapGet (resetOf f i) s.regs (fkey f i)

/-- Copy i of a field set to the low bits of v. -/
def State.wr (s : State) (f : Fld) (i v : Nat) : State :=
  { s with regs := smapSet (resetOf f i) s.regs (fkey f i) (v % 2 ^ f.width) }

/-- A one-bit field as a Boolean. -/
def State.on (s : State) (f : Fld) (i : Nat) : Bool := s.rd f i == 1

/-- A field read as two's complement. -/
def State.rdS (s : State) (f : Fld) (i : Nat) : Int := toSigned f.width (s.rd f i)

/-- A counter field advanced by n, stopping at top. -/
def State.countUp (s : State) (f : Fld) (i n top : Nat) : State := s.wr f i (min top (s.rd f i + n))

/-- Copy i of a field back at its reset value. -/
def State.toReset (s : State) (f : Fld) (i : Nat) : State := s.wr f i (resetOf f i)

/-- The value a write of v leaves in copy i of a field: the nearest legal value (R7), or the reset value for an
undefined encoding (R8). -/
def legalValue (f : Fld) (i v : Nat) : Nat :=
  let v := v % 2 ^ f.width
  match f.legal with
  | .any => v
  | .special => v
  | .range lo hi => clampN lo hi v
  | .srange lo hi => ofSigned f.width (max lo (min hi (toSigned f.width v)))
  | .enum codes => if codes.contains v then v else resetOf f i

/-- A legal value written to copy i of a field. -/
def State.wrLegal (s : State) (f : Fld) (i v : Nat) : State := s.wr f i (legalValue f i v)

/-! ### Indices and parts -/

/-- Channel c of Tenon t among the channels of the node. -/
def chIx (t c : Nat) : Nat := t * 128 + c

/-- Bent b of Tenon t among the bents of the node. -/
def bentIx (t b : Nat) : Nat := t * 16 + b

/-- The Tenons of a part (01_package_architecture.md). -/
def Part.tenons : Part → Nat
  | .vt2 => 1
  | .vt4 => 3
  | .vt8 => 6

/-- Whether Tenon t is present (R2). -/
def State.present (s : State) (t : Nat) : Bool := t < s.part.tenons

def State.tenon (s : State) (t : Nat) : Tenon := smapGet {} s.tenons t
def State.setTenon (s : State) (t : Nat) (x : Tenon) : State := { s with tenons := smapSet {} s.tenons t x }
def State.chan (s : State) (i : Nat) : Chan := smapGet {} s.chans i
def State.setChan (s : State) (i : Nat) (x : Chan) : State := { s with chans := smapSet {} s.chans i x }
def State.chain (s : State) (i : Nat) : Chain := smapGet {} s.chains i
def State.setChain (s : State) (i : Nat) (x : Chain) : State := { s with chains := smapSet {} s.chains i x }
def State.cap (s : State) (i : Nat) : Cap := smapGet {} s.caps i
def State.setCap (s : State) (i : Nat) (x : Cap) : State := { s with caps := smapSet {} s.caps i x }
def State.stream (s : State) (i : Nat) : StreamSt := smapGet {} s.streams i
def State.setStream (s : State) (i : Nat) (x : StreamSt) : State := { s with streams := smapSet {} s.streams i x }
def State.queue (s : State) (q : Nat) : Queue := smapGet {} s.pool.queues q
def State.setQueue (s : State) (q : Nat) (x : Queue) : State :=
  { s with pool := { s.pool with queues := smapSet {} s.pool.queues q x } }
def State.prod (s : State) (p : Nat) : Prod := smapGet {} s.pool.prods p
def State.setProd (s : State) (p : Nat) (x : Prod) : State :=
  { s with pool := { s.pool with prods := smapSet {} s.pool.prods p x } }

/-- The numbers of the kinds of part that PART_SEL names. -/
def kBent : Nat := 0
def kTenon : Nat := 1
def kCore : Nat := 2
def kLane : Nat := 3
def kStandby : Nat := 4

/-- Why a part is ISOLATED: none, or PART_STATE.CAUSE (R515). -/
def State.isoCause (s : State) (kind i : Nat) : Option Nat :=
  match smapGet 0 s.iso (kind * 256 + i) with
  | 0 => none
  | c + 1 => some c

/-- A part put into ISOLATED with a cause, or returned to service. -/
def State.setIso (s : State) (kind i : Nat) (c : Option Nat) : State :=
  { s with iso := smapSet 0 s.iso (kind * 256 + i) (match c with | none => 0 | some c => c + 1) }

/-- Whether a part is ISOLATED. -/
def State.isolated (s : State) (kind i : Nat) : Bool := (s.isoCause kind i).isSome

/-- Device modes (R507). -/
def mBoot : Nat := 1
def mSetup : Nat := 2
def mRun : Nat := 3
def mDegraded : Nat := 4
def mDormant : Nat := 5
def mService : Nat := 6
def mSafe : Nat := 7

/-- The device mode. -/
def State.mode (s : State) : Nat := s.rd F.MODE_STATUS_MODE 0

/-- Whether data leave the channels: RUN, DEGRADED or SERVICE (R507, R510, R514). -/
def State.streaming (s : State) : Bool := s.mode == mRun || s.mode == mDegraded || s.mode == mService

/-- Whether Tenon t is in service: present, and not ISOLATED (R515). -/
def State.inService (s : State) (t : Nat) : Bool := s.present t && !s.isolated kTenon t

/-- Whether the acting Mortise's outputs are open: on VT8 only while it holds the PEG line (R25, R32, R482). -/
def State.pegOpen (s : State) : Bool := s.part != .vt8 || s.dx.held

/-- Whether commands reach Tenon t: it is in service, and a Mortise sends them (R25, R482, R516). -/
def State.reachable (s : State) (t : Nat) : Bool := s.inService t && s.pegOpen

/-- Whether Tenon t acquires: it is powered, its PLL is locked, its counter is loaded and its memories are filled
(R19, R20, R270, R327). -/
def State.acquiring (s : State) (t : Nat) : Bool :=
  s.present t && !s.poAsserted && (s.tenon t).locked && (s.tenon t).loaded && (s.tenon t).filled

/-- Whether the domain of bent b of Tenon t is on (R515, R516, R519, R522). -/
def State.bentOn (s : State) (t b : Nat) : Bool :=
  s.acquiring t && !s.isolated kBent (bentIx t b) && smapGet 0 s.bentOff (bentIx t b) == 0
    && (!s.isolated kTenon t || (s.tenon t).portLoss)

/-! ### Time -/

/-- Fine units of one tick. -/
def tickF : Nat := 512
/-- Fine units of one second of Plumb time. -/
def secF : Nat := 819200000000
/-- Fine units of one microsecond. -/
def usF : Nat := 819200
/-- Fine units of one millisecond. -/
def msF : Nat := 819200000

/-- The state at instant t; a command never moves the instant back. -/
def State.at_ (s : State) (t : Nat) : State := { s with now := max s.now t }

/-- The Plumb time, in fine units from Plumb time zero, that Tenon t's counter gives instant a. -/
def State.plumbOfTenon (s : State) (t : Nat) (a : Int) : Int := a + (s.tenon t).off

/-- The Plumb time of the Mortise now. -/
def State.plumbNow (s : State) : Int := (s.now : Int) + s.plumbOff

/-- A Plumb time in the 80-bit layout of R250, modulo 2^40 seconds (R589). -/
def plumbWord (x : Int) : Nat :=
  let y : Nat := (x % (2 ^ 40 * (secF : Int))).toNat
  y / secF * 2 ^ 40 + y % secF

/-- The seconds that a 40-bit seconds field says, 2^39 or more lying before Plumb time zero (R589). -/
def plumbSec (n : Nat) : Int :=
  let sec : Nat := n % 2 ^ 40
  if sec < 2 ^ 39 then (sec : Int) else (sec : Int) - 2 ^ 40

/-- The fine units of an 80-bit Plumb time (R250, R589). -/
def plumbOfWord (w : Nat) : Int := plumbSec (w / 2 ^ 40) * (secF : Int) + ((w % 2 ^ 40 : Nat) : Int)

/-! ### Outputs -/

/-- Whether actions wait for the standby's acknowledgement of the cycle that journals them (R485, R486). -/
def State.journaling (s : State) : Bool := s.part == .vt8 && s.dx.sbState == 2 && !s.dx.performing

/-- The bytes that an action takes in a cycle (R489); the commands that one action sends to several Tenons are one entry for
each (log entry 71). -/
def Act.bytes : Act → Nat
  | .out (.hostWrite _ ws _) => if ws.length = 2 then 40 else 24
  | .out _ => 40
  | .frame _ _ => 16
  | .deliver _ _ => 8
  | .w0 _ _ _ => 16
  | .bell _ _ _ => 8
  | .run _ => 80
  | .trig _ _ => 192
  | .sync _ => 192
  | .regRd _ _ _ _ _ => 16

/-- The limit of a cycle without its HEARTBEAT and PLUMB sections (R489, R490). -/
def cycleRoom : Nat := 49152 - 80

/-- An action put into the open journal. -/
def State.journal (s : State) (a : Act) : State :=
  { s with dx := { s.dx with acts := s.dx.acts ++ [a], firstAt := some (s.dx.firstAt.getD s.now) } }

/-- Whether two host writes touch a common byte. -/
def Out.meets (a b : Out) : Bool :=
  match a, b with
  | .hostWrite x u _, .hostWrite y v _ => decide (x < y + v.length * 8) && decide (y < x + u.length * 8)
  | _, _ => false

/-- Words of the greatest payload, or read, of size 128 bytes or one of the n - 1 doublings above, that the host has set under
number k (R387). -/
def State.pcieWords (s : State) (k n : Nat) : Nat := 2 ^ (4 + Config.pcieSetting k s.now % n)

/-- A host write as the endpoint issues it: payloads of at most the size that the host has set, 256 bytes at most, and relaxed
ordering on record-buffer data while the host enables it (R387). -/
def State.pieces (s : State) (o : Out) : List Out :=
  match o with
  | .hostWrite a ws ro =>
    let m := s.pcieWords 1 2
    (List.range (ceilDiv ws.length m)).map (fun k =>
      .hostWrite ((a + k * m * 8) % 2 ^ 64) ((ws.drop (k * m)).take m) (ro && Config.pcieSetting 2 s.now % 2 == 1))
  | o => [o]

/-- A host write or MSI-X write put on PCIe. -/
def State.issue (s : State) (o : Out) : State := { s with out := s.out ++ s.pieces o }

/-- A host write or MSI-X write performed while cycles are acknowledged: it waits where an earlier write to one of its
bytes is not confirmed (R487), and is remembered until its own confirmation is acknowledged (R497). -/
def State.hostOut (s : State) (o : Out) : State :=
  if s.part = .vt8 && s.dx.sbState = 2 then
    if s.dx.unconf.any (fun x => x.1.meets o) || s.dx.blocked.any (fun x => x.meets o) then
      { s with dx := { s.dx with blocked := s.dx.blocked ++ [o] } }
    else { s.issue o with dx := { s.dx with unconf := s.dx.unconf ++ [(o, none)] } }
  else s.issue o

/-- Whether the hardware lets a frame of type ty out of port p: a Mortise that does not hold the PEG line sends link-local
frames, probes and probe replies alone (R482). -/
def State.frameGate (s : State) (p ty : Nat) : Bool :=
  s.part != .vt8 || (s.dx.held && p / 8 == s.dx.die) || decide (ty < 8) || ty == 0x08 || ty == 0x09

/-- Something sent out; a write to host memory or of MSI-X is an action of R485. What R482 gates off does not leave. -/
def State.send (s : State) (o : Out) : State :=
  match o with
  | .hostWrite _ _ _ | .msix _ _ _ =>
    if s.journaling then s.journal (.out o) else if s.pegOpen then s.hostOut o else s
  | .frame p f => if s.frameGate p f.ty then { s with out := s.out ++ [o] } else s
  | _ => { s with out := s.out ++ [o] }

/-! ### Records and streams -/

/-- A stream ID (R280). -/
def streamId (kind die index : Nat) : Nat := kind * 4096 + die * 256 + index

/-- The record types with a fixed number (R279). -/
def tyFast : Nat := 1
def tyDec : Nat := 2
def tySeg : Nat := 3
def tyScan : Nat := 4
def tyStamp : Nat := 5
def tyInt : Nat := 6
def tyFreq : Nat := 7
def tyStat : Nat := 8
def tyTel : Nat := 9
def tyEvent : Nat := 10
def tyLoss : Nat := 11
def tyGap : Nat := 12
def tyDrift : Nat := 13
def tyHealth : Nat := 14
def tyAttest : Nat := 15

/-- Flag bits of a record header (R283). -/
def flStep : Nat := 1
def flUnsync : Nat := 2
def flPoison : Nat := 4
def flRestart : Nat := 8
def flStop : Nat := 16
def flGrid : Nat := 32

/-- The length of a record in 8-byte units, header included. -/
def Rec.len (r : Rec) : Nat := 4 + r.body.length

/-- A record as 64-bit words, with the producing node's ID (R276). -/
def Rec.words (r : Rec) (node : Nat) : List Nat :=
  let p := r.tword.getD (plumbWord r.time)
  [ r.ty % 256 + r.flags % 256 * 2 ^ 8 + r.len * 2 ^ 16 + r.stream * 2 ^ 32 + r.node.getD node * 2 ^ 48,
    r.die + r.bent * 2 ^ 4 + r.channel * 2 ^ 8 + r.epoch % 65536 * 2 ^ 16 + r.seq * 2 ^ 32,
    p % 2 ^ 64,
    p / 2 ^ 64 + r.items % 65536 * 2 ^ 16 + r.hx % 2 ^ 32 * 2 ^ 32 ] ++ r.body

/-- Whether a datum stamped now is unsynchronised: PLUMB_STATUS.STATE is FREE, ACQUIRING or HOLDOVER (R283). -/
def State.unsync (s : State) : Bool :=
  s.rd F.PLUMB_STATUS_STATE 0 == 0 || s.rd F.PLUMB_STATUS_STATE 0 == 1 || s.rd F.PLUMB_STATUS_STATE 0 == 3

/-- Whether STATE said so at Plumb time x, as its changes since PO tell (R283). -/
def State.unsyncAt (s : State) (x : Int) : Bool :=
  match s.plumb.uns.find? (fun p => decide (p.1 ≤ x)) with
  | some p => p.2
  | none => s.plumb.uns != [] || s.unsync

/-- The Plumb time of the first datum of a record (R279). -/
def Rec.firstTime (r : Rec) : Int := if r.ty = tyStamp then r.time + 8703 else r.time

/-- A record given the stream's next sequence number and the flags that fall due on it (R283 to R285). A segment record
brings its UNSYNC with it, since its header's time is not that of the first datum of each part. -/
def State.number (s : State) (r : Rec) : Rec × State :=
  let st := s.stream r.stream
  ({ r with
      seq := st.seq
      flags := r.flags ||| (if st.stepped then flStep else 0) ||| (if r.ty != tySeg && s.unsyncAt r.firstTime then flUnsync else 0)
        ||| (if st.restart then flRestart else 0) ||| (if st.moved then flGrid else 0) },
    s.setStream r.stream
      { st with seq := (st.seq + 1) % 2 ^ 32, restart := false, stepped := false, moved := false })

/-- The bytes waiting in a transmit FIFO. -/
def fifoBytes (l : List Rec) : Nat := (l.map (fun r => r.len * 8)).sum

/-- The loss record of discarded records (R286 to R288). -/
def lossRec (stream die : Nat) (l : LossPend) : Rec :=
  { ty := tyLoss, flags := l.flags, stream := stream, die := die, bent := l.bent, channel := l.channel,
    epoch := l.epoch, seq := l.seq, time := l.time, node := l.node,
    body := [l.count % 2 ^ 32 + l.cause * 2 ^ 32, plumbWord l.lastTime % 2 ^ 64, plumbWord l.lastTime / 2 ^ 64] }

/-- One more record added to a pending loss. A record that is itself a loss record adds its span (R287, R310). -/
def addLoss (p : Option LossPend) (r : Rec) (cause : Nat) : LossPend :=
  let n := if r.ty = tyLoss then r.body.headD 0 % 2 ^ 32 else 1
  let c := if r.ty = tyLoss then r.body.headD 0 / 2 ^ 32 % 256 else cause
  let lastT := if r.ty = tyLoss then plumbOfWord (r.body.getD 1 0 + r.body.getD 2 0 * 2 ^ 64) else r.time
  match p with
  | none => { count := n, flags := r.flags, seq := r.seq, time := r.time, bent := r.bent, channel := r.channel,
              epoch := r.epoch, cause := c, lastTime := lastT, node := r.node }
  | some l => { l with count := l.count + n, flags := l.flags ||| r.flags, lastTime := lastT }

/-- Key of a pending loss: at the Tenon side of a port (side 0 or 1) or at the receive port (side 2 or 3). -/
def lossKey (side stream : Nat) : Nat := side * 65536 + stream

def State.loss (s : State) (side stream : Nat) : Option LossPend := smapGet none s.losses (lossKey side stream)
def State.setLoss (s : State) (side stream : Nat) (l : Option LossPend) : State :=
  { s with losses := smapSet none s.losses (lossKey side stream) l }

/-- The size of a Tenon transmit FIFO in bytes. -/
def fifoSize : Nat := 16384

/-- The FIFO of a port. -/
def Tenon.tx (x : Tenon) (b : Bool) : List Rec := if b then x.txB else x.txA
def Tenon.setTx (x : Tenon) (b : Bool) (l : List Rec) : Tenon := if b then { x with txB := l } else { x with txA := l }
/-- The receive side of a port of a Tenon's link: at the Tenon for frames down to it, else at the Mortise. -/
def Tenon.link (x : Tenon) (b down : Bool) : LinkRx := smapGet {} x.links (2 * b2n b + b2n down)
def Tenon.setLink (x : Tenon) (b down : Bool) (r : LinkRx) : Tenon :=
  { x with links := smapSet {} x.links (2 * b2n b + b2n down) r }
/-- Whether a port of a Tenon is declared down. -/
def Tenon.down (x : Tenon) (b : Bool) : Bool := if b then x.downB else x.downA

/-- A record put into the transmit FIFO of one port of its Tenon, after the loss record its stream owes, or discarded
whole (R24, R287). -/
def State.txOne (s : State) (b : Bool) (r : Rec) : State :=
  let x := s.tenon r.die
  let side := b2n b
  match s.loss side r.stream with
  | none =>
    if fifoBytes (x.tx b) + r.len * 8 ≤ fifoSize then s.setTenon r.die (x.setTx b (x.tx b ++ [r]))
    else s.setLoss side r.stream (some (addLoss none r 1))
  | some l =>
    let lr := lossRec r.stream r.die l
    if fifoBytes (x.tx b) + lr.len * 8 + r.len * 8 ≤ fifoSize then
      (s.setTenon r.die (x.setTx b (x.tx b ++ [lr, r]))).setLoss side r.stream none
    else s.setLoss side r.stream (some (addLoss (some l) r 1))

/-- A Tenon's record sent on every port of the part: port A, and on VT8 port B (R25). -/
def State.tx (s : State) (r : Rec) : State :=
  let s := s.txOne false r
  if s.part = .vt8 then s.txOne true r else s

/-- The open record of a stream closed and sent, with STOP when the stream stops (R282, R283). -/
def State.closeStream (s : State) (sid : Nat) (stop : Bool) : State :=
  let st := s.stream sid
  match st.cur with
  | none => s
  | some r =>
    (s.setStream sid { st with cur := none }).tx (if stop then { r with flags := r.flags ||| flStop } else r)

/-- A record opened in a stream that has none open. -/
def State.openStream (s : State) (r : Rec) (limit : Nat) : State :=
  let (r', s) := s.number r
  s.setStream r.stream { s.stream r.stream with cur := some r', limit := limit, since := s.now }

/-- A Tenon record that is whole at once: numbered and sent. -/
def State.txWhole (s : State) (r : Rec) : State :=
  let (r', s) := s.number r
  s.tx r'

/-- The open record of a stream closed where it carries another epoch than that of the next datum (R281). -/
def State.epochClose (s : State) (sid ep : Nat) : State :=
  if (s.stream sid).cur.any (fun r => r.epoch != ep) then s.closeStream sid false else s

/-- A record whose next item concerns bent b and channel c: BENT and CHANNEL stay only while every item of the record
concerns the one bent, or the one channel (R276 and its worked example). Log entry 93. -/
def Rec.about (r : Rec) (b c : Nat) : Rec :=
  if r.items = 0 then { r with bent := b, channel := c }
  else { r with bent := if r.bent = b then b else 0, channel := if r.channel = c then c else 0 }

/-- An item of body words appended to the open record of a stream, which then closes when it holds its limit of
items. -/
def State.appendItem (s : State) (sid : Nat) (f : Rec → Rec) : State :=
  let st := s.stream sid
  match st.cur with
  | none => s
  | some r =>
    let r' := f r
    let s := s.setStream sid { st with cur := some r' }
    if r'.items ≥ st.limit then s.closeStream sid false else s

/-! ### The cell pool -/

/-- Cells in the pool (R303). -/
def poolCells : Nat := 524288
/-- Cells in a bank. -/
def bankCells : Nat := 32768

/-- The banks in service (POOL_BANKS). -/
def State.banks (s : State) : Nat := s.rd F.POOL_BANKS_IN_SERVICE 0

/-- The number of banks in service. -/
def State.bankCount (s : State) : Nat := ((List.range 16).filter (fun b => (s.banks).testBit b)).length

/-- Used cells of a bank. -/
def State.usedIn (s : State) (b : Nat) : Nat := (s.pool.owner.filter (fun p => p.1 % 16 == b)).length

/-- Free cells of a bank. -/
def State.freeIn (s : State) (b : Nat) : Nat := bankCells - s.usedIn b

/-- Whether the pool may take cells from a bank: in service and not under repair (R331). -/
def State.allocatable (s : State) (b : Nat) : Bool := s.banks.testBit b && s.pool.alloc.testBit b

/-- Free cells of the pool. -/
def State.freeCells (s : State) : Nat :=
  ((List.range 16).map (fun b => if s.allocatable b then s.freeIn b else 0)).sum

/-- Cells a queue holds, those of open packets included (QSTAT.CELLS). -/
def Queue.cells (q : Queue) : Nat := (q.pkts.map (fun p => p.cells.length)).sum + q.openCells

/-- The cells that reserves may bind (R308). -/
def State.reserveLimit (s : State) : Nat := (s.bankCount - 1) * bankCells

/-- The listed RESERVE fields, in queue-number order. -/
def State.reserves (s : State) : List (Nat × Nat) :=
  (s.regs.filter (fun p => p.1 / 2 ^ 20 == F.QCFG_RESERVE.id)).map (fun p => (p.1 % 2 ^ 20, p.2))

/-- Reserves as honoured: in queue-number order until the limit of R308 is reached (R334). -/
def honoured (limit : Nat) : List (Nat × Nat) → List (Nat × Nat)
  | [] => []
  | (q, r) :: l => (q, min r limit) :: honoured (limit - min r limit) l

/-- The reserve of a queue as honoured. -/
def State.reserveOf (s : State) (q : Nat) : Nat := smapGet 0 (honoured s.reserveLimit s.reserves) q

/-- The shared free count for a queue (R307). -/
def State.sharedFree (s : State) (q : Nat) : Nat :=
  s.freeCells - (((honoured s.reserveLimit s.reserves).filter (fun p => p.1 ≠ q)).map
    (fun p => p.2 - (s.queue p.1).cells)).sum

/-- Whether queue q may take n more cells (R307, R312). -/
def State.mayTake (s : State) (q n : Nat) : Bool :=
  s.pool.ready && s.on F.QCFG_EN q
    && (s.queue q).cells + n ≤ s.rd F.QCFG_MAX_CELLS q
    && n ≤ s.freeCells
    && ((s.queue q).cells + n ≤ s.reserveOf q || n ≤ s.sharedFree q)

/-- The first bank, counted from b, from which a cell may be taken. -/
def State.pickBank (s : State) (b : Nat) : Nat → Nat
  | 0 => b % 16
  | k + 1 => if s.allocatable (b % 16) && 0 < s.freeIn (b % 16) then b % 16 else s.pickBank (b + 1) k

/-- The k-th number below the bank's size that is not among the used ones, which rise. -/
def kthFree (used : List Nat) (k : Nat) : Nat :=
  match used with
  | [] => k
  | u :: l => if k < u then k else kthFree l (k + 1)

/-- Every word of a cell, and its link entry, written anew: none of them holds a flipped bit. -/
def Pool.cellFresh (p : Pool) (cell : Nat) : Pool :=
  let hit (k : Nat) : Bool := k / 8 == (cell % 16) * 2 ^ 21 + cell || k == 16 * 2 ^ 24 + cell
  { p with
    flips := smapDrop p.flips hit
    wb := p.wb.filter (fun k => !hit k)
    zeroed := p.zeroed.filter (fun k => k / 8 != cell) }

/-- A cell taken for queue q by producer p: round-robin over the banks (R303); which free cell of the bank is open. -/
def State.takeCell (s : State) (p q : Nat) : Nat × State :=
  let b := s.pickBank (smapGet 0 s.pool.nextBank p) 16
  let used := (s.pool.owner.filter (fun p => p.1 % 16 == b)).map (fun p => p.1 / 16)
  let k := Config.freeCell s.pool.picks % max 1 (s.freeIn b)
  let cell := kthFree used k * 16 + b
  (cell, { s with pool := { s.pool.cellFresh cell with
    owner := smapSet 0 s.pool.owner cell (q + 1), nextBank := smapSet 0 s.pool.nextBank p ((b + 1) % 16)
    picks := s.pool.picks + 1 } })

/-- The greatest cell count of a queue kept up to date. -/
def State.noteHigh (s : State) (q : Nat) : State :=
  s.wr F.QSTAT_HIGH_WATER q (max (s.rd F.QSTAT_HIGH_WATER q) (s.queue q).cells)

/-- n cells taken by producer p for an open packet of queue q. -/
def State.takeCells (s : State) (p q : Nat) : Nat → List Nat × State
  | 0 => ([], s)
  | n + 1 =>
    let (c, s) := s.takeCell p q
    let s := s.setQueue q { s.queue q with openCells := (s.queue q).openCells + 1 }
    let (cs, s) := s.takeCells p q n
    (c :: cs, s)

/-- The open packet of record r, with its cells, closed at the tail of queue q; its header names the node that produced it
(R276, R305). -/
def State.closePacket (s : State) (q : Nat) (r : Rec) (cells : List Nat) : State :=
  let x := s.queue q
  s.setQueue q { x with
    pkts := x.pkts ++ [{ rec_ := { r with node := some (r.node.getD (s.rd F.FAB_NODE_ID 0)) }, cells := cells }]
    openCells := x.openCells - cells.length }

/-- Cells of a record (R305). -/
def Rec.cellCount (r : Rec) : Nat := ceilDiv r.len 8

/-- The queue of a stream (R306). -/
def State.queueOf (s : State) (stream : Nat) : Nat := s.rd F.MAP_DATA_QUEUE stream

/-- A record that producer p puts into the pool whole: cells taken and packet closed. -/
def State.poolPut (s : State) (p q : Nat) (r : Rec) : State :=
  let (cs, s) := s.takeCells p q r.cellCount
  (s.closePacket q r cs).noteHigh q

/-- The given cells back on the free list; copies of them in the shim buffer are forgotten. -/
def State.freeCellsOf (s : State) (cells : List Nat) : State :=
  { s with pool := { s.pool with
      owner := s.pool.owner.filter (fun p => !cells.contains p.1)
      shim := s.pool.shim.filter (fun p => !cells.contains (p.2 - 1)) } }

/-- The first n packets of a queue reported delivered: their cells return to the free list (R314). -/
def State.deliverNow (s : State) (q n : Nat) : State :=
  let x := s.queue q
  let gone := (x.pkts.take n).flatMap (·.cells)
  (s.setQueue q { x with pkts := x.pkts.drop n, taken := x.taken - n }).freeCellsOf gone

/-- The first n packets of a queue reported delivered, an action of R485. -/
def State.deliver (s : State) (q n : Nat) : State :=
  if s.journaling then s.journal (.deliver q n) else s.deliverNow q n

/-! ### Events -/

/-- The Mortise producers (R311), and after them the receive port of Tenon t and the migration of a bank. -/
def prEvent : Nat := 0
def prPort (t : Nat) : Nat := 256 + t
def prShim : Nat := 264
def prSeif0 : Nat := 2
def prSeif1 : Nat := 3
def prDecomp : Nat := 4
def prZillo0 : Nat := 8
def prHealth : Nat := 16
def prAttest : Nat := 17
def prFabric : Nat := 18

/-- Whether the standby makes a Mortise producer's records itself: the Seif engines' and the accumulators' (R492). -/
def standbyMakes (p : Nat) : Bool := p == prSeif0 || p == prSeif1 || (decide (128 ≤ p) && decide (p < 192))

/-- Whether the open cycle has room in MIRROR, which is filled last, for n bytes of a record of producer p that a READY standby
does not make itself (R490, R492). -/
def State.mirrorFits (s : State) (p n : Nat) : Bool :=
  s.dx.sbState != 2 || standbyMakes p || decide ((s.dx.acts.map Act.bytes).sum + s.dx.mirrorUsed + n ≤ cycleRoom)

/-- n bytes of a record of producer p put into MIRROR. -/
def State.mirrorPut (s : State) (p n : Nat) : State :=
  if s.dx.sbState != 2 || standbyMakes p then s else { s with dx := { s.dx with mirrorUsed := s.dx.mirrorUsed + n } }

/-- Cells added to the oldest record of a Mortise producer while R307 allows, and the record closed when it has them
all and MIRROR takes it (R490); its queue is settled when it comes to the front (R306). n bounds the cells and records
handled. -/
def State.pump (s : State) (p : Nat) : Nat → State
  | 0 => s
  | n + 1 =>
    let x := s.prod p
    match x.waiting with
    | [] => s
    | (r, dest) :: rest =>
      let q := x.into.getD (dest.getD (s.queueOf r.stream))
      if x.cells.length ≥ r.cellCount then
        if s.mirrorFits p (r.len * 8) then
          (((s.setProd p { waiting := rest }).closePacket q r x.cells).mirrorPut p (r.len * 8)).pump p n
        else s
      else if s.mayTake q 1 then
        let (cs, s) := s.takeCells p q 1
        ((s.noteHigh q).setProd p { x with cells := x.cells ++ cs, into := some q }).pump p n
      else s.setProd p { x with into := some q }

/-- A record handed to a Mortise producer, which writes it at once or stalls (R311). -/
def State.produce (s : State) (p : Nat) (r : Rec) : State :=
  let (r', s) := s.number r
  let x := s.prod p
  (s.setProd p { x with waiting := x.waiting ++ [(r', none)] }).pump p ((x.waiting.length + 1) * 130)

/-- A record handed as it is to a Mortise producer, for queue q (R349, R358, R469). -/
def State.putRec (s : State) (p q : Nat) (r : Rec) : State :=
  let x := s.prod p
  (s.setProd p { x with waiting := x.waiting ++ [(r, some q)] }).pump p ((x.waiting.length + 1) * 130)

/-- A record from its words (R276). -/
def recOfWords (ws : List Nat) : Rec :=
  let w (k : Nat) : Nat := ws.getD k 0
  let x := w 2 % 2 ^ 64 + w 3 % 2 ^ 16 * 2 ^ 64
  { ty := bitsAt (w 0) 0 8, flags := bitsAt (w 0) 8 8, stream := bitsAt (w 0) 32 16, node := some (bitsAt (w 0) 48 16)
    die := bitsAt (w 1) 0 4, bent := bitsAt (w 1) 4 4, channel := bitsAt (w 1) 8 8, epoch := bitsAt (w 1) 16 16
    seq := bitsAt (w 1) 32 32, time := plumbOfWord (w 2 + w 3 % 2 ^ 16 * 2 ^ 64), items := bitsAt (w 3) 16 16
    hx := bitsAt (w 3) 32 32, body := ws.drop 4
    tword := if plumbWord (plumbOfWord x) = x then none else some x }

/-- Event records that R307 lets into the pool, oldest raise first; n bounds them. -/
def State.pumpEvents (s : State) : Nat → State
  | 0 => s
  | n + 1 =>
    match s.pool.evs with
    | [] => s
    | e :: rest =>
      let sid := streamId 11 7 0
      let q := s.queueOf sid
      if s.mayTake q 1 && s.mirrorFits prEvent 40 then
        let s := { s with pool := { s.pool with evs := rest } }
        let body := e.src % 512 + (if 65535 < e.count then 2 ^ 15 else 0) + min 65535 e.count * 2 ^ 16
          + e.detail % 2 ^ 32 * 2 ^ 32
        let (r, s) := s.number { ty := tyEvent, stream := sid, die := 7, time := e.time, body := [body] }
        ((s.poolPut prEvent q r).mirrorPut prEvent 40).pumpEvents n
      else s

/-- A raise of an event source, given to the operations that raises themselves use. -/
abbrev Raiser := State → Nat → Nat → State

/-- A sticky bit set; a change from 0 to 1 raises the event while enabled. -/
def stickW (rs : Raiser) (s : State) (f : Fld) (i : Nat) (en : Bool) (src detail : Nat) : State :=
  if s.on f i then s
  else
    let s := s.wr f i 1
    if en then rs s src detail else s

/-- The memory numbers of R321. -/
def memLink : Nat := 16
def memZillo (z : Nat) : Nat := 17 + z
def memRoute : Nat := 21
def memRetention : Nat := 22
def memShim : Nat := 23
def memSeg (t : Nat) : Nat := 32 + t

/-- The key of word a of memory m among the flipped words. -/
def flipKey (m a : Nat) : Nat := m * 2 ^ 24 + a

/-- A sticky bit of MEM_STATUS set for memory m (R335). -/
def memStickW (rs : Raiser) (s : State) (f : Fld) (bit m : Nat) : State :=
  stickW rs s f 0 (bitAt (s.rd F.MEM_EVENT_EN_EV_MASK 0) bit) 40 m

/-- One more of an item that health records count (R560, R561): corrections in memory m under m, uncorrectable words and
address faults under 0x60, losses of lane n under 0x70 + n. -/
def State.tallyUp (s : State) (k : Nat) : State :=
  { s with tally := smapSet 0 s.tally k (min (2 ^ 48 - 1) (smapGet 0 s.tally k + 1)) }

/-- One correction counted for memory m, with the threshold step of R336. -/
def memCorrectedW (rs : Raiser) (s : State) (f : Fld) (m : Nat) : State :=
  let s := (s.countUp f m 1 (2 ^ 32 - 1)).tallyUp m
  let n := s.rd F.MEM_ECC_SINGLE m + s.rd F.MEM_ECC_DOUBLE m
  if n % s.rd F.MEM_THR_CORR_THR 0 = 0 then memStickW rs s F.MEM_STATUS_CORR_THR 0 m else s

/-- The first bad word of memory m noted. -/
def State.memBad (s : State) (m a : Nat) : State :=
  if s.on F.MEM_ECC_BAD_VALID m then s
  else (s.wr F.MEM_ECC_FIRST_BAD m a).wr F.MEM_ECC_BAD_VALID m 1

/-- One uncorrectable word counted for memory m, and its sticky bit set. -/
def memUncorrW (rs : Raiser) (s : State) (m a : Nat) : State :=
  memStickW rs (((s.tallyUp 0x60).countUp F.MEM_ECC_UNCORR m 1 65535).memBad m a) F.MEM_STATUS_UNCORR 1 m

/-- What a read outcome counts and sets (R319 to R321): a corrected word waits for its write-back, and an address fault counts
as uncorrectable too. -/
def memCountW (rs : Raiser) (s : State) (m a : Nat) (o : EccOut) : State :=
  let back (s : State) : State := { s with pool := { s.pool with wb := s.pool.wb ++ [flipKey m a] } }
  match o with
  | .clean => s
  | .single => back (memCorrectedW rs s F.MEM_ECC_SINGLE m)
  | .double => back (memCorrectedW rs s F.MEM_ECC_DOUBLE m)
  | .addrFault => memStickW rs (memUncorrW rs (s.countUp F.MEM_ECC_ADDR m 1 32767) m a) F.MEM_STATUS_ADDR 2 m
  | .uncorr => memUncorrW rs s m a

/-! ### Frames of the fabric -/

def State.port (s : State) (p : Nat) : Port := smapGet {} s.ports p
def State.setPort (s : State) (p : Nat) (x : Port) : State := { s with ports := smapSet {} s.ports p x }
def State.lane (s : State) (n : Nat) : Lane := smapGet {} s.lanes n
def State.setLane (s : State) (n : Nat) (x : Lane) : State := { s with lanes := smapSet {} s.lanes n x }

/-- This node's ID, 0xFFFF while it has none (R445). -/
def State.nodeId (s : State) : Nat := s.rd F.FAB_NODE_ID 0

/-- Ports and lanes are counted over both Mortise dies of a VT8: those of Mortise B start at 8. The first of the die that
acts. -/
def State.portBase (s : State) : Nat := 8 * s.dx.die

/-- The lanes of port p, none while it is off or its lane belongs to the port before it (R447). -/
def State.portLanes (s : State) (p : Nat) : List Nat :=
  if p % 2 = 1 && s.rd F.FAB_PORT_WIDTH (p % 8 - 1) = 2 then []
  else
    match s.rd F.FAB_PORT_WIDTH (p % 8) with
    | 0 => []
    | 2 => [p, p + 1]
    | _ => [p]

/-- States of a port (FAB_PSTAT.STATE). -/
def poOff : Nat := 0
def poDown : Nat := 1
def poInit : Nat := 2
def poUp : Nat := 3

/-- States of a lane (LANE_STATUS.STATE_NOW). -/
def laDown : Nat := 0
def laTraining : Nat := 1
def laActive : Nat := 2
def laQuiet : Nat := 3
def laDeep : Nat := 4
def laTest : Nat := 5

/-- Whether a port may carry routed frames (R450, R458); a QUIET lane that frames do not wake is unavailable (R437). -/
def State.available (s : State) (p : Nat) : Bool :=
  (s.port p).state == poUp && !(s.port p).peerStandby
    && (s.portLanes p).all (fun n => (s.lane n).state != laQuiet || s.on F.LANE_CTRL_AUTO_WAKE (n % 8))

/-- Credits of 64 bytes a frame needs (R455). -/
def Frame.credits (f : Frame) : Nat := ceilDiv (f.words.length * 8 + 20) 64

/-- Bytes of a frame in the replay buffer. -/
def Frame.bytes (f : Frame) : Nat := f.words.length * 8 + 20

/-- Credits of each VC's receive buffer (R455). -/
def vcCredits : List Nat := [64, 128, 256, 1600]

/-- The weighted round-robin of VC2, VC1 and VC3 (R456). -/
def vcTurns : List Nat := [2, 2, 2, 2, 1, 1, 3]

/-- The route entry of a destination, with what the decoder found (R457, R463). -/
def State.routeEntry (s : State) (n : Nat) : Nat × EccOut :=
  let a := n / 8
  let d := ((List.range 8).map (fun j => smapGet 0 s.route (a * 8 + j) * 2 ^ (8 * j))).sum
  match smapGet 0 s.pool.flips (flipKey memRoute a) with
  | 0 => (smapGet 0 s.route n, .clean)
  | f =>
    let (v, o) := eccDecode (eccEncode d a ^^^ f) a
    (if o = .uncorr || o = .addrFault then 0 else bitsAt v (8 * (n % 8)) 8, o)

/-- The port for a routed frame with route entry e that arrived on port from_, none where it has no route (R458). -/
def State.choosePortFor (s : State) (e : Nat) (from_ : Option Nat) : Option Nat :=
  let p := s.portBase + e % 8
  let a := s.portBase + e / 8 % 8
  if !bitAt e 7 then none
  else if s.available p && from_ != some p then some p
  else if bitAt e 6 && s.available a && (from_ != some a || !s.available p) then some a
  else none

/-- Whether port or lane number n of both dies is of the die that acts. -/
def State.ownDie (s : State) (n : Nat) : Bool := n / 8 == s.dx.die

/-- Whether port or lane n is of a Mortise that announces STANDBY: on VT8 one that does not hold the PEG line (R450). Its
lanes stay in QUIET (R32). -/
def State.standbyPort (s : State) (n : Nat) : Bool := s.part == .vt8 && !(s.ownDie n && s.dx.held)

/-- Whether a frame that waits for lane n leaves: ACTIVE lanes carry frames, and those of a standby, which stay in QUIET,
carry the few that R450 leaves it while AUTO_WAKE is 1 (R32, R437; log entry 60). -/
def State.laneCarries (s : State) (n : Nat) : Bool :=
  (s.lane n).state == laActive
    || ((s.lane n).state == laQuiet && s.on F.LANE_CTRL_AUTO_WAKE (n % 8) && s.standbyPort n)

/-- Whether every lane of port p carries blocks from the fabric logic. -/
def State.portAwake (s : State) (p : Nat) : Bool := (s.portLanes p).all s.laneCarries

/-- Whether port p can send frame f now: credits of its VC, room in the replay buffer (R453, R455). -/
def Port.canSend (x : Port) (f : Frame) : Bool :=
  decide (f.credits ≤ x.credits.getD f.vc 0) && decide ((x.unacked.map Frame.bytes).sum + f.bytes ≤ 131072)

/-- The first waiting frame of a VC. -/
def Port.headOf (x : Port) (vc : Nat) : Option Waiting := x.waiting.find? (fun w => w.frame.vc == vc)

/-- The VC a port serves next, with its place in the round-robin after it (R456). -/
def Port.turn (x : Port) : Option (Nat × Nat) :=
  let ok (vc : Nat) : Bool := match x.headOf vc with | none => false | some w => x.canSend w.frame
  if ok 0 then some (0, x.wrr)
  else
    match (List.range 7).find? (fun k => ok (vcTurns.getD ((x.wrr + k) % 7) 0)) with
    | none => none
    | some k => some (vcTurns.getD ((x.wrr + k) % 7) 0, (x.wrr + k + 1) % 7)

/-- Credits of a VC to return on port p as a frame leaves its receive buffer (R455). -/
def State.giveCredits (s : State) (p vc n : Nat) : State :=
  let x := s.port p
  s.setPort p { x with give := x.give.set vc (x.give.getD vc 0 + n), news := true }

/-- The credits of a waiting frame returned to the port it arrived on. -/
def State.leftBuffer (s : State) (w : Waiting) : State :=
  match w.inPort with
  | none => s
  | some ip => s.giveCredits ip w.frame.vc w.frame.credits

/-- The lanes of port p stop sending training idles: a block that is not IDLE follows (R431). -/
def State.notIdle (s : State) (p : Nat) : State :=
  (s.portLanes p).foldl (fun s n => if (s.lane n).trainIdle then s.setLane n { s.lane n with trainIdle := false } else s) s

/-- The waiting frames of port p sent while credits and buffer allow; n bounds them. -/
def State.portPump (s : State) (p : Nat) : Nat → State
  | 0 => s
  | n + 1 =>
    let x := s.port p
    if x.state ≠ poUp || !s.portAwake p then s
    else
      match x.turn with
      | none => s
      | some (vc, wrr) =>
        match x.headOf vc with
        | none => s
        | some w =>
          let f := { w.frame with lseq := x.txSeq }
          let y := { x with
            waiting := x.waiting.erase w, wrr := wrr, txSeq := (x.txSeq + 1) % 4096, unacked := x.unacked ++ [f]
            credits := x.credits.set vc (x.credits.getD vc 0 - f.credits)
            since := if x.unacked = [] then s.now else x.since }
          ((((s.setPort p y).leftBuffer w).notIdle p).send (.frame p f)).portPump p n

/-- A frame put into the queue of port p, and the port's waiting frames sent as far as they can be. -/
def State.portPut (s : State) (p : Nat) (f : Frame) (from_ : Option Nat) : State :=
  let x := s.port p
  (s.setPort p { x with waiting := x.waiting ++ [{ frame := f, since := s.now, inPort := from_ }] }).portPump p
    (x.waiting.length + 1)

/-- A discard counted in FAB_DROP, with FAB_STATUS.DROP (R479). -/
def fabDropW (rs : Raiser) (s : State) (f : Fld) : State :=
  stickW rs (s.countUp f 0 1 (2 ^ f.width - 1)) F.FAB_STATUS_DROP 0 (bitAt (s.rd F.FAB_EVENT_EN_EV_MASK 0) 3) 32 8

/-- A routed frame sent on its way, or discarded and counted (R458). -/
def routeW (rs : Raiser) (s : State) (f : Frame) (from_ : Option Nat) : State :=
  let (e, o) := s.routeEntry f.dest
  let s := memCountW rs s memRoute (f.dest / 8) o
  match s.choosePortFor e from_ with
  | none =>
    let s := match from_ with | none => s | some ip => s.giveCredits ip f.vc f.credits
    fabDropW rs s F.FAB_DROP_NO_ROUTE
  | some p => s.portPut p f from_

/-- A routed frame that this node originates; an unassigned node originates none (R446, R459), and a VT8 none while no Mortise
holds the PEG line (R482). -/
def originateW (rs : Raiser) (s : State) (f : Frame) : State :=
  if s.nodeId = 0xFFFF then s
  else if s.journaling then s.journal (.frame f none)
  else if !s.frameGate s.portBase f.ty then s
  else routeW rs s { f with src := s.nodeId, hops := 32 } none

/-- Whether this node's host traffic goes to its own endpoint (HR_GW.GW_NODE). -/
def State.ownGateway (s : State) : Bool :=
  s.rd F.HR_GW_GW_NODE 0 == 0 || s.rd F.HR_GW_GW_NODE 0 == s.rd F.FAB_NODE_ID 0

/-- Word w of the MSI-X table, 16 bytes an entry; an entry is masked after reset. -/
def State.msixWord (s : State) (v w : Nat) : Nat := smapGet (if w = 3 then 1 else 0) s.msixTable (v * 4 + w)

/-- Word w of MSI-X entry v set. -/
def State.setMsix (s : State) (v w x : Nat) : State :=
  { s with msixTable := smapSet (if w = 3 then 1 else 0) s.msixTable (v * 4 + w) (x % 2 ^ 32) }

/-- Vector v of this endpoint written, or its PBA bit set while it is masked (R414). -/
def State.writeVector (s : State) (v : Nat) : State :=
  if s.msixWord v 3 % 2 = 1 then { s with pba := smapSet 0 s.pba v 1 }
  else s.send (.msix v (s.msixWord v 0 + s.msixWord v 1 * 2 ^ 32) (s.msixWord v 2))

/-- Frame types (R452). -/
def frLinkInit : Nat := 0x01
def frLinkCtl : Nat := 0x02
def frPlumbReq : Nat := 0x03
def frPlumbRsp : Nat := 0x04
def frProbe : Nat := 0x08
def frProbeRsp : Nat := 0x09
def frBcast : Nat := 0x0A
def frEvent : Nat := 0x0B
def frFaReq : Nat := 0x0C
def frFaRsp : Nat := 0x0D
def frHostRd : Nat := 0x10
def frDoorbell : Nat := 0x11
def frRegRd : Nat := 0x12
def frRegWr : Nat := 0x13
def frHostRdData : Nat := 0x18
def frHostAck : Nat := 0x19
def frRegRsp : Nat := 0x1A
def frEntryWr : Nat := 0x1B
def frMsix : Nat := 0x1C
def frFwdAck : Nat := 0x1D
def frHostWr : Nat := 0x20
def frRecord : Nat := 0x21

/-- The event record of a raise, written or merged with the pending one of its source (R300). -/
def State.raiseRecord (s : State) (src detail : Nat) : State :=
  let evs := s.pool.evs
  let evs := if evs.any (fun e => e.src == src) then
      evs.map (fun e => if e.src == src then { e with count := e.count + 1 } else e)
    else evs ++ [{ src := src, detail := detail, count := 1, time := s.plumbNow }]
  { s with pool := { s.pool with evs := evs } }.pumpEvents evs.length

/-- The lines 4 to 7 of the Zillo cores whose ESEL names event source src latched, whatever the source's MSI-X mapping
(R371). -/
def State.zilloLines (s : State) (src : Nat) : State :=
  { s with zcores := s.zcores.map (fun p =>
      (p.1, (List.range 4).foldl (fun (c : ZCore) k =>
        if smapGet 0 c.esel k = src then { c with latched := c.latched ||| BitVec.ofNat 8 (2 ^ (4 + k)) } else c) p.2)) }

/-- The raise of event source src with its DETAIL: its record, and the source's MSI-X vector, here or at the gateway
(R300, R414, R422). Raises that the raise itself causes on its way are bounded by n. -/
def State.raiseN : Nat → Raiser
  | 0, s, src, detail => (s.raiseRecord src detail).zilloLines src
  | n + 1, s, src, detail =>
    let s := (s.raiseRecord src detail).zilloLines src
    if s.on F.EV_MAP_EN src then
      let v := s.rd F.EV_MAP_VECTOR src
      if s.ownGateway then s.writeVector v
      else originateW (State.raiseN n) s {
        dest := s.rd F.HR_GW_GW_NODE 0, vc := 0, ty := frEvent
        words := [src % 512 + 2 ^ 16 + detail % 2 ^ 32 * 2 ^ 32, v] }
    else s

/-- The raise of event source src with its DETAIL (R300, R414, R422). -/
def State.raise (s : State) (src detail : Nat) : State := State.raiseN 8 s src detail

/-- A sticky bit set; a change from 0 to 1 raises the event while enabled. -/
def State.stick (s : State) (f : Fld) (i : Nat) (en : Bool) (src detail : Nat) : State :=
  stickW State.raise s f i en src detail

/-- A sticky bit of MODE_STATUS set; DETAIL holds MODE (18_modes_power_reset.md, Registers). -/
def State.modeStick (s : State) (f : Fld) (bit : Nat) : State :=
  s.stick f 0 (bitAt (s.rd F.MODE_EVENT_EN_EV_MASK 0) bit) 0 s.mode

/-- A wake (R524, R525): during the drain entry stops where it stands; asleep, exit begins. -/
def State.wakeBegin (s : State) : State :=
  if s.dorm.stage = 1 then { s with dorm := {} }.modeStick F.MODE_STATUS_WOKE 2
  else if s.dorm.stage = 2 then { s with dorm := { s.dorm with stage := 3 } }
  else s

/-- Whether bent i stays on in DORMANT (DORM_KEEP). -/
def State.keptBent (s : State) (i : Nat) : Bool := bitAt (s.rd F.DORM_KEEP_KEEP (i / 32)) (i % 32)

/-- A routed frame that this node originates. -/
def State.originate (s : State) (f : Frame) : State := originateW State.raise s f

/-- An answer to a frame that arrived on port p, which leaves there when its destination has no VALID entry (R462); n
bounds what follows. -/
def State.answer (s : State) (p : Nat) (f : Frame) : State :=
  if s.nodeId = 0xFFFF then s
  else if s.journaling then s.journal (.frame f (some p))
  else if !s.frameGate s.portBase f.ty then s
  else
    let f := { f with src := s.nodeId, hops := 32 }
    if bitAt (s.routeEntry f.dest).1 7 then routeW State.raise s f none else s.portPut p f none

/-- A link-local frame on port p, which takes no credits and no LSEQ; a QUIET lane wakes for it (R437, R453), but for the lanes
of a Mortise that does not hold the PEG line, which stay in QUIET (R32; log entry 60). -/
def State.sendLocal (s : State) (p ty : Nat) (words : List Nat) : State :=
  let lanes := s.portLanes p
  if lanes = [] || !lanes.all (fun n => (s.lane n).state == laActive
      || ((s.lane n).state == laQuiet && s.on F.LANE_CTRL_AUTO_WAKE (n % 8))) then s
  else
    let s := lanes.foldl (fun s n =>
      if (s.lane n).state = laQuiet && !s.standbyPort n then
        (s.setLane n { s.lane n with state := laActive }).wr F.LANE_CTRL_PSTATE (n % 8) 0
      else s) s
    (s.notIdle p).send (.frame p { dest := 0xFFFF, src := s.nodeId, vc := 0, ty := ty, words := words })

end Sys2Proof.Machine
end

