-- ==== Sys2Proof/Machine/Decimate.lean ====
section
/-! DEFINITION. The decimation chain of a fast channel (04_decimation.md): its configuration, its arithmetic, its
suppression runs and its outputs. -/

namespace Sys2Proof.Machine

open Sys2Proof

/-! ### Configuration in force -/

/-- The figures of a chain's configuration: D, the half-bands, the FIR set with its taps, decimation and delay in
sixteenths of a FIR input sample, and DIV. -/
structure DecCfg where
  div : Nat
  d : Nat
  h1 : Nat
  h2 : Nat
  set : Nat
  n : Nat
  f : Nat
  gd16 : Nat
  deriving DecidableEq, Repr

/-- Taps N of the built-in FIR sets (R109). -/
def firTaps (s : Nat) : Nat :=
  [1, 15, 31, 63, 127, 127, 63, 127, 127, 127, 127, 63, 127, 31, 95, 127].getD s 1

/-- Decimation F of the built-in FIR sets (R109). -/
def firDec (s : Nat) : Nat := [1, 1, 2, 2, 2, 2, 4, 4, 4, 8, 8, 1, 1, 1, 4, 2].getD s 1

/-- The user set u of Tenon t in force. -/
def State.userSet (s : State) (t u : Nat) : UserSet := smapGet {} s.userSets (t * 4 + u)

/-- The configuration in force of channel c of Tenon t. -/
def State.decCfg (s : State) (t c : Nat) : DecCfg :=
  let i := chIx t c
  let set := s.rd F.DEC_CTRL_FIR_SET i
  let u := s.userSet t (set - 16)
  let n := if set < 16 then firTaps set else u.n
  { div := s.rd F.CH_DIV_DIV i, d := s.rd F.DEC_CTRL_D i,
    h1 := s.rd F.DEC_CTRL_HB1_EN i, h2 := s.rd F.DEC_CTRL_HB2_EN i, set := set, n := n,
    f := if set < 16 then firDec set else 2 ^ u.f,
    gd16 := if set < 16 then 8 * (n - 1) else u.gd }

/-- D × 2^H: input samples of one FIR input sample. -/
def DecCfg.dh (x : DecCfg) : Nat := x.d * 2 ^ (x.h1 + x.h2)

/-- D_T: input samples of one output (R105). -/
def DecCfg.dT (x : DecCfg) : Nat := x.dh * x.f

/-- Sixteen times the group delay G in input samples (R117). -/
def DecCfg.g16 (x : DecCfg) : Nat :=
  40 * (x.d - 1) + 208 * x.d * x.h1 + 368 * x.d * 2 ^ x.h1 * x.h2 + x.gd16 * x.dh

/-- ceil(G). -/
def DecCfg.gCeil (x : DecCfg) : Nat := ceilDiv x.g16 16

/-- L − 1, L being the support in input samples (R118). -/
def DecCfg.lM1 (x : DecCfg) : Nat :=
  5 * (x.d - 1) + 26 * x.d * x.h1 + 46 * x.d * 2 ^ x.h1 * x.h2 + (x.n - 1) * x.dh

/-- The filter settle count S_F (R118). -/
def DecCfg.sF (x : DecCfg) : Nat := ceilDiv x.lM1 x.dT

/-- G × DIV in fine units (DEC_GD). -/
def DecCfg.gFine (x : DecCfg) : Nat := x.g16 * x.div * 32

/-- Δ in ticks (R119). -/
def DecCfg.delta (x : DecCfg) : Nat := (rhu (((x.gCeil * 16 - x.g16) * x.div : Nat) : Int) 4).toNat

/-- Whether every output falls on S + k × T_out exactly (R120). -/
def DecCfg.exact (x : DecCfg) : Bool := ((x.gCeil * 16 - x.g16) * x.div) % 16 == 0

/-- T_out in ticks (R105). -/
def DecCfg.tOut (x : DecCfg) : Nat := x.div * x.dT

/-- The settle count S (R118). -/
def State.settle (s : State) (t c : Nat) : Nat :=
  (s.decCfg t c).sF + (if s.on F.DEC_CTRL_DCB_EN (chIx t c) then s.rd F.DEC_DCB_DCB_ACQ (chIx t c) else 0)

/-- The smallest D that the FIR rate limit allows (R112), 4 at least. -/
def DecCfg.minD (x : DecCfg) : Nat :=
  if x.set = 0 then 4 else max 4 (ceilDiv 5120 (x.div * 2 ^ (x.h1 + x.h2) * x.f))

/-- The highest DCB_CORNER, in 0.001 Hz, that R114 allows at the output rate. -/
def DecCfg.maxCorner (x : DecCfg) : Nat := max 1 (min 10000 (16000000000 / x.tOut))

/-- D raised under R112 and DCB_CORNER lowered under R114. -/
def State.decClamp (s : State) (t c : Nat) : State :=
  let i := chIx t c
  let x := s.decCfg t c
  let s := s.wr F.DEC_CTRL_D i (clampN x.minD 4096 (s.rd F.DEC_CTRL_D i))
  s.wr F.DEC_DCB_DCB_CORNER i (clampN 1 (s.decCfg t c).maxCorner (s.rd F.DEC_DCB_DCB_CORNER i))

/-! ### The sample grid -/

/-- Fine units of one sample period. -/
def State.period (s : State) (t c : Nat) : Nat := s.rd F.CH_DIV_DIV (chIx t c) * tickF

/-- The aperture origin, on the tick axis, that R119 gives for alignment second sec: S − Δ, 96 ticks later. -/
def State.gridOf (s : State) (t c sec : Nat) : Int :=
  (sec : Int) * (secF : Int) - ((s.decCfg t c).delta * tickF : Nat) + (96 * tickF : Nat) - (s.tenon t).off

/-- Origin and period of the grid that gives the aperture instants at a: the old one before the first instant of a grid
that has moved (R124). -/
def State.gridAt (s : State) (t c : Nat) (a : Int) : Int × Nat :=
  let x := s.chan (chIx t c)
  match x.oldGrid with
  | some (o, p, w) => if a < (w : Int) then (o, p) else (x.gridOrg, s.period t c)
  | none => (x.gridOrg, s.period t c)

/-- The index of the last aperture instant at or before a. -/
def State.apIndex (s : State) (t c : Nat) (a : Int) : Int :=
  let g := s.gridAt t c a
  (a - g.1) / (g.2 : Int)

/-- The aperture instant of index n of the grid in force at a. -/
def State.apInstant (s : State) (t c : Nat) (a n : Int) : Int :=
  let g := s.gridAt t c a
  g.1 + n * (g.2 : Int)

/-- The newest aperture instant not after a. -/
def State.apAt (s : State) (t c : Nat) (a : Int) : Int := s.apInstant t c a (s.apIndex t c a)

/-- The first aperture instant after a on the newest grid. -/
def State.gridNext (s : State) (t c : Nat) (a : Int) : Nat :=
  let o := (s.chan (chIx t c)).gridOrg
  let p : Int := (s.period t c : Int)
  (o + ((a - o) / p + 1) * p).toNat

/-- The first aperture instant after a. -/
def State.nextAp (s : State) (t c : Nat) (a : Int) : Nat :=
  let n := (s.apInstant t c a (s.apIndex t c a + 1)).toNat
  match (s.chan (chIx t c)).oldGrid with
  | some (_, _, w) => if a < (w : Int) then min n w else n
  | none => n

/-- The Plumb time of the sample of aperture instant a (R43). -/
def State.sampleTime (s : State) (t : Nat) (a : Int) : Int := s.plumbOfTenon t a - (96 * tickF : Nat)

/-! ### Suppression runs -/

/-- Causes of a settle-gap record (R298). -/
def gcRange : Nat := 0
def gcCoupling : Nat := 1
def gcBus : Nat := 2
def gcConfig : Nat := 3
def gcUser : Nat := 4
def gcDcb : Nat := 5
def gcAlign : Nat := 6
def gcExc : Nat := 7

/-- Whether a requirement's change instant lies after the instant a, or is not known yet. -/
def Sup.ahead (x : Sup) (a : Nat) : Bool :=
  match x.change with
  | none => true
  | some e => decide (a < e)

/-- The causes of a list of requirements, one bit each. -/
def supCauses (l : List Sup) : Nat := l.foldl (fun n y => n ||| 2 ^ y.cause) 0

/-- The requirements of a chain that stops: those whose change instant is still ahead stay for its next restart (R37, R129). -/
def State.supKeep (s : State) (i : Nat) : State :=
  s.setChain i { s.chain i with sups := (s.chain i).sups.filter (fun x => x.ahead s.now), runCauses := 0 }

/-- A suppression requirement added with its cause (R127, R128); a further change during a run is one of its causes (R130).
While DEC_EN is 0 only one whose change instant is ahead is kept, for the restart that DEC_EN at 1 brings. -/
def State.addSup (s : State) (i cause : Nat) (x : Sup) : State :=
  let ch := s.chain i
  let y := { x with cause := cause }
  if s.on F.DEC_CTRL_DEC_EN i || y.ahead s.now then
    s.setChain i { ch with
      sups := ch.sups ++ [y], runCauses := if ch.runOpen then ch.runCauses ||| 2 ^ cause else ch.runCauses }
  else s

/-- The DC block made to acquire over DCB_ACQ outputs, after skip outputs, while DCB_EN is 1 (R115). -/
def State.dcbStart (s : State) (i skip : Nat) : State :=
  if s.on F.DEC_CTRL_DCB_EN i then
    let ch := s.chain i
    let n := s.rd F.DEC_DCB_DCB_ACQ i
    s.setChain i { ch with acqSkip := skip, acqLeft := n, acqSum := 0, acqN := n }
  else s

/-- The filters of a chain emptied: every output delivered after a restart is computed from the inputs of its support
(R118, R128), which follow the change. -/
def State.chainEmpty (s : State) (i : Nat) : State :=
  s.setChain i { s.chain i with
    integ := [0, 0, 0, 0, 0], comb := [0, 0, 0, 0, 0], d1 := [], d2 := [], df := [], lastQ1 := none, lastQ2 := none,
    satFrom := none }

/-- A chain restart whose change instant is the aperture instant a (R127, R128). -/
def State.chainRestart (s : State) (t c cause a : Nat) : State :=
  (s.chainEmpty (chIx t c)).addSup (chIx t c) cause { start := a, change := some a }

/-- The change instants that an output at aperture instant a has reached: S outputs are suppressed from it on, counted with
the configuration in force, and the DC block acquires after the S_F among them (R115, R128). -/
def State.supBegin (s : State) (t c a : Nat) : State :=
  let i := chIx t c
  let ch := s.chain i
  let due (x : Sup) : Bool := !x.begun && !x.ahead a
  if ch.sups.any due then
    let n := s.settle t c
    (s.setChain i { ch with sups := ch.sups.map (fun x => if due x then { x with begun := true, left := n } else x) }).dcbStart
      i (s.decCfg t c).sF
  else s

/-- The stream ID of a channel's decimated stream. -/
def decSid (t c : Nat) : Nat := streamId 2 t c

/-- The settle-gap record of the open run, with the first valid output's time or NO_VALID (R130, R298). -/
def State.gapRecord (s : State) (t c : Nat) (valid : Option Int) (stop : Bool) : State :=
  let i := chIx t c
  let ch := s.chain i
  let v := match valid with | none => 0 | some x => plumbWord x
  let r : Rec := {
    ty := tyGap, stream := decSid t c, die := t, bent := c / 8, channel := c, flags := if stop then flStop else 0,
    epoch := s.rd F.CH_EPOCH i, time := ch.runFirst,
    body := [ch.runCount % 2 ^ 32 + ch.runCauses % 256 * 2 ^ 32 + b2n valid.isNone * 2 ^ 40, v % 2 ^ 64, v / 2 ^ 64] }
  let s := s.closeStream (decSid t c) false
  let s := s.setChain i { ch with runOpen := false, runCount := 0, runFirst := 0, runCauses := 0 }
  (s.wr F.DEC_STATUS_GAP i 1).txWhole r

/-- The open run reported with NO_VALID and ended (R130). -/
def State.gapNoValid (s : State) (t c : Nat) (stop : Bool) : State :=
  if (s.chain (chIx t c)).runOpen then s.gapRecord t c none stop else s

/-- Whether a requirement suppresses the output whose n_k has aperture instant a. -/
def Sup.holds (x : Sup) (a : Nat) : Bool :=
  match x.change with
  | none => x.start ≤ a
  | some c => (x.start ≤ a && a < c) || (c ≤ a && 0 < x.left)

/-- A requirement after the output at a, none once it is met. -/
def Sup.after (x : Sup) (a : Nat) : Option Sup :=
  match x.change with
  | none => some x
  | some c => if a < c then some x else if x.left ≤ 1 then none else some { x with left := x.left - 1 }

/-! ### Outputs -/

/-- A decimated word (R275). -/
def decWord (v : Int) (q : Nat) : Nat := ofSigned 30 v * 4 + q

/-- A 32-bit word appended to a body that begins with one 64-bit word and packs two to a word (R291). -/
def packDec (body : List Nat) (items w : Nat) : List Nat :=
  if items % 2 = 0 then body ++ [w] else body.dropLast ++ [body.getLastD 0 + w * 2 ^ 32]

/-- A decimated word delivered in its stream (R275, R282, R291). -/
def State.decDeliver (s : State) (t c : Nat) (k time : Int) (w : Nat) : State :=
  let sid := decSid t c
  let i := chIx t c
  let s : State := match (s.stream sid).cur with
    | some _ => s
    | none => s.openStream {
        ty := tyDec, stream := sid, die := t, bent := c / 8, channel := c, epoch := s.rd F.CH_EPOCH i,
        time := time, hx := ofSigned 32 k, body := [(s.decCfg t c).tOut] } (s.rd F.REC_DEC_DEC_N i)
  s.appendItem sid (fun r => { r with body := packDec r.body r.items w, items := r.items + 1 })

/-- Output k, of value v and quality q, whose n_k has aperture instant a: suppressed or delivered (R128, R130). -/
def State.decOutput (s : State) (t c : Nat) (k time : Int) (a : Nat) (v : Int) (q : Nat) : State :=
  let i := chIx t c
  let ch := s.chain i
  let held := ch.sups.filter (fun x => x.holds a)
  let s := s.setChain i { ch with sups := ch.sups.filterMap (fun x => x.after a) }
  if !s.streaming then s
  else if held ≠ [] then
    let ch := s.chain i
    if ch.runOpen then s.setChain i { ch with runCount := ch.runCount + 1, runCauses := ch.runCauses ||| supCauses held }
    else (s.setChain i { ch with
      runOpen := true, runCount := 1, runFirst := time, runCauses := supCauses held }).closeStream (decSid t c) false
  else
    let s := if (s.chain i).runOpen then s.gapRecord t c (some time) false else s
    s.decDeliver t c k time (decWord v q)

/-! ### The stages -/

/-- v as the signed value of its low 84 bits (the width of stage 1). -/
def wrap84 (v : Int) : Int := toSigned 84 (ofSigned 84 v)

/-- The integrators after input x. -/
def integrate (x : Int) : List Int → List Int
  | [] => []
  | a :: l => let y := wrap84 (a + x); y :: integrate y l

/-- The combs on input x: their new memories and the result. -/
def combs (x : Int) : List Int → List Int × Int
  | [] => ([], x)
  | a :: l => let (m, y) := combs (wrap84 (x - a)) l; (x :: m, y)

/-- A sum of products of taps, the newest first, with a delay line. -/
def firSum (tap : Nat → Int) (n : Nat) (line : List Int) : Int :=
  ((List.range n).map (fun i => tap i * line.getD i 0)).sum

/-- The half of a symmetric filter of 2h + 1 taps of w bits, the middle tap first, from the part's taps f: its DC gain is
unity, the sum being 2^(w-1). Taps that do not give that sum, or do not fit w bits, are no filter of this part; the filter of
five taps that stands in their place keeps the DC gain (log entry 4). -/
def unityHalf (w h : Nat) (f : Nat → Int) : List Int :=
  let l := (List.range (h + 1)).map f
  if l.all (fun v => decide (satS v w = v)) && l.headD 0 + 2 * (l.drop 1).sum == 2 ^ (w - 1) then l
  else (List.range (h + 1)).map (fun j => if j = 0 then 2 ^ (w - 2) else if j < 3 then 2 ^ (w - 4) else 0)

/-- Tap i of a symmetric filter whose half, the middle tap first, is l. -/
def symTap (l : List Int) (i : Nat) : Int :=
  let h := l.length - 1
  if i ≤ h then l.getD (h - i) 0 else l.getD (i - h) 0

/-- Taps less one, halved, of HB1 (which 0) and HB2 (which 1). -/
def hbHalf (which : Nat) : Nat := if which = 0 then 13 else 23

/-- Tap i of HB1 (which 0, 27 taps) or HB2 (which 1, 47 taps): symmetric, 18 bits, unity DC gain (R108). -/
def hbCoef (which i : Nat) : Int := symTap (unityHalf 18 (hbHalf which) (Config.hbTap which)) i

/-- Tap i of built-in set s: symmetric, Q1.23, unity DC gain; taps from N upwards are zero (R109). -/
def firCoef (s i : Nat) : Int := symTap (unityHalf 24 (firTaps s / 2) (Config.firTap s)) i

/-- ceil(5 × log2 D). -/
def cicBits (d : Nat) : Nat := Nat.log2 (d ^ 5 - 1) + 1

/-- The fixed shift of the CIC stage (R107). -/
def cicShift (d : Nat) : Nat := cicBits d - 16

/-- A stage's shift, rounding and saturation: the result and whether it saturated (R106). -/
def stageOut (v : Int) (sh w : Nat) : Int × Bool :=
  let y := rhu v sh
  (satS y w, satS y w != y)

/-- The DC-block coefficient a (R113), pi to 39 decimals. -/
def dcbCoef (corner tOut : Nat) : Nat :=
  let p : Int := 3141592653589793238462643383279502884197
  max 1 (divHalfUp (2 * p * ((corner * tOut * 2 ^ 32 : Nat) : Int)) (10 ^ 39 * 1000 * 1600000000)).toNat

/-- The state after a stage result that saturated: the flag of DEC_STATUS and the start of its input window. -/
def State.noteSat (s : State) (i : Nat) (sat : Bool) (from_ : Int) : State :=
  if sat then
    let ch := s.chain i
    let m := match ch.satFrom with | none => from_ | some x => max x from_
    (s.setChain i { ch with satFrom := some m }).wr F.DEC_STATUS_SAT i 1
  else s

/-- Stage 5 on the FIR-stage output x: the DC block's acquisition or recursion (R113, R115, R116). The result is
stage 5's output before the shift. -/
def State.dcBlock (s : State) (t c : Nat) (x : Int) : Int × State :=
  let i := chIx t c
  let ch := s.chain i
  if !s.on F.DEC_CTRL_DCB_EN i then (x, s)
  else if 0 < ch.acqSkip then (x, s.setChain i { ch with acqSkip := ch.acqSkip - 1 })
  else if 0 < ch.acqLeft then
    let sum := ch.acqSum + x
    if ch.acqLeft = 1 then
      (x, s.setChain i { ch with acqLeft := 0, acqSum := 0, m := divHalfUp sum (max 1 ch.acqN) * 2 ^ 32 })
    else (x, s.setChain i { ch with acqLeft := ch.acqLeft - 1, acqSum := sum })
  else
    let y := satS (x - rhu ch.m 32) 41
    let a := dcbCoef (s.rd F.DEC_DCB_DCB_CORNER i) (s.decCfg t c).tOut
    let m := if s.on F.DEC_CTRL_DCB_FREEZE i then ch.m else ch.m + rhu ((a : Int) * (x * 2 ^ 32 - ch.m)) 32
    (y, s.setChain i { ch with m := m })

/-- The chain's result at a FIR-stage output: stage 5, the output shift, the quality of R131, delivery. -/
def State.chainOut (s : State) (t c : Nat) (x : DecCfg) (n : Int) (a : Nat) (tp : Int) (y4 : Int) : State :=
  let i := chIx t c
  let (y5, s) := (s.supBegin t c a).dcBlock t c y4
  let (v, sat) := stageOut y5 (s.rd F.DEC_SHIFT_SH4 i) 30
  let lo := n - (x.lM1 : Int)
  let s := s.noteSat i sat lo
  let ch := s.chain i
  let within (o : Option Int) : Bool := match o with | none => false | some j => lo ≤ j
  let q := if within ch.lastQ1 || within ch.satFrom then 1 else if within ch.lastQ2 then 2 else 0
  s.decOutput t c ((n - (x.gCeil : Int)) / (x.dT : Int)) (tp - (x.gFine : Int)) a v q

/-- The FIR stage on its input y3. -/
def State.firStage (s : State) (t c : Nat) (x : DecCfg) (n : Int) (a : Nat) (tp y3 : Int) : State :=
  let i := chIx t c
  let ph := n - (x.gCeil : Int)
  if x.set = 0 then s.chainOut t c x n a tp (stageOut y3 (s.rd F.DEC_SHIFT_SH3 i) 40).1
  else
    let ch := s.chain i
    let line := (y3 :: ch.df).take 128
    let s := s.setChain i { ch with df := line }
    if ph % (x.dT : Int) ≠ 0 then s
    else
      let u := s.userSet t (x.set - 16)
      let tap (j : Nat) : Int := if x.set < 16 then firCoef x.set j else toSigned 24 (u.coef.getD j 0)
      let (y4, sat) := stageOut (firSum tap x.n line) (23 + s.rd F.DEC_SHIFT_SH3 i) 40
      (s.noteSat i sat (n - (x.lM1 : Int))).chainOut t c x n a tp y4

/-- The second half-band on its input y2. -/
def State.hb2Stage (s : State) (t c : Nat) (x : DecCfg) (n : Int) (a : Nat) (tp y2 : Int) : State :=
  let i := chIx t c
  if x.h2 = 0 then s.firStage t c x n a tp y2
  else
    let ch := s.chain i
    let line := (y2 :: ch.d2).take 47
    let s := s.setChain i { ch with d2 := line }
    if (n - (x.gCeil : Int)) % (x.dh : Int) ≠ 0 then s
    else
      let (y3, sat) := stageOut (firSum (hbCoef 1) 47 line) (17 + s.rd F.DEC_SHIFT_SH2 i) 40
      let lo := n - ((5 * (x.d - 1) + 26 * x.d * x.h1 + 46 * x.d * 2 ^ x.h1 : Nat) : Int)
      (s.noteSat i sat lo).firStage t c x n a tp y3

/-- The first half-band on its input y1. -/
def State.hb1Stage (s : State) (t c : Nat) (x : DecCfg) (n : Int) (a : Nat) (tp y1 : Int) : State :=
  let i := chIx t c
  if x.h1 = 0 then s.hb2Stage t c x n a tp y1
  else
    let ch := s.chain i
    let line := (y1 :: ch.d1).take 27
    let s := s.setChain i { ch with d1 := line }
    if (n - (x.gCeil : Int)) % ((2 * x.d : Nat) : Int) ≠ 0 then s
    else
      let (y2, sat) := stageOut (firSum (hbCoef 0) 27 line) (17 + s.rd F.DEC_SHIFT_SH1 i) 40
      let lo := n - ((5 * (x.d - 1) + 26 * x.d : Nat) : Int)
      (s.noteSat i sat lo).hb2Stage t c x n a tp y2

/-- The chain's input v of quality q at index n, aperture instant a and Plumb time tp (R104, R105, R119). -/
def State.chainInput (s : State) (t c : Nat) (n : Int) (a : Nat) (tp v : Int) (q : Nat) : State :=
  let i := chIx t c
  if !s.on F.DEC_CTRL_DEC_EN i then s
  else
    let x := s.decCfg t c
    let ch := s.chain i
    let integ := integrate v ch.integ
    let ch := { ch with
      integ := integ
      lastQ1 := if q = 1 then some n else ch.lastQ1
      lastQ2 := if q = 2 then some n else ch.lastQ2 }
    if (n - (x.gCeil : Int)) % (x.d : Int) ≠ 0 then s.setChain i ch
    else
      let (comb, cic) := combs (integ.getLastD 0) ch.comb
      let (y1, sat) := stageOut cic (cicShift x.d + s.rd F.DEC_SHIFT_SH0 i) 40
      let s := s.setChain i { ch with comb := comb }
      (s.noteSat i sat (n - ((5 * (x.d - 1) : Nat) : Int))).hb1Stage t c x n a tp y1

end Sys2Proof.Machine
end

