-- ==== Sys2Proof/Machine/Ecc.lean ====
section
/-! DEFINITION. Reading and writing words of the protected memories, which may hold flipped bits (R320, R321). -/

namespace Sys2Proof.Machine

open Sys2Proof

/-- What a read outcome counts and sets (R320, R321): a corrected word waits for its write-back. -/
def State.memCount (s : State) (m a : Nat) (o : EccOut) : State := memCountW State.raise s m a o

/-- A sticky bit of MEM_STATUS set for memory m (R335). -/
def State.memStick (s : State) (f : Fld) (bit m : Nat) : State := memStickW State.raise s f bit m

/-- Word a of memory m, which should hold d, read with correction: the data, whether it can be used, and the state
with the counters. -/
def State.memRead (s : State) (m a d : Nat) : Nat × Bool × State :=
  match smapGet 0 s.pool.flips (flipKey m a) with
  | 0 => (d, true, s)
  | f =>
    let (d', o) := eccDecode (eccEncode d a ^^^ f) a
    (d', o != .addrFault && o != .uncorr, s.memCount m a o)

/-- Word a of memory m as it would be delivered, uncounted, and whether it can be used. -/
def State.memLook (s : State) (m a d : Nat) : Nat × Bool :=
  match smapGet 0 s.pool.flips (flipKey m a) with
  | 0 => (d, true)
  | f =>
    let (d', o) := eccDecode (eccEncode d a ^^^ f) a
    (d', o != .addrFault && o != .uncorr)

/-- The flipped bits that the word at address a, with flipped bits f, holds once it is written back as the decoder corrects it:
none, or those between its code word and the other one that the decoder took it for (R320). -/
def flipsLeft (a f : Nat) : Nat :=
  let (d, o) := eccDecode (eccEncode 0 a ^^^ f) a
  if o = .single ∨ o = .double then eccEncode d a ^^^ eccEncode 0 a else f

/-- Word a of memory m, found correctable, written back as corrected (R320). -/
def State.memCorrected (s : State) (m a : Nat) : State :=
  { s with pool := { s.pool with
      flips := smapSet 0 s.pool.flips (flipKey m a) (flipsLeft a (smapGet 0 s.pool.flips (flipKey m a)))
      wb := s.pool.wb.filter (fun k => k != flipKey m a) } }

/-- Word a of memory m written: it holds no flipped bit any more. -/
def State.memWritten (s : State) (m a : Nat) : State :=
  { s with pool := { s.pool with
      flips := smapSet 0 s.pool.flips (flipKey m a) 0
      wb := s.pool.wb.filter (fun k => k != flipKey m a) } }

/-- Every word of memory m filled with valid zero words (R327, R328). -/
def State.memFilled (s : State) (m : Nat) : State :=
  { s with pool := { s.pool with
      flips := smapDrop s.pool.flips (fun k => k / 2 ^ 24 == m)
      wb := s.pool.wb.filter (fun k => k / 2 ^ 24 != m) } }

end Sys2Proof.Machine
end

