-- ==== Sys2Proof/Machine/Capture.lean ====
section
/-! DEFINITION. Triggered segmented capture (05_segmented_capture.md): allotment and geometry, triggers, segments,
their storage and their read-out. -/

namespace Sys2Proof.Machine

open Sys2Proof

/-! ### Allotment and geometry -/

/-- Pages owned by channels 0 to c − 1 of Tenon t (R133). -/
def State.firstPage (s : State) (t : Nat) : Nat → Nat
  | 0 => 0
  | c + 1 => s.firstPage t c + s.rd F.CAP_PAGES_PAGES (chIx t c)

/-- A, in stored values (R135). -/
def State.allot (s : State) (i : Nat) : Nat :=
  s.rd F.CAP_PAGES_PAGES i * (if s.rd F.CAP_CTRL_AVG i = 0 then 1024 else 512)

/-- The nearest multiple of 4, ties upward (R136). -/
def round4 (v : Nat) : Nat := (v + 2) / 4 * 4

/-- L, P, POST and N_SEG clamped in that order against an allotment (R136). -/
def geomClamp (a l p post n : Nat) : Nat × Nat × Nat × Nat :=
  let l := clampN 16 a (round4 l)
  let p := clampN 0 (l - 16) (round4 p)
  let post := clampN 4 (l - p) (round4 post)
  (l, p, post, clampN 1 (min 1024 (a / l)) n)

/-- The geometry of a channel written: L, P, POST and N_SEG. -/
def State.setGeom (s : State) (i : Nat) (g : Nat × Nat × Nat × Nat) : State :=
  (((s.wr F.CAP_LEN_L i g.1).wr F.CAP_PRE_P i g.2.1).wr F.CAP_POST_POST i g.2.2.1).wr F.CAP_NSEG_N_SEG i g.2.2.2

/-- The geometry in force clamped again (R137), or the kept values unseen while PAGES is 0 (R138). -/
def State.reclamp (s : State) (i : Nat) : State :=
  let l := s.rd F.CAP_LEN_L i
  let p := s.rd F.CAP_PRE_P i
  let post := s.rd F.CAP_POST_POST i
  let n := s.rd F.CAP_NSEG_N_SEG i
  let k := s.cap i
  if s.rd F.CAP_PAGES_PAGES i = 0 then
    if l = 0 then s
    else (s.setCap i { k with keptL := l, keptP := p, keptPost := post, keptN := n }).setGeom i (0, 0, 0, 0)
  else if l = 0 then s.setGeom i (geomClamp (s.allot i) k.keptL k.keptP k.keptPost k.keptN)
  else s.setGeom i (geomClamp (s.allot i) l p post n)

/-- The capture STATE values (R154). -/
def csStopped : Nat := 0
def csPrefill : Nat := 1
def csArmed : Nat := 2
def csCapturing : Nat := 3

/-- The channel's STATE. -/
def State.capState (s : State) (i : Nat) : Nat := s.rd F.CAP_STATE_STATE i

/-- The stored segments of a channel discarded, and the values it holds (R134, R154, R162). Triggers that have reached it and name
a value still to come wait on. -/
def State.capEmpty (s : State) (i : Nat) : State :=
  s.setCap i { s.cap i with
    segs := [], cur := none, curLeft := 0, reads := [], lastEnd := none, lastTrig := none, hist := [], nvals := 0, accOpen := false,
    accTrig := none, fresh := false, gone := none }

/-- Stored segments discarded and STATE stopped (R134, R162). -/
def State.capDiscard (s : State) (i : Nat) : State := (s.capEmpty i).wr F.CAP_STATE_STATE i csStopped

/-- The channels below c of a Tenon whose first page or allotment changed between two states discarded, and their
geometry clamped (R134, R137). -/
def State.reallot (before : State) (t : Nat) : Nat → State → State
  | 0, s => s
  | c + 1, s =>
    let i := chIx t c
    let s := before.reallot t c s
    if before.firstPage t c != s.firstPage t c || before.rd F.CAP_PAGES_PAGES i != s.rd F.CAP_PAGES_PAGES i
        || before.allot i != s.allot i then (s.capDiscard i).reclamp i
    else s

/-- The pages of the other channels of the Tenon. -/
def State.otherPages (s : State) (t c : Nat) : Nat := s.firstPage t 128 - s.rd F.CAP_PAGES_PAGES (chIx t c)

/-- PAGES and AVG of a channel set, clamped, with what follows for every channel (R134, R137, R138). -/
def State.setAllot (s : State) (t c pages avg : Nat) : State :=
  let i := chIx t c
  let pages := min pages (2048 - s.otherPages t c)
  let avg := min avg 8
  if pages = s.rd F.CAP_PAGES_PAGES i && avg = s.rd F.CAP_CTRL_AVG i then s
  else s.reallot t 128 ((s.wr F.CAP_PAGES_PAGES i pages).wr F.CAP_CTRL_AVG i avg)

/-! ### Events -/

/-- The DETAIL of a channel event (R60): channel, register, regression unit, the sticky bit that rose. -/
def chDetail (c reg unit bit : Nat) : Nat := c + reg * 2 ^ 8 + unit * 2 ^ 16 + 2 ^ (24 + bit)

/-- The channel event source of the bent of channel c (R60). -/
def chSource (t c : Nat) : Nat := 96 + 32 * t + c / 8

/-- Sticky bit n of CAP_STATUS set (R163). -/
def State.capStick (s : State) (t c : Nat) (f en : Fld) (bit : Nat) : State :=
  s.stick f (chIx t c) (s.on en (chIx t c)) (chSource t c) (chDetail c 1 0 bit)

def State.capDone (s : State) (t c : Nat) : State := s.capStick t c F.CAP_STATUS_DONE F.CAP_EVENT_EN_EV_DONE 0
def State.capMissed (s : State) (t c : Nat) : State := s.capStick t c F.CAP_STATUS_MISSED F.CAP_EVENT_EN_EV_MISSED 1
def State.capTrunc (s : State) (t c : Nat) : State := s.capStick t c F.CAP_STATUS_TRUNC F.CAP_EVENT_EN_EV_TRUNC 2
def State.capEcc (s : State) (t c : Nat) : State := s.capStick t c F.CAP_STATUS_ECC F.CAP_EVENT_EN_EV_ECC 3

/-! ### Storage -/

/-- Words of segment memory in a Tenon. -/
def segWords : Nat := 524288

/-- Word w of the segment memory of Tenon t. -/
def State.segWord (s : State) (t w : Nat) : Nat := smapGet 0 s.segMem (t * segWords + w)

/-- Bits of a word of the segment memory written. -/
def State.segPut (s : State) (t w lo n v : Nat) : State :=
  ({ s with segMem := smapSet 0 s.segMem (t * segWords + w) (setBitsAt (s.segWord t w) lo n v) }).memWritten (memSeg t) w

/-- The first word of a slot of channel c (R161). -/
def State.slotWord (s : State) (t c slot avg : Nat) : Nat :=
  s.firstPage t c * 256 + slot * (s.rd F.CAP_LEN_L (chIx t c) / (if avg = 0 then 4 else 2))

/-- Value j of the slot that begins at a word stored: in a quad word while AVG is 0, in a pair word otherwise (R135, R273, R274).
The first value of a word writes all of it. -/
def State.storeVal (s : State) (t base avg j : Nat) (v : Int) (q : Nat) : State :=
  let per := if avg = 0 then 4 else 2
  let w := base + j / per
  let s := if j % per = 0 then s.segPut t w 0 64 0 else s
  if avg = 0 then (s.segPut t w (14 * (j % 4)) 14 (ofSigned 14 v)).segPut t w (56 + 2 * (j % 4)) 2 q
  else (s.segPut t w (8 + 28 * (j % 2)) 28 (ofSigned 28 v)).segPut t w (2 * (j % 2)) 2 q

/-- Values stored one after another from value j of a slot. -/
def State.storeVals (s : State) (t base avg j : Nat) : List Val → State
  | [] => s
  | v :: l => (s.storeVal t base avg j v.v v.q).storeVals t base avg (j + 1) l

/-! ### Segments -/

/-- The 0.8 µs after a segment's last value (R150). -/
def rearmGap : Int := 655360

/-- The segment in progress complete, in full or truncated (R151, R155, R156): it is kept, numbered in STREAM mode,
and the channel stops, re-arms or collects pre-trigger values again. -/
def State.segComplete (s : State) (t c : Nat) (trunc : Bool) (endTime : Int) : State :=
  let i := chIx t c
  let k := s.cap i
  match k.cur with
  | none => s
  | some g =>
    let stream := s.rd F.CAP_CTRL_MODE i = 1
    let g := { g with truncated := trunc, num := if stream then k.nextNum else g.num }
    let s := s.setCap i { k with
      cur := none, curLeft := 0, segs := k.segs ++ [g],
      nextNum := if stream then (k.nextNum + 1) % 1024 else k.nextNum, rearm := endTime + rearmGap,
      lastEnd := some (g.first + g.count - 1), lastStart := g.first }
    let s := if trunc then s.capTrunc t c else s
    if !stream && g.num + 1 ≥ s.rd F.CAP_NSEG_N_SEG i then (s.wr F.CAP_STATE_STATE i csStopped).capDone t c
    else if trunc then s
    else s

/-- STATE at the start of a collection of P values: pre-fill, which is over at once where P is 0. -/
def State.capFill (s : State) (i : Nat) : State :=
  s.wr F.CAP_STATE_STATE i (if s.rd F.CAP_PRE_P i = 0 then csArmed else csPrefill)

/-- The first value after CAPTURE_ARM (R154). -/
def State.capBegin (s : State) (i : Nat) : State := (s.setCap i { s.cap i with fresh := false }).capFill i

/-- The channel collecting its first P values again (R151). The values it held are gone. -/
def State.capPrefill (s : State) (i : Nat) : State :=
  let k := s.cap i
  let s := s.setCap i { k with
    gone := (match k.hist.head? with | some v => some v.time | none => k.gone), hist := [], nvals := 0, accSum := 0, accN := 0
    accQ := [], accOpen := false, accTrig := none, lastEnd := none, lastTrig := none }
  if s.capState i = csStopped || k.fresh then s else s.capFill i

/-- A move of the sample grid, ENABLE to 0, a step of Plumb time or a new calibration epoch (R281): the segment in progress
ends at the last value stored, with TRUNCATED, and the channel collects pre-trigger values again (R151, R265). -/
def State.capCut (s : State) (t c : Nat) : State :=
  let i := chIx t c
  let k := s.cap i
  let s : State := match k.cur with
    | none => s
    | some _ => s.segComplete t c true ((k.hist.head?.map (fun (v : Val) => v.time)).getD 0)
  s.capPrefill i

/-- A refused trigger: BLIND or BUSY counted, MISSED set, the next segment marked (R141, R145, R156). -/
def State.refuseTrig (s : State) (t c : Nat) (busy : Bool) : State :=
  let i := chIx t c
  let s := if busy then s.countUp F.CAP_COUNT_BUSY i 1 32767 else s.countUp F.CAP_COUNT_BLIND i 1 65535
  (s.setCap i { s.cap i with missed := true }).capMissed t c

/-- Slots of the channel in use: those of unsent segments in STREAM mode. -/
def Cap.busySlots (k : Cap) : List Nat := k.segs.map (·.slot)

/-- The first slot below n not in use. -/
def freeSlot (used : List Nat) : Nat → Nat → Option Nat
  | 0, _ => none
  | n + 1, b => if used.contains b then freeSlot used n (b + 1) else some b

/-- Fine units of 100 ns. -/
def ns100 : Int := 81920

/-- Whether a stamp of polarity pol (1 falling) matches EDGE (R148). -/
def edgeMatches (edge pol : Nat) : Bool := edge = 2 || edge = pol

/-- A segment's fine time taken from the channel's recent stamps (R148). -/
def takeFine (g : Seg) (stamps : List (Int × Nat × Nat)) : Seg :=
  match g.fine with
  | some _ => g
  | none =>
    match stamps.find? (fun x => decide (g.fineFrom ≤ x.1) && decide (x.1 ≤ g.fineTo) && edgeMatches g.fineEdge x.2.1) with
    | some x => { g with fine := some x.1, fineFlags := x.2.2 }
    | none => g

/-- A refused trigger counted n times. -/
def State.refuseN (s : State) (t c : Nat) : Nat → State
  | 0 => s
  | n + 1 => (s.refuseTrig t c false).refuseN t c n

/-- Values in one part of a segment record: 512 words (R159). -/
def partVals (avg : Nat) : Nat := if avg = 0 then 2048 else 1024

/-- Whether the first value of each part that a segment's first values begin was stamped without synchronisation
(R283). -/
def partUns (avg : Nat) (vals : List Val) : List Bool :=
  (List.range (ceilDiv vals.length (partVals avg))).map
    (fun p => ((vals[p * partVals avg]?).map (fun (v : Val) => v.uns)).getD false)

/-- The trigger on the value that newer stored values follow accepted, and the segment begun in a slot (R145 to R149).
rawTime and prev are the times of the sample that triggered and of the one before it; fine tells whether a fine time
is looked for. Triggers that still wait for a later value are refused (R146). -/
def State.acceptTrig (s : State) (t c newer slot : Nat) (rawTime prev : Int) (pos : Nat) (fine : Bool) : State :=
  let i := chIx t c
  let k := s.cap i
  let p := s.rd F.CAP_PRE_P i
  let total := p + s.rd F.CAP_POST_POST i
  let avg := s.rd F.CAP_CTRL_AVG i
  let vals := ((k.hist.take (newer + 1 + p)).reverse).take total
  let first := k.nvals - (newer + 1) - p
  let lap := match k.lastEnd with | none => 0 | some e => min (e + 1 - first) (e + 1 - k.lastStart)
  let wantFine := fine && s.on F.CAP_CTRL_FINE_EN i && s.on F.CH_DISC_DISC_EN i
  let g : Seg := {
    num := k.segs.length, slot := slot, base := s.slotWord t c slot avg, time := rawTime, pos := pos, overlap := lap,
    first := first, missed := k.missed,
    pre := p, count := vals.length, avg := avg, div := s.rd F.CH_DIV_DIV i, epoch := s.rd F.CH_EPOCH i,
    uns := partUns avg vals,
    fineEdge := if wantFine then s.rd F.CAP_CTRL_EDGE i else 3, fineFrom := prev - ns100, fineTo := rawTime + ns100 }
  let g := takeFine g k.stamps
  let others := k.waiting.length + b2n k.force
  let s := s.setCap i { k with
    cur := some g, curLeft := total - vals.length, missed := false, waiting := [], force := false,
    lastTrig := some (k.nvals - (newer + 1)) }
  let s := (s.storeVals t g.base avg 0 vals).wr F.CAP_STATE_STATE i csCapturing
  let s := if total ≤ vals.length then
      s.segComplete t c false ((vals.getLast?.map (fun (v : Val) => v.time)).getD rawTime) else s
  let s := if s.on F.DORM_CFG_TRIG_WAKE 0 && s.keptBent (bentIx t (c / 8)) then s.wakeBegin else s
  s.refuseN t c others

/-- Whether a trigger on the value newer values before the newest may be accepted now (R145). -/
def State.trigAllowed (s : State) (i newer : Nat) (time : Int) : Bool :=
  let k := s.cap i
  (s.capState i == csArmed) && decide (k.rearm ≤ time) && decide (s.rd F.CAP_PRE_P i + newer < k.nvals)

/-- A trigger judged on the value newer values before the newest: absorbed, accepted, or refused (R145, R146, R156).
The answer tells whether it was accepted. -/
def State.judge (s : State) (t c newer : Nat) (time rawTime prev : Int) (pos : Nat) (fine : Bool) : Bool × State :=
  let i := chIx t c
  let k := s.cap i
  if k.lastTrig == some (k.nvals - (newer + 1)) then (false, s)
  else if s.trigAllowed i newer time then
    let slot? := if s.rd F.CAP_CTRL_MODE i = 1 then freeSlot k.busySlots (s.rd F.CAP_NSEG_N_SEG i) 0 else some k.segs.length
    match slot? with
    | none => (false, s.refuseTrig t c true)
    | some slot => (true, s.acceptTrig t c newer slot rawTime prev pos fine)
  else (false, s.refuseTrig t c false)

/-! ### Values and triggers -/

/-- The bent's cross-trigger fired by a channel of the bent (R141): it is on its way to the other channels with SRC_BENT at 1.
xtrig lists the bent's last 16 fires, newest last. -/
def State.fireCross (s : State) (t c : Nat) (time : Int) : State :=
  let b := bentIx t (c / 8)
  let s := (List.range 8).foldl (fun s k =>
    let i := chIx t (c / 8 * 8 + k)
    if i = chIx t c || !s.on F.CAP_CTRL_SRC_BENT i then s
    else s.setCap i { s.cap i with xtPend := (s.cap i).xtPend ++ [time] }) s
  { s with xtrig := smapSet [] s.xtrig b ((smapGet [] s.xtrig b ++ [time]).drop ((smapGet [] s.xtrig b).length - 15)) }

/-- A new stored value: the segment in progress takes it, or a trigger that names it is judged. trig is the level or
forced trigger that fell on it, with the time and position of the sample that triggered; own tells that it was a
level or forced trigger of this channel. -/
def State.newValue (s : State) (t c : Nat) (time prev : Int) (v : Int) (q : Nat) (uns : Bool) (trig : Option (Int × Nat)) :
    State :=
  let i := chIx t c
  let k := s.cap i
  let s := s.setCap i { k with
    hist := ({ time := time, idx := k.nvals, v := v, q := q, uns := uns } :: k.hist).take (s.rd F.CAP_LEN_L i + 1),
    nvals := k.nvals + 1 }
  -- the segment in progress
  let s : State := match k.cur with
    | none => s
    | some g =>
      let s := s.storeVal t g.base g.avg g.count v q
      let k := s.cap i
      let g := { g with uns := if g.count % partVals g.avg = 0 then g.uns ++ [uns] else g.uns }
      let s := s.setCap i { k with cur := some { g with count := g.count + 1 }, curLeft := k.curLeft - 1 }
      if k.curLeft ≤ 1 then s.segComplete t c false time else s
  -- the end of pre-fill and of the blind span
  let k := s.cap i
  let s := if s.capState i = csCapturing && k.cur.isNone && decide (k.rearm ≤ time) then s.wr F.CAP_STATE_STATE i csArmed else s
  let s := if s.capState i = csPrefill && decide (s.rd F.CAP_PRE_P i < k.nvals) then s.wr F.CAP_STATE_STATE i csArmed else s
  -- waiting cross-triggers and Plumb-timed triggers that name this value
  let due := k.waiting.filter (fun w => decide (w.at_ ≤ time))
  let s := s.setCap i { s.cap i with waiting := k.waiting.filter (fun w => decide (time < w.at_)) }
  -- a timed trigger names the first sample of the value, before a level trigger on a later one
  let trig := trig.filter (fun x => due.isEmpty || x.2 == 0)
  let s : State := match trig with
    | none => if due.isEmpty then s else (s.judge t c 0 time time prev 0 false).2
    | some (rawTime, pos) =>
      let (ok, s) := s.judge t c 0 time rawTime (if pos = 0 then prev else rawTime - (s.period t c : Int)) pos true
      if ok && s.on F.CAP_CTRL_XT_OUT i then s.fireCross t c time else s
  let n := (s.cap i).nvals
  if s.capState i = csPrefill && decide (s.rd F.CAP_PRE_P i ≤ n) then s.wr F.CAP_STATE_STATE i csArmed else s

/-- Whether a raw sample crosses LEVEL as EDGE asks (R139), given the hysteresis conditions met before. -/
def State.levelHit (s : State) (i : Nat) (v : Int) : Bool :=
  let k := s.cap i
  let lvl := s.rdS F.CAP_LEVEL_LEVEL i
  let e := s.rd F.CAP_CTRL_EDGE i
  (e != 1 && k.metLo && decide (lvl ≤ v)) || (e != 0 && k.metHi && decide (v ≤ lvl))

/-- The hysteresis conditions after a raw sample (R139, R140): a crossing consumes the condition it used. -/
def State.hysteresis (s : State) (i : Nat) (v : Int) (q : Nat) (hit : Bool) : State :=
  let k := s.cap i
  let lvl := s.rdS F.CAP_LEVEL_LEVEL i
  let h : Int := (s.rd F.CAP_LEVEL_HYST i : Nat)
  let e := s.rd F.CAP_CTRL_EDGE i
  if q = 3 then s.setCap i { k with metLo := false, metHi := false }
  else
    let lo := e != 1 && decide (v ≤ lvl - h)
    let hi := e != 0 && decide (lvl + h ≤ v)
    if lo then s.setCap i { k with metLo := true, metHi := hi }
    else if hi then s.setCap i { k with metLo := false, metHi := true }
    else if hit then s.setCap i { k with metLo := false, metHi := false }
    else s

/-- The quality of an averaged value: the first applicable in the order 1, 3, 2, 0 (R152). -/
def worstQ (l : List Nat) : Nat := if l.contains 1 then 1 else if l.contains 3 then 3 else if l.contains 2 then 2 else 0

/-- A raw sample of the channel: index n on its grid, Plumb time, code, quality (R139 to R153). -/
def State.captureSample (s : State) (t c : Nat) (n : Int) (tp : Int) (v : Int) (q : Nat) : State :=
  let i := chIx t c
  let cross := q != 3 && s.levelHit i v
  let s := s.hysteresis i v q cross
  let hit := cross && s.on F.CAP_CTRL_SRC_LEVEL i
  let k := s.cap i
  let prev := k.prevTime
  let s := s.setCap i { k with prevTime := tp }
  let avg := s.rd F.CAP_CTRL_AVG i
  let first := avg = 0 || n % ((2 ^ avg : Nat) : Int) == 0
  if k.fresh && !first then s
  else if !k.fresh && s.capState i = csStopped then
    -- no trigger is accepted here (R145)
    let due := k.waiting.any (fun w => decide (w.at_ ≤ tp))
    let s := s.setCap i { s.cap i with force := false, waiting := k.waiting.filter (fun w => decide (tp < w.at_)) }
    if due || k.force || hit then s.refuseTrig t c false else s
  else
    let s := if k.fresh then s.capBegin i else s
    let k := s.cap i
    if avg = 0 then
      let trig := if hit || k.force then some (tp, 0) else none
      (s.setCap i { k with force := false }).newValue t c tp prev v q s.unsync trig
    else
      let start := first
      if !start && !k.accOpen then s
      else
        let k := if start then
            { k with accSum := 0, accN := 0, accQ := [], accTime := tp, accUns := s.unsync, accOpen := true,
                     accTrig := if k.force then some (tp, 0, true) else none, force := false }
          else k
        let k := { k with
          accSum := k.accSum + v, accQ := k.accQ ++ [q], accN := k.accN + 1,
          accTrig := match k.accTrig with
            | some x => some x
            | none => if hit then some (tp, k.accN, false) else none }
        if k.accN < 2 ^ avg then s.setCap i k
        else
          (s.setCap i { k with accOpen := false, accTrig := none }).newValue t c k.accTime (k.accTime - (s.period t c : Int))
            k.accSum (worstQ k.accQ) k.accUns (k.accTrig.map (fun x => (x.1, x.2.1)))

/-- A trigger at Plumb time T that reaches the channel by cross-trigger or fabric: judged, waiting for its value, or too late
(R141 to R146, R154). The answer tells whether it was too late. A value taken before a CAPTURE_ARM is judged against the STATE
before it: had that accepted it, its segment would be discarded with the others. One taken before a grid move, or before ENABLE
was 0, is no longer held. -/
def State.timedTrig (s : State) (t c : Nat) (at_ : Int) : Bool × State :=
  let i := chIx t c
  let k := s.cap i
  let wait := s.setCap i { k with waiting := k.waiting ++ [{ at_ := at_ }] }
  let newer := (k.hist.takeWhile (fun v => decide (at_ ≤ v.time))).length
  if (k.fresh || newer = k.nvals) && k.armPrev.any (fun b => decide (at_ ≤ b)) then
    (false, if k.prior = csArmed then s else s.refuseTrig t c false)
  else if k.fresh then (false, wait)
  else if s.capState i = csStopped then (false, if at_ ≤ k.prevTime then s.refuseTrig t c false else wait)
  else if newer = k.nvals && k.gone.any (fun b => decide (at_ ≤ b)) then (true, s)
  else if newer ≠ 0 ∧ s.rd F.CAP_LEN_L i < newer + s.rd F.CAP_PRE_P i then (true, s)
  else if k.cur.isSome then
    (false, if newer ≠ 0 ∧ k.lastTrig = some (k.nvals - newer) then s else s.refuseTrig t c false)
  else if newer = 0 then (false, wait)
  else
    match k.hist[newer - 1]? with
    | none => (true, s)
    | some v => (false, (s.judge t c (newer - 1) v.time v.time (v.time - (s.period t c : Int)) 0 false).2)

/-! ### Reading out -/

/-- Words of a segment: quad words or pair words. -/
def Seg.wordCount (g : Seg) : Nat := ceilDiv g.count (if g.avg = 0 then 4 else 2)

/-- Parts of a segment: at most 512 words each (R159). -/
def Seg.parts (g : Seg) : Nat := max 1 (ceilDiv g.wordCount 512)

/-- n words of the segment memory of Tenon t from word w, read with correction; none where a word is uncorrectable. -/
def State.segRead (s : State) (t w : Nat) : Nat → Option (List Nat) × State
  | 0 => (some [], s)
  | n + 1 =>
    let (d, ok, s) := s.memRead (memSeg t) w (s.segWord t w)
    if ok then
      let (r, s) := s.segRead t (w + 1) n
      (r.map (fun l => d :: l), s)
    else (none, s)

/-- The four words that begin each part of a segment record (R292). -/
def Seg.head (g : Seg) (part : Nat) : List Nat :=
  let f := match g.fine with | none => 0 | some x => plumbWord x
  [ g.num % 1024 + part * 2 ^ 10 + (g.parts - 1) * 2 ^ 20 + g.avg * 2 ^ 30 + g.pos * 2 ^ 34 + g.overlap % 2 ^ 22 * 2 ^ 42,
    b2n g.fine.isSome + b2n (0 < g.overlap) * 2 + b2n g.missed * 4 + b2n g.truncated * 8 + g.fineFlags % 8 * 16
      + g.pre * 2 ^ 8 + g.count * 2 ^ 32,
    f % 2 ^ 64, f / 2 ^ 64 ]

/-- The record of part n of a segment, its words given. -/
def Seg.record (g : Seg) (t c part : Nat) (words : List Nat) : Rec :=
  { ty := tySeg, flags := if g.uns.getD part false then flUnsync else 0, stream := streamId 3 t c, die := t, bent := c / 8
    channel := c,
    epoch := g.epoch, time := g.time, items := words.length, hx := g.div,
    body := g.head part ++ words }

/-- Whether a whole record fits into the transmit FIFO of every port of Tenon t (R160). -/
def State.fitsTx (s : State) (t len : Nat) : Bool :=
  let x := s.tenon t
  decide (fifoBytes x.txA + len * 8 + 56 ≤ fifoSize) && (s.part != .vt8 || decide (fifoBytes x.txB + len * 8 + 56 ≤ fifoSize))

end Sys2Proof.Machine
end

