-- ==== Sys2Proof/Machine/Loop.lean ====
section
/-! DEFINITION. Loop slices (08_loop_slices.md): periods, set-points, the two laws, supervision, telemetry. -/

namespace Sys2Proof.Machine

open Sys2Proof

def State.loop (s : State) (i : Nat) : Loop := smapGet {} s.loops i
def State.setLoop (s : State) (i : Nat) (x : Loop) : State := { s with loops := smapSet {} s.loops i x }

/-- The DETAIL of a bent event: the sticky bits that rose. -/
def State.bentEvent (s : State) (t b : Nat) (f : Fld) (en : Bool) (detail : Nat) : State :=
  s.stick f (bentIx t b) en (112 + 32 * t + b) detail

/-- A sticky bit of LOOP_STATUS set (R249). -/
def State.loopStick (s : State) (t b : Nat) (f : Fld) (bit : Nat) : State :=
  s.bentEvent t b f (bitAt (s.rd F.LOOP_EVENT_EN_EV_MASK (bentIx t b)) bit) 0

/-! ### Periods (R222, R223) -/

/-- The feedback channel of a slice. -/
def State.fbCh (s : State) (t b : Nat) : Nat := 8 * b + s.rd F.LOOP_CTRL_FB_CH (bentIx t b)

/-- T_L in ticks. -/
def State.loopT (s : State) (t b : Nat) : Nat :=
  s.rd F.LOOP_PER_LOOP_N (bentIx t b) * s.rd F.CH_DIV_DIV (chIx t (s.fbCh t b))

/-- LOOP_N, OUT_PHASE and the output limits clamped against one another (R222, R225, R229). -/
def State.loopClamp (s : State) (t b : Nat) : State :=
  let i := bentIx t b
  let div := s.rd F.CH_DIV_DIV (chIx t (s.fbCh t b))
  let n := clampN 1 65535 (s.rd F.LOOP_PER_LOOP_N i)
  let n := min (1600000000 / div) (max (ceilDiv 3200 div) n)
  let s := s.wr F.LOOP_PER_LOOP_N i n
  let s := s.wr F.LOOP_PHASE_OUT_PHASE i (clampN 256 (s.loopT t b) (s.rd F.LOOP_PHASE_OUT_PHASE i))
  let cur := s.on F.LOOP_CTRL_OUT_REG i
  let lo : Int := if cur then -25000 else -32768
  let hi : Int := if cur then 25000 else 32767
  let mn := max lo (s.rdS F.LOOP_OUTLIM_OUT_MIN i)
  let mx := max mn (min hi (s.rdS F.LOOP_OUTLIM_OUT_MAX i))
  let sf := max mn (min mx (s.rdS F.LOOP_SAFE_SAFE_OUT i))
  ((s.wr F.LOOP_OUTLIM_OUT_MIN i (ofSigned 16 mn)).wr F.LOOP_OUTLIM_OUT_MAX i (ofSigned 16 mx)).wr
    F.LOOP_SAFE_SAFE_OUT i (ofSigned 16 sf)

/-- Whether instant a is a period boundary of a slice: the aperture instant of the first sample of a period. -/
def State.loopBoundary (s : State) (t b a : Nat) : Bool :=
  let c := s.fbCh t b
  let n := s.apIndex t c (a : Int)
  decide (s.apInstant t c (a : Int) n = (a : Int)) && n % (s.rd F.LOOP_PER_LOOP_N (bentIx t b) : Int) == 0

/-- Whether, at instant a, no complete pulse has ended within SPX_TIMEOUT loop periods while SP_SRC is 3 (R232). -/
def State.spxGone (s : State) (t b a : Nat) : Bool :=
  let i := bentIx t b
  s.rd F.LOOP_CTRL_SP_SRC i == 3 && (match (s.loop i).spxEnd with
    | none => true
    | some e => decide (e + s.rd F.LOOP_SP_SPX_TIMEOUT i * (s.loopT t b * tickF) < a))

/-- SPX_LOST_NOW judged at instant a; its rise sets SPX_LOST (R232). -/
def State.spxJudge (s : State) (t b a : Nat) : State :=
  let i := bentIx t b
  let was := (s.loop i).spxLost
  let lost := s.spxGone t b a
  let s := s.setLoop i { s.loop i with spxLost := lost }
  if lost && !was then s.loopStick t b F.LOOP_STATUS_SPX_LOST 2 else s

/-- A calibrated sample v of quality q, index n, Plumb time tp and aperture instant a, shown to the slice of its bent
(R223, R231, R232). -/
def State.loopFeed (s : State) (t c : Nat) (n : Int) (a : Nat) (tp v : Int) (q : Nat) : State :=
  let b := c / 8
  let i := bentIx t b
  if s.fbCh t b ≠ c then s
  else
    let s := if (n + 1) % (s.rd F.LOOP_PER_LOOP_N i : Int) = 0 then s.spxJudge t b a else s
    if s.rd F.BENT_CTRL_USE i ≠ 2 && !s.on F.LOOP_CTRL_RUN i then s
    else
      let x := s.loop i
      let len := s.rd F.LOOP_PER_LOOP_N i
      let ph := n % (len : Int)
      let x := if ph = 0 then { x with sum := 0, cnt := 0, qs := [], moved := false } else x
      let x := { x with sum := x.sum + v, cnt := x.cnt + 1, qs := if x.qs.contains q then x.qs else x.qs ++ [q] }
      if ph + 1 ≠ (len : Int) then s.setLoop i x
      else
        let mean := s.on F.LOOP_CTRL_FB_MEAN i
        let y := if mean then (2 * x.sum + (len : Int)) / (2 * (len : Int)) else v
        let q' := if mean then worstQ x.qs else q
        let q' := if mean && x.qs.contains 3 then 3 else q'
        let time := if mean then tp - (((len - 1) * s.rd F.CH_DIV_DIV (chIx t c) * 256 : Nat) : Int) else tp
        let ok := if mean then x.cnt == len else !x.moved
        s.setLoop i { x with ready := if ok then some { y := y, q := q', time := time, at_ := a } else none }

/-! ### Coefficients -/

/-- A signed coefficient of the active set of law l. -/
def State.coefS (s : State) (f : Fld) (i l : Nat) : Int := s.rdS f ((i * 2) * 2 + l)

/-- The fields of LOOP_COEF. -/
def coefFields : List Fld :=
  [F.LOOP_COEF_KP, F.LOOP_COEF_KI, F.LOOP_COEF_KI2, F.LOOP_COEF_KD, F.LOOP_COEF_KN, F.LOOP_COEF_KFF,
   F.LOOP_COEF_GS, F.LOOP_COEF_I_MAX, F.LOOP_COEF_SLEW]

/-- The shadow set of law l copied to its active set (R235). -/
def State.loopCopy (s : State) (i l : Nat) : State :=
  coefFields.foldl (fun s f => s.wr f ((i * 2) * 2 + l) (s.rd f ((i * 2 + 1) * 2 + l))) s

/-! ### Set-points (R231 to R233) -/

/-- r from a source value x (R231). -/
def State.spScale (s : State) (i : Nat) (x : Int) : Int :=
  satS (rhu (s.rdS F.LOOP_SP_SP_GAIN i * x * 2 ^ s.rd F.LOOP_SP_SP_SH i) 30 + s.rdS F.LOOP_SP_SP_OFS i) 24

/-- The set-point of a period whose loop instant is a. -/
def State.setPoint (s : State) (t b a : Nat) : State :=
  let i := bentIx t b
  let x := s.loop i
  let tl := s.loopT t b * tickF
  let src := s.rd F.LOOP_CTRL_SP_SRC i
  let edges := x.spxEdges.filter (fun e => decide (a < e + s.rd F.LOOP_SP_SPX_WIN i * tl))
  if src = 0 then s.setLoop i { x with r := s.rdS F.LOOP_SP_SP_HOST i, spxEdges := edges }
  else if src = 1 then
    let seen := (smapGet {} s.chans (chIx t (8 * b + s.rd F.LOOP_CTRL_SP_CH i)) : Chan).recent
    let r := match seen.find? (fun p => decide (p.1 ≤ a)) with
      | some (_, v, q) => if q = 3 then x.r else s.spScale i v
      | none => x.r
    s.setLoop i { x with r := r, spxEdges := edges }
  else if src = 2 then
    let n := (edges.filter (fun e => decide (e ≤ a))).length
    s.setLoop i { x with r := s.spScale i (n : Int), spxEdges := edges }
  else if src = 3 then
    s.setLoop i { x with r := if s.spxGone t b a then x.r else s.spScale i (x.spxWidth : Int), spxEdges := edges }
  else
    let target := s.rdS F.LOOP_SP_RAMP_TARGET i
    let rate : Int := (s.rd F.LOOP_SP_RAMP_RATE i : Nat)
    let r := if x.r < target then min target (x.r + rate) else max target (x.r - rate)
    let s := s.setLoop i { x with r := r, spxEdges := edges }
    if r = target && x.r != target then s.loopStick t b F.LOOP_STATUS_RAMP_DONE 3 else s

/-- SPX_EDGE (R232): an edge on SPX, seen at the next TCLK edge. -/
def execSpxEdge (t : Nat) (tenon : Fin 6) (bent : Fin 16) (rising : Bool) (s : State) :
    Host.Outcome State Fault Refusal :=
  let s := s.at_ t
  let i := bentIx tenon.val bent.val
  let x := s.loop i
  let at_ := ceilDiv s.now tickF * tickF
  .next (
    if !s.bentOn tenon.val bent.val then s
    else if rising then s.setLoop i { x with spxEdges := x.spxEdges ++ [at_], spxRise := some at_ }
    else match x.spxRise with
      | none => s
      | some r => s.setLoop i { x with spxRise := none, spxWidth := (at_ - r) / tickF, spxEnd := some at_, spxLost := false })

/-! ### The law (R234, R236) -/

/-- One period of law l on error e and set-point r, with what it held before: its state, u and whether it slews. hand
tells that it takes over in this period. -/
structure LawOut where
  law : Law
  u : Int
  slewing : Bool
  sat : Bool
  deriving DecidableEq, Repr

/-- The law of R234, and R236 in a switching period. -/
def State.lawStep (s : State) (i l : Nat) (law : Law) (e ePrev r uPrev : Int) (slewing frozen hand : Bool) : LawOut :=
  let gs := s.rd F.LOOP_COEF_GS ((i * 2) * 2 + l)
  let iMax : Int := ((s.rd F.LOOP_COEF_I_MAX ((i * 2) * 2 + l) * 2 ^ 16 : Nat) : Int)
  let clampI (v : Int) : Int := max (-iMax) (min iMax v)
  let es := e * 2 ^ gs
  let p := satS (rhu (s.coefS F.LOOP_COEF_KP i l * es) 14) 48
  let d := satS (rhu (s.coefS F.LOOP_COEF_KD i l * ((e - ePrev) * 2 ^ gs)) 14) 48
  let df0 := if hand then 0 else law.df
  let df := satS (df0 + rhu (s.coefS F.LOOP_COEF_KN i l * (d - df0)) 30) 48
  let ff := satS (rhu (s.coefS F.LOOP_COEF_KFF i l * (r * 2 ^ gs)) 14) 48
  let i1 := if hand then clampI (uPrev * 2 ^ 16 - p - df - ff)
    else if frozen then law.i1 else clampI (law.i1 + rhu (s.coefS F.LOOP_COEF_KI i l * es) 14)
  let i2 := if hand then 0
    else if frozen then law.i2 else clampI (law.i2 + rhu (s.coefS F.LOOP_COEF_KI2 i l * i1) 30)
  let v := satS (p + i1 + i2 + df + ff) 48
  let uLaw := rhu v 16
  let uLim := min (max uLaw (s.rdS F.LOOP_OUTLIM_OUT_MIN i)) (s.rdS F.LOOP_OUTLIM_OUT_MAX i)
  let slew : Int := (s.rd F.LOOP_COEF_SLEW ((i * 2) * 2 + l) : Nat)
  let sl := slewing || hand
  let u := if sl then min (max uLim (uPrev - slew)) (uPrev + slew) else uLim
  { law := { i1 := i1, i2 := i2, df := df }, u := u, slewing := sl && u != uLim, sat := u != uLaw }

/-! ### Supervision (R240, R241) -/

/-- A trip (R241, R243). -/
def State.loopTrip (s : State) (t b cause : Nat) : State :=
  let i := bentIx t b
  let s := (s.setLoop i { s.loop i with running := false, tripped := true, slewing := false }).wr F.LOOP_STATUS_CAUSE i cause
  (s.countUp F.LOOP_COUNT_TRIPS i 1 32767).loopStick t b F.LOOP_STATUS_TRIP 0

/-- A slice's output for the period of loop instant a enters the holding register; the DAC converts it OUT_PHASE ticks after a
(R224, R225). -/
def State.loopHold (s : State) (i a : Nat) : State :=
  let x := s.loop i
  s.setLoop i { x with reg := x.u, dacDue := some (a + s.rd F.LOOP_PHASE_OUT_PHASE i * tickF) }

/-- The output of a tripped slice moves one period (R241). -/
def State.tripOut (s : State) (i : Nat) : State :=
  let x := s.loop i
  let u := if s.on F.LOOP_CTRL_TRIP_ACT i then
      let target := s.rdS F.LOOP_SAFE_SAFE_OUT i
      let st : Int := (s.rd F.LOOP_SAFE_RAMP_STEP i : Nat)
      if x.u < target then min target (x.u + st) else max target (x.u - st)
    else x.u
  s.setLoop i { x with u := u, frozen := false, sat := false }

/-- The watches of a period on error e and feedback y; the answer lists the causes that trip, in the order of R240. -/
def State.supervise (s : State) (t b : Nat) (e y : Int) : List Nat × State :=
  let i := bentIx t b
  let x := s.loop i
  let modelEn := s.on F.LOOP_CTRL_MODEL_EN i
  let g := rhu (s.rdS F.LOOP_SUP_MG i * x.u * 2 ^ s.rd F.LOOP_SUP_MSH i) 14
  let m := satS (x.m + rhu (s.rdS F.LOOP_SUP_MA i * (g + s.rdS F.LOOP_SUP_MO i * 2 ^ 16 - x.m)) 30) 48
  let rho := y - rhu m 16
  let outside := modelEn && decide (s.rd F.LOOP_SUP_RB i < rho.natAbs)
  let fe := if s.rd F.LOOP_SUP_FE_LIM i < e.natAbs then
      min (2 ^ 27 - 1) (x.feAcc + (if outside || !modelEn then 4 else 1)) else 0
  let res := if outside then min (2 ^ 24 - 1) (x.resAcc + 1) else 0
  let s := s.setLoop i { x with m := m, rho := rho, feAcc := fe, resAcc := res }
  ((if s.on F.LOOP_CTRL_FE_EN i && decide (4 * s.rd F.LOOP_SUP_FE_TIME i ≤ fe) then [1] else [])
    ++ (if modelEn && decide (s.rd F.LOOP_SUP_RES_TIME i ≤ res) then [2] else []), s)

/-! ### Telemetry (R247, R248) -/

def telSid (t b : Nat) : Nat := streamId 8 t b

/-- A computed or held period counted from the start; every TEL_N-th gives a telemetry item while TEL_EN is 1. -/
def State.telemetry (s : State) (t b : Nat) (q : Nat) (time : Int) : State :=
  let i := bentIx t b
  let x := s.loop i
  let n := x.telCnt + 1
  if n < s.rd F.LOOP_TEL_TEL_N i then s.setLoop i { x with telCnt := n }
  else
      let s := s.setLoop i { x with telCnt := 0 }
      if !s.on F.LOOP_CTRL_TEL_EN i || !s.streaming then s
      else
        let p := plumbWord time
        let ws := [
          ofSigned 24 x.y + ofSigned 24 x.r * 2 ^ 24 + ofSigned 16 x.u * 2 ^ 48,
          ofSigned 25 x.rho + x.lawNow * 2 ^ 25 + q * 2 ^ 26 + b2n x.held * 2 ^ 28 + b2n x.sat * 2 ^ 29
            + b2n x.slewing * 2 ^ 30 + b2n x.frozen * 2 ^ 31 + b2n x.tripped * 2 ^ 32,
          p % 2 ^ 64, p / 2 ^ 64]
        let s : State := match (s.stream (telSid t b)).cur with
          | some _ => s
          | none => s.openStream
              { ty := tyTel, stream := telSid t b, die := t, bent := b, epoch := s.rd F.CH_EPOCH (chIx t (s.fbCh t b)), time := time }
              (s.rd F.TEL_REC_REC_N i)
        s.appendItem (telSid t b) (fun r => { r with body := r.body ++ ws, items := r.items + 1 })

/-! ### A period -/

/-- A held period: its output, law, model and timers hold (R226, R227). -/
def State.loopHeld (s : State) (t b q : Nat) (time : Int) : State :=
  let i := bentIx t b
  let s := s.setLoop i { s.loop i with held := true }
  let s := (s.countUp F.LOOP_COUNT_HELD_PERIODS i 1 65535).loopStick t b F.LOOP_STATUS_HELD 4
  let s := s.telemetry t b q time
  s.setLoop i { s.loop i with held := false, excLim := false }

/-- The grid of channel c moved: the period in progress of the slice it feeds is held (R226). It has no loop sample, so the time
of its telemetry item is open. -/
def State.loopMoved (s : State) (t c : Nat) : State :=
  let b := c / 8
  let i := bentIx t b
  let x := s.loop i
  if s.fbCh t b ≠ c || !(x.running || x.tripped) then s
  else
    let s := s.setLoop i { x with moved := true, cnt := 0, sum := 0, qs := [], ready := none }
    ({ s with free := s.free + 1 }).loopHeld t b (if x.qs.contains 3 then 3 else worstQ x.qs)
      (plumbOfWord (Config.freeBits 80 s.free % 2 ^ 80))

/-- Coefficient commits that wait applied at the period boundary (R235, R237). -/
def State.loopCommits (s : State) (i : Nat) : State :=
  let x := s.loop i
  let s := if x.commit0 then s.loopCopy i 0 else s
  let s := if x.commit1 then s.loopCopy i 1 else s
  s.setLoop i { s.loop i with commit0 := false, commit1 := false }

/-- A slice made ready to start at this boundary with previous output u (R238, R242). -/
def Loop.restart (x : Loop) (u : Int) : Loop :=
  { x with
    running := true, tripped := false, rearm := false, fresh := true, hand := true, law0 := {}, law1 := {},
    feAcc := 0, resAcc := 0, slewing := false, sat := false, excLim := false, telCnt := 0, u := u }

/-- The law of a computed period, its output into the holding register (R224, R230, R236). -/
def State.runLaw (s : State) (t b : Nat) (e : Int) : State :=
  let i := bentIx t b
  let x := s.loop i
  let l := s.rd F.LOOP_CTRL_LAW i
  let hand := x.hand || l != x.lawNow
  let law := if l = 0 then x.law0 else x.law1
  let frozen := (x.sat || s.on F.BENT_STATUS_EXC_SHORT_NOW i || (s.tenon t).vexLow) && !hand
  let o := s.lawStep i l law e x.ePrev x.r x.u x.slewing frozen hand
  let sat := o.sat || x.excLim || s.on F.BENT_STATUS_EXC_SHORT_NOW i
  let x := { x with
    law0 := if l = 0 then o.law else if hand then {} else x.law0
    law1 := if l = 0 then (if hand then {} else x.law1) else o.law
    lawNow := l, hand := false, ePrev := e, u := o.u, slewing := o.slewing, sat := sat, frozen := frozen }
  let s := s.setLoop i x
  if sat then s.loopStick t b F.LOOP_STATUS_SAT 1 else s

/-- A period boundary with the period's input (R224 to R247). -/
def State.loopPeriod (s : State) (t b : Nat) (p : LoopIn) : State :=
  let i := bentIx t b
  let s := (s.setLoop i { s.loop i with ready := none }).loopCommits i
  let x := s.loop i
  let s := if x.rearm && x.tripped then s.setLoop i (x.restart x.u) else s
  let x := s.loop i
  if !x.running && !x.tripped then s
  else if p.q = 3 then s.loopHeld t b 3 p.time
  else
    let s := s.setPoint t b p.at_
    let x := s.loop i
    let e := x.r - p.y
    let s := s.setLoop i { x with
      y := p.y, ePrev := if x.fresh then e else x.ePrev, m := if x.fresh then p.y * 2 ^ 16 else x.m, fresh := false }
    let s : State :=
      if (s.loop i).tripped then s.tripOut i
      else
        let (causes, s) := s.supervise t b e p.y
        if causes = [] then s.runLaw t b e else (causes.foldl (fun s c => s.loopTrip t b c) s).tripOut i
    let s := (s.setLoop i { s.loop i with excLim := false }).loopHold i p.at_
    s.telemetry t b p.q p.time

/-- The instant at which the output of the period of loop instant a enters the holding register: 160 ns after it (R224). -/
def loopOutAt (a : Nat) : Nat := a + 256 * tickF

/-- LOOP_PERIOD (R224, R235): 160 ns after the loop instant the output is in the holding register. A slice that runs no law has
period boundaries all the same, at which commits apply. -/
def execLoopPeriod (t : Nat) (tenon : Fin 6) (bent : Fin 16) (s : State) : Host.Outcome State Fault Refusal :=
  let s := s.at_ t
  .next (
    let i := bentIx tenon.val bent.val
    let x := s.loop i
    if !s.bentOn tenon.val bent.val then s
    else match x.ready with
      | none => if x.running || x.tripped then s else s.loopCommits i
      | some p => if s.now = loopOutAt p.at_ then s.loopPeriod tenon.val bent.val p else s)

/-- LOOP_DAC_WRITE (R225): OUT_PHASE ticks after the loop instant, once per period, the DAC converts the holding register. -/
def execLoopDacWrite (t : Nat) (tenon : Fin 6) (bent : Fin 16) (s : State) : Host.Outcome State Fault Refusal :=
  let s := s.at_ t
  let i := bentIx tenon.val bent.val
  let x := s.loop i
  .next (
    if s.rd F.BENT_CTRL_USE i = 2 && x.dacDue = some s.now && s.bentOn tenon.val bent.val then
      s.setLoop i { x with dac := x.reg, dacDue := none, down := none }
    else s)

/-- A write of 1 to LOOP_COMMIT.COMMITn (R235): it takes effect at the next boundary. -/
def State.loopCommit (s : State) (i n : Nat) : State :=
  let x := s.loop i
  s.setLoop i (if n = 0 then { x with commit0 := true } else { x with commit1 := true })

/-- LOOP_COMMIT0 (R235). -/
def execLoopCommit0 (t : Nat) (tenon : Fin 6) (bent : Fin 16) (s : State) : Host.Outcome State Fault Refusal :=
  let s := s.at_ t
  .next (if s.reachable tenon.val then s.loopCommit (bentIx tenon.val bent.val) 0 else s)

/-- LOOP_COMMIT1 (R235). -/
def execLoopCommit1 (t : Nat) (tenon : Fin 6) (bent : Fin 16) (s : State) : Host.Outcome State Fault Refusal :=
  let s := s.at_ t
  .next (if s.reachable tenon.val then s.loopCommit (bentIx tenon.val bent.val) 1 else s)

/-- LAW_HANDOVER (R236): LOOP_CTRL.LAW written; the next boundary hands over. -/
def execLawHandover (t : Nat) (tenon : Fin 6) (bent : Fin 16) (law : Bool) (s : State) :
    Host.Outcome State Fault Refusal :=
  let s := s.at_ t
  .next (if s.reachable tenon.val then s.wr F.LOOP_CTRL_LAW (bentIx tenon.val bent.val) (b2n law) else s)

/-- A write of 1 to LOOP_CTRL.REARM (R242). -/
def State.loopRearm (s : State) (i : Nat) : State :=
  let x := s.loop i
  if x.tripped then s.setLoop i { x with rearm := true } else s

/-- LOOP_REARM (R242). -/
def execLoopRearm (t : Nat) (tenon : Fin 6) (bent : Fin 16) (s : State) : Host.Outcome State Fault Refusal :=
  let s := s.at_ t
  .next (if s.reachable tenon.val then s.loopRearm (bentIx tenon.val bent.val) else s)

/-- Whether n fine units have passed since the open record of a stream was opened. -/
def State.dueAfter (s : State) (sid n : Nat) : Bool :=
  (s.stream sid).cur.isSome && decide ((s.stream sid).since + n ≤ s.now)

/-- TELEMETRY_RECORD_TIMEOUT (R248). -/
def execTelemetryRecordTimeout (t : Nat) (tenon : Fin 6) (bent : Fin 16) (s : State) :
    Host.Outcome State Fault Refusal :=
  let s := s.at_ t
  .next (
    if s.dueAfter (telSid tenon.val bent.val) (s.rd F.TEL_REC_REC_TIMEOUT (bentIx tenon.val bent.val) * msF) then
      s.closeStream (telSid tenon.val bent.val) false
    else s)

/-- LOOP_COUNT_CLR: a write of 1 to LOOP_COUNT.CLR. -/
def execLoopCountClr (tenon : Fin 6) (bent : Fin 16) (s : State) : Host.Outcome State Fault Refusal :=
  .next (
    if s.reachable tenon.val then
      (s.wr F.LOOP_COUNT_HELD_PERIODS (bentIx tenon.val bent.val) 0).wr F.LOOP_COUNT_TRIPS (bentIx tenon.val bent.val) 0
    else s)

end Sys2Proof.Machine
end

