-- ==== Sys2Proof/Machine/Stats.lean ====
section
/-! DEFINITION. Exact square roots and the statistics unit (R213 to R221). -/

namespace Sys2Proof.Machine

open Sys2Proof

/-- The greatest r below 2^k above r0 whose square is at most n. -/
def isqrtGo (n : Nat) : Nat → Nat → Nat
  | 0, r => r
  | k + 1, r => isqrtGo n k (if (r + 2 ^ k) * (r + 2 ^ k) ≤ n then r + 2 ^ k else r)

/-- floor(√n), for n below 2^280. -/
def isqrt (n : Nat) : Nat := isqrtGo n 140 0

/-- floor(√(a/b) + 1/2), exactly (R204). -/
def isqrtRhu (a b : Nat) : Nat := (isqrt (4 * a / b) + 1) / 2

/-- floor((2a + b) / 2b) (R204). -/
def rhuDiv (a b : Nat) : Nat := (2 * a + b) / (2 * b)

def State.acc (s : State) (a : Nat) : StatAcc := smapGet {} s.stats a
def State.setAcc (s : State) (a : Nat) (x : StatAcc) : State := { s with stats := smapSet {} s.stats a x }

/-- A sticky bit of STAT_STATUS set (R221). -/
def State.statStick (s : State) (f : Fld) (bit a : Nat) : State :=
  s.stick f a (bitAt (s.rd F.STAT_EVENT_EN_EV_MASK a) bit) 36 a

/-- The values a record holds for a source: KIND, Tenon and INDEX of R213, with what R214 says of each. -/
def statValues (kind tenon index : Nat) (r : Rec) : List StatIn :=
  let mk (x : Int) (never bad : Bool) (time : Int) : StatIn :=
    { loss := false, x := x, never := never, bad := bad, epoch := r.epoch, time := time }
  let time (j : Nat) : Int := plumbOfWord (r.body.getD (4 * j + 2) 0 + r.body.getD (4 * j + 3) 0 % 2 ^ 16 * 2 ^ 64)
  if kind = 1 ∧ r.stream = streamId 7 tenon 0 ∧ r.ty = tyFreq then
    (List.range r.items).filterMap (fun j =>
      let w := r.body.getD (4 * j) 0
      if bitsAt w 0 5 = index then
        some (mk ((r.body.getD (4 * j + 1) 0 : Nat) : Int) (bitAt w 32 || bitAt w 34) (bitAt w 30) (time j))
      else none)
  else if (kind = 2 ∨ kind = 3) ∧ r.stream = streamId 4 tenon (index / 16) ∧ r.ty = tyScan then
    (List.range r.items).filterMap (fun j =>
      let w := r.body.getD (4 * j) 0
      let v := if kind = 2 then bitsAt w 32 32 else bitsAt (r.body.getD (4 * j + 1) 0) 0 32
      if bitsAt w 0 4 = index % 16 then
        some (mk (toSigned 32 v) false
          (bitAt w 16 || bitAt w 19 || bitAt w 20 || bitAt w 21 || bitAt w 24) (time j))
      else none)
  else if kind = 4 ∧ r.stream = streamId 2 tenon index ∧ r.ty = tyDec then
    (List.range r.items).map (fun j =>
      let w := bitsAt (r.body.getD (1 + j / 2) 0) (32 * (j % 2)) 32
      mk (toSigned 30 (w / 4)) false (w % 4 != 0) (r.time + ((j * r.body.headD 0 * tickF : Nat) : Int)))
  else []

/-- Whether a record is of the source's stream. -/
def statStream (kind tenon index stream : Nat) : Bool :=
  (kind = 1 && stream = streamId 7 tenon 0)
    || ((kind = 2 || kind = 3) && stream = streamId 4 tenon (index / 16))
    || (kind = 4 && stream = streamId 2 tenon index)

/-- A record that entered the cell pool shown to accumulator a. -/
def State.statFeed (s : State) (r : Rec) (a : Nat) : State :=
  let k := s.rd F.STAT_CFG_KIND a
  let t := s.rd F.STAT_CFG_TENON a
  let i := s.rd F.STAT_CFG_INDEX a
  let new := if r.ty = tyLoss then
      (if statStream k t i r.stream then
        [{ loss := true, x := 0, never := true, bad := true, epoch := r.epoch, time := r.time : StatIn }] else [])
    else statValues k t i r
  if new = [] then s else let x := s.acc a; s.setAcc a { x with input := x.input ++ new }

/-- A record that entered the cell pool shown to every accumulator (R213). -/
def State.statFeedAll (s : State) (r : Rec) : Nat → State
  | 0 => s
  | a + 1 => (if s.rd F.STAT_CFG_KIND a = 0 then s else s.statFeed r a).statFeedAll r a

/-- A block started anew. -/
def StatAcc.fresh (x : StatAcc) : StatAcc := { input := x.input, stopped := x.stopped, held := x.held }

/-- The record of a closed block (R217, R296). -/
def State.statRecord (s : State) (a : Nat) (x : StatAcc) (epochCut : Bool) : Rec :=
  let n : Int := (x.n : Int)
  let mean := (2 * x.sum + n) / (2 * n)
  let sd := if x.n = 1 then 0 else isqrtRhu (n * x.sq - x.sum * x.sum).toNat (x.n * (x.n - 1))
  let t := plumbWord x.tLast
  { ty := tyStat, stream := streamId 10 7 a, die := 7, epoch := x.epoch, time := x.t0,
    body := [
      s.rd F.STAT_CFG_KIND a + s.rd F.STAT_CFG_TENON a * 2 ^ 4 + s.rd F.STAT_CFG_INDEX a * 2 ^ 8
        + b2n epochCut * 2 ^ 16 + b2n x.loss * 2 ^ 17 + b2n x.heldBlk * 2 ^ 18 + x.n * 2 ^ 32,
      min x.skipped (2 ^ 32 - 1) + x.iMin % 65536 * 2 ^ 32 + x.iMax % 65536 * 2 ^ 48,
      ofSigned 64 mean, sd % 2 ^ 64, ofSigned 64 x.mn, ofSigned 64 x.mx, t % 2 ^ 64, t / 2 ^ 64] }

/-- The producer of an accumulator's records. -/
def prAcc (a : Nat) : Nat := 128 + a

/-- A block closed: its record is written, or held under back-pressure (R216 to R218). -/
def State.statClose (s : State) (a : Nat) (epochCut : Bool) : State :=
  let x := s.acc a
  let single := s.on F.STAT_CFG_SINGLE a
  let s := s.produce (prAcc a) (s.statRecord a x epochCut)
  let held := (s.prod (prAcc a)).waiting != []
  let s := s.setAcc a { x.fresh with stopped := single, held := held }
  let s := if single then s.statStick F.STAT_STATUS_DONE 0 a else s
  let s := if x.heldBlk then s.statStick F.STAT_STATUS_HELD 1 a else s
  if epochCut then s.statStick F.STAT_STATUS_EPOCH 2 a else s

/-- A value taken into the block (R215). -/
def StatAcc.take (x : StatAcc) (v : StatIn) : StatAcc :=
  { x with
    sum := x.sum + v.x, sq := x.sq + v.x * v.x
    mn := if x.n = 0 ∨ v.x < x.mn then v.x else x.mn
    iMin := if x.n = 0 ∨ v.x < x.mn then x.n else x.iMin
    mx := if x.n = 0 ∨ v.x > x.mx then v.x else x.mx
    iMax := if x.n = 0 ∨ v.x > x.mx then x.n else x.iMax
    n := x.n + 1, epoch := if x.n = 0 then v.epoch else x.epoch
    t0 := if x.n = 0 then v.time else x.t0, tLast := v.time }

/-- A value that reached accumulator a: taken, passed over, or closing a block (R214 to R218). -/
def State.statValue (s : State) (a : Nat) (v : StatIn) : State :=
  let x := s.acc a
  if s.rd F.STAT_CFG_KIND a = 0 || !s.present (s.rd F.STAT_CFG_TENON a) then s
  else if v.loss then (if x.n = 0 then s else s.setAcc a { x with loss := true })
  else if x.stopped then s
  else if x.held then s.setAcc a { x with skipped := x.skipped + 1, heldBlk := true }
  else if v.never || (v.bad && s.on F.STAT_CFG_SKIP_BAD a) then s.setAcc a { x with skipped := x.skipped + 1 }
  else
    let s := if x.n ≠ 0 ∧ x.epoch ≠ v.epoch then s.statClose a true else s
    let x := s.acc a
    if x.stopped then s
    else if x.held then s.setAcc a { x with skipped := x.skipped + 1, heldBlk := true }
    else
      let s := s.setAcc a (x.take v)
      if x.n + 1 ≥ s.rd F.STAT_CFG_N a then s.statClose a false else s

/-- Everything up to and with the next value that waits at accumulator a; n bounds the losses before it. -/
def State.statNext (s : State) (a : Nat) : Nat → State
  | 0 => s
  | n + 1 =>
    let x := s.acc a
    match x.input with
    | [] => s
    | v :: rest =>
      let s := (s.setAcc a { x with input := rest }).statValue a v
      if v.loss then s.statNext a n else s

/-- STAT_VALUE (R213 to R217). -/
def execStatValue (t : Nat) (acc : Fin 64) (s : State) : Host.Outcome State Fault Refusal :=
  .next ((s.at_ t).statNext acc.val ((s.acc acc.val).input.length))

/-- The block in progress discarded, and a new one with the next value (R219). -/
def State.statRestart (s : State) (a : Nat) : State :=
  let x := s.acc a
  s.setAcc a { input := [], held := x.held, heldBlk := x.held && x.heldBlk, skipped := if x.held then x.skipped else 0 }

/-- The block in progress discarded at DX (R219); an accumulator that has stopped after its single block stays stopped. -/
def State.statDrop (s : State) (a : Nat) : State :=
  let x := s.acc a
  (s.statRestart a).setAcc a { (s.statRestart a).acc a with stopped := x.stopped }

/-- STAT_STATUS_RELEASE of a held record (R218). -/
def State.statRelease (s : State) (a : Nat) : State :=
  let s := s.pump (prAcc a) 200
  let x := s.acc a
  if (s.prod (prAcc a)).waiting = [] then s.setAcc a { x with held := false } else s

/-- STAT_RECORD_RELEASE (R218). -/
def execStatRecordRelease (t : Nat) (acc : Fin 64) (s : State) : Host.Outcome State Fault Refusal :=
  .next ((s.at_ t).statRelease acc.val)

/-- The greatest INDEX of a kind of source (STAT_CFG.INDEX). -/
def statIndexMax (kind : Nat) : Nat := if kind = 1 then 31 else if kind = 4 then 127 else 255

/-- A word of STAT_CFG written: its fields, clamped, and a new block (R219). -/
def State.statCfg (s : State) (a word v : Nat) : State :=
  let s : State := if word = 0 then
      let k := legalValue F.STAT_CFG_KIND a (bitsAt v 0 3)
      let s := (s.wr F.STAT_CFG_KIND a k).wrLegal F.STAT_CFG_TENON a (bitsAt v 4 3)
      let s := s.wr F.STAT_CFG_INDEX a (min (bitsAt v 8 8) (statIndexMax k))
      (s.wr F.STAT_CFG_SKIP_BAD a (bitsAt v 16 1)).wr F.STAT_CFG_SINGLE a (bitsAt v 17 1)
    else s.wrLegal F.STAT_CFG_N a (bitsAt v 0 17)
  s.statRestart a

/-- STAT_CFG_WRITE (R219). -/
def execStatCfgWrite (t : Nat) (acc : Fin 64) (word : Fin 2) (value : BitVec 32) (s : State) :
    Host.Outcome State Fault Refusal :=
  .next ((s.at_ t).statCfg acc.val word.val value.toNat)

end Sys2Proof.Machine
end

