-- ==== Sys2Proof/Machine/Gates.lean ====
section
/-! DEFINITION. Regression units: their gates, the fit over a gate's stamps, and the frequency results (R200 to R212,
R295). A gate's key is 32 × Tenon + unit; a closed gate waits in gatesDone until its result enters the stream. -/

namespace Sys2Proof.Machine

open Sys2Proof

/-- The gate of unit u of Tenon t that is open or waits to open. -/
def State.gate (s : State) (t u : Nat) : Option Gate := smapGet none s.gates (32 * t + u)
def State.setGate (s : State) (t u : Nat) (g : Option Gate) : State :=
  { s with gates := smapSet none s.gates (32 * t + u) g }

/-- Index of unit u of Tenon t among the copies of a register of the regression units. -/
def regIx (t u : Nat) : Nat := 32 * t + u

/-- A sticky bit of REG_STATUS set; the event is that of the bent of channel c (R60, R212). -/
def State.regStick (s : State) (t u c : Nat) (f : Fld) (bit : Nat) : State :=
  s.stick f (regIx t u) (bitAt (s.rd F.REG_EVENT_EN_EV_MASK (regIx t u)) bit) (chSource t c) (chDetail c 3 u bit)

/-- The gate moved to the closed gates; MIN_EDGES stands as it is at its end (R205). -/
def State.closeGate (s : State) (t u : Nat) (g : Gate) : State :=
  { s.setGate t u none with
    gatesDone := s.gatesDone ++ [(32 * t + u, { g with done := true, minEdges := s.rd F.REG_CFG_MIN_EDGES (regIx t u) })] }

/-- A gate ended at once with BROKEN (R206). -/
def State.breakGate (s : State) (t u : Nat) : State :=
  match s.gate t u with
  | none => s
  | some g =>
    if g.isOpen then
      s.closeGate t u { g with broken := true, closes := s.plumbOfTenon t (s.now : Int) }
    else s

/-- Every open gate among the first n units of Tenon t on which p holds, broken. -/
def State.breakGates (s : State) (t : Nat) (p : Gate → Bool) : Nat → State
  | 0 => s
  | u + 1 =>
    let s := s.breakGates t p u
    match s.gate t u with
    | none => s
    | some g => if p g then s.breakGate t u else s

/-- A stamp of time x, polarity pol, flags fl and epoch ep offered to a gate of its channel (R202 to R204, R281). -/
def Gate.offer (g : Gate) (ch pol : Nat) (x : Int) (fl ep : Nat) : Gate :=
  if g.ch = ch ∧ g.pol = pol ∧ g.epoch = ep ∧ g.opens ≤ x ∧ x < g.closes ∧ !g.full ∧ !g.broken ∧ !g.short then
    if g.seen % 2 ^ g.p = 0 then
      let t0 := if g.n = 0 then x else g.t0
      let tau := x - t0
      let n := g.n + 1
      { g with
        seen := g.seen + 1, n := n, t0 := t0, sT := g.sT + tau, sNT := g.sNT + (g.n : Int) * tau,
        sTT := g.sTT + tau * tau, flags := g.flags ||| fl,
        full := n = 2 ^ 24, closes := if n = 2 ^ 24 then x else g.closes }
    else { g with seen := g.seen + 1 }
  else g

/-- A stamp offered to every gate of Tenon t, open or closed and not yet reported. -/
def State.regStamp (s : State) (t ch pol : Nat) (x : Int) (fl ep : Nat) : State :=
  let f (p : Nat × Option Gate) : Nat × Option Gate :=
    if p.1 / 32 = t then (p.1, p.2.map (fun g => if g.isOpen then g.offer ch pol x fl ep else g)) else p
  { s with
    gates := s.gates.map f
    gatesDone := s.gatesDone.map (fun p => if p.1 / 32 = t then (p.1, p.2.offer ch pol x fl ep) else p) }

/-- The four words of a frequency result (R204, R205, R207, R295) and whether it carries FEW. Where the slope's divisor U
is not above 0 (stamps that coincide) the spec states no FREQ, and it is the free value given. Log entry 2. -/
def Gate.result (g : Gate) (free : Nat) : List Nat × Bool :=
  let few := g.short || decide (g.n < g.minEdges)
  let n : Int := (g.n : Int)
  let dead := few || g.broken
  let u := (12 * g.sNT - 6 * (n - 1) * g.sT).toNat
  let k := (n * (n * n - 1)).toNat
  let freq := if dead then 0 else if u = 0 then free % 2 ^ 64
    else min (2 ^ 64 - 1) (rhuDiv (2 ^ (32 + g.p) * secF * k) u)
  let sn := n * (n - 1) / 2
  let q := n * n * (n * n - 1) / 12
  let a := n * g.sTT - g.sT * g.sT
  let b := n * g.sNT - sn * g.sT
  let r := (a * q - b * b).toNat
  let resid := if dead then 0 else min (2 ^ 32 - 1) (isqrtRhu (r * 3906250000) (262144 * (q * n * n).toNat))
  let time := plumbWord (rhu (g.opens + g.closes) 1)
  let req : Nat := match g.req with | none => 0 | some (b, e) => b * 2 ^ 20 + e * 2 ^ 24 + 2 ^ 28
  ([ g.unit + g.ch * 2 ^ 8 + g.pol * 2 ^ 15 + g.p * 2 ^ 16 + req + g.flags % 8 * 2 ^ 29
      + b2n few * 2 ^ 32 + b2n g.full * 2 ^ 33 + b2n g.broken * 2 ^ 34 + g.n * 2 ^ 39,
     freq, time % 2 ^ 64, time / 2 ^ 64 + resid * 2 ^ 32 ], few)

/-- The stream of a Tenon's frequency results. -/
def freqSid (t : Nat) : Nat := streamId 7 t 0

/-- A result that enters its Tenon's frequency-results stream (R209, R210), with the sticky bits it sets. -/
def State.regEnter (s : State) (t : Nat) (g : Gate) : State :=
  let sid := freqSid t
  let (w, few) := g.result (Config.freeBits 64 s.free)
  let s := { s with free := s.free + 1 }.epochClose sid g.epoch
  let s : State := match (s.stream sid).cur with
    | some _ => s
    | none => s.openStream
        { ty := tyFreq, stream := sid, die := t, epoch := g.epoch, time := rhu (g.opens + g.closes) 1 }
        (s.rd F.REG_REC_REC_N t)
  let s := s.appendItem sid (fun r => { r.about (g.ch / 8) g.ch with body := r.body ++ w, items := r.items + 1 })
  let s := if few then s.regStick t g.unit g.ch F.REG_STATUS_FEW 0 else s
  if g.broken then s.regStick t g.unit g.ch F.REG_STATUS_BROKEN 1 else s

/-- A closed gate put into the order of closing instant, then unit (R209). -/
def insertGate (p : Nat × Gate) : List (Nat × Gate) → List (Nat × Gate)
  | [] => [p]
  | q :: l => if p.2.closes < q.2.closes ∨ (p.2.closes = q.2.closes ∧ p.1 < q.1) then p :: q :: l else q :: insertGate p l

/-- The closed gates of Tenon t on which p holds entered in order. -/
def State.regFlush (s : State) (t : Nat) (p : Gate → Bool) : State :=
  let go := s.gatesDone.filter (fun x => x.1 / 32 == t && p x.2)
  let s := { s with gatesDone := s.gatesDone.filter (fun x => !(x.1 / 32 == t && p x.2)) }
  (go.foldl (fun l x => insertGate x l) []).foldl (fun s x => s.regEnter t x.2) s

/-- Fine units by which stamps of one stream may be out of order (R181). -/
def stampSpread : Nat := 8703

/-- Whether the merged stamp order of Tenon t has passed Plumb time x: no stamp of the Tenon, in flight or still to come, has a
TCLK edge before x and the spread after it, so none lies before x. -/
def State.orderPassed (s : State) (t : Nat) (x : Int) : Bool :=
  decide (x + (stampSpread : Int) ≤ s.plumbOfTenon t (s.now : Int))
    && s.stampUnits.all (fun p => p.1 / 128 != t
      || p.2.flight.all (fun st => decide (x + (stampSpread : Int) ≤ s.plumbOfTenon t ((st.tick * tickF : Nat) : Int))))

/-- A mode-1 request of entry e of bent b for unit u: the entry's excitation ended at Plumb time en and it listens for
listen milliseconds (R200, R201, R208). -/
def State.regRequest (s : State) (t b e u ch : Nat) (en : Int) (listen : Nat) : State :=
  let i := regIx t u
  if s.rd F.REG_CFG_MODE i ≠ 1 then
    (s.countUp F.REG_COUNT_IGNORED i 1 32767).regStick t u (s.rd F.REG_CFG_CH i) F.REG_STATUS_IGNORED 3
  else
    match s.gate t u with
    | some g => (s.countUp F.REG_COUNT_BUSY i 1 65535).regStick t u g.ch F.REG_STATUS_BUSY 2
    | none =>
      let delay := s.rd F.REG_CFG_GATE_DELAY i
      let g : Gate := {
        unit := u, ch := ch, pol := s.rd F.REG_CFG_POL i, p := s.rd F.REG_CFG_PRESCALE i,
        opens := en + ((delay * msF : Nat) : Int), closes := en + ((listen * msF : Nat) : Int), req := some (b, e) }
      if listen < delay + 1 then s.closeGate t u { g with short := true, epoch := s.rd F.ST_EPOCH_EPOCH t }
      else s.setGate t u (some g)

/-! ### The commands -/

/-- GATE_OPEN (R200): a waiting gate of mode 1 or 3 opens at its instant; in mode 2 a gate opens at a multiple of
GATE_LEN. -/
def execGateOpen (t : Nat) (tenon : Fin 6) (unit : Fin 32) (s : State) : Host.Outcome State Fault Refusal :=
  let s := s.at_ t
  let tn := tenon.val
  let u := unit.val
  let i := regIx tn u
  let now := s.plumbOfTenon tn (s.now : Int)
  .next (
    if !s.acquiring tn then s
    else match s.gate tn u with
      | some g =>
        if !g.isOpen && decide (g.opens ≤ now) && (s.streaming || s.mode == mDormant) then
          s.setGate tn u (some { g with isOpen := true, epoch := s.rd F.ST_EPOCH_EPOCH tn })
        else s
      | none =>
        if s.rd F.REG_CFG_MODE i = 2 && s.streaming then
          let len : Int := ((s.rd F.REG_CFG_GATE_LEN i * msF : Nat) : Int)
          let o := now
          if now % len ≠ 0 then s else s.setGate tn u (some {
            unit := u, ch := s.rd F.REG_CFG_CH i, pol := s.rd F.REG_CFG_POL i, p := s.rd F.REG_CFG_PRESCALE i,
            opens := o, closes := o + len, isOpen := true, epoch := s.rd F.ST_EPOCH_EPOCH tn })
        else s)

/-- GATE_CLOSE (R204): an open gate whose closing instant is reached closes; its result follows with
REG_RESULT_ENTER. -/
def execGateClose (t : Nat) (tenon : Fin 6) (unit : Fin 32) (s : State) : Host.Outcome State Fault Refusal :=
  let s := s.at_ t
  .next (
    match s.gate tenon.val unit.val with
    | none => s
    | some g =>
      if g.isOpen && decide (g.closes ≤ s.plumbOfTenon tenon.val (s.now : Int)) then s.closeGate tenon.val unit.val g
      else s)

/-- GATE_FULL (R203): the gate that has used its 2^24-th stamp closes at that stamp's Plumb time with FULL. -/
def execGateFull (t : Nat) (tenon : Fin 6) (unit : Fin 32) (s : State) : Host.Outcome State Fault Refusal :=
  let s := s.at_ t
  .next (
    match s.gate tenon.val unit.val with
    | none => s
    | some g => if g.full then s.closeGate tenon.val unit.val g else s)

/-- The effect of a write of 1 to REG_CTRL.GO (R200). -/
def State.regGo (s : State) (tn u : Nat) : State :=
  let i := regIx tn u
  if s.rd F.REG_CFG_MODE i ≠ 3 || (s.gate tn u).isSome || !s.streaming then s
  else
    let o := s.plumbOfTenon tn (s.now : Int) + ((s.rd F.REG_CFG_GATE_DELAY i * msF : Nat) : Int)
    s.setGate tn u (some {
      unit := u, ch := s.rd F.REG_CFG_CH i, pol := s.rd F.REG_CFG_POL i, p := s.rd F.REG_CFG_PRESCALE i,
      opens := o, closes := o + ((s.rd F.REG_CFG_GATE_LEN i * msF : Nat) : Int) })

/-- REG_GO (R200). -/
def execRegGo (t : Nat) (tenon : Fin 6) (unit : Fin 32) (s : State) : Host.Outcome State Fault Refusal :=
  let s := s.at_ t
  .next (if s.reachable tenon.val then s.regGo tenon.val unit.val else s)

/-- REG_RESULT_ENTER (R209): the results of the closed gates whose closing instant the merged order has passed. -/
def execRegResultEnter (t : Nat) (tenon : Fin 6) (s : State) : Host.Outcome State Fault Refusal :=
  let s := s.at_ t
  .next (s.regFlush tenon.val (fun g => s.orderPassed tenon.val g.closes))

/-- FREQ_RECORD_TIMEOUT (R210). -/
def execFreqRecordTimeout (t : Nat) (tenon : Fin 6) (s : State) : Host.Outcome State Fault Refusal :=
  let s := s.at_ t
  .next (if s.dueAfter (freqSid tenon.val) (s.rd F.REG_REC_REC_TIMEOUT tenon.val * msF) then
    s.closeStream (freqSid tenon.val) false else s)

/-- REG_COUNT_CLR: a write of 1 to REG_COUNT.CLR. -/
def execRegCountClr (tenon : Fin 6) (unit : Fin 32) (s : State) : Host.Outcome State Fault Refusal :=
  .next (
    if s.reachable tenon.val then
      (s.wr F.REG_COUNT_BUSY (regIx tenon.val unit.val) 0).wr F.REG_COUNT_IGNORED (regIx tenon.val unit.val) 0
    else s)

end Sys2Proof.Machine
end

