-- ==== Sys2Proof/Machine/Channel.lean ====
section
/-! DEFINITION. Fast channels (02_fast_channels.md): quality spans, over-range and open-wire detection, range and
coupling changes, the pulser, the fast stream, and what a sample feeds. -/

namespace Sys2Proof.Machine

open Sys2Proof

/-! ### Quality spans -/

/-- What opens a span: a range change, a coupling change, a continuity check, a pulser fire, a release, a switch of the
PGA to the calibration bus, a sweep or pluck, the channel's own over-range in positive or negative polarity, an excursion of
the common mode; a trip of channel k of the bent is srcTrip + k. -/
def srcRange : Nat := 1
def srcCoupling : Nat := 2
def srcCont : Nat := 3
def srcPulse : Nat := 4
def srcRelease : Nat := 5
def srcBus : Nat := 6
def srcExc : Nat := 7
def srcOverPos : Nat := 8
def srcOverNeg : Nat := 9
def srcCm : Nat := 10
def srcTrip : Nat := 16

/-- A span put among those of a channel; one of the same source and start is extended, never shortened. -/
def addSpanTo (x : QSpan) : List QSpan → List QSpan
  | [] => [x]
  | y :: l =>
    if y.src = x.src ∧ y.start = x.start then
      { y with stop := match x.stop, y.stop with | some a, some b => some (max a b) | _, _ => none } :: l
    else y :: addSpanTo x l

def State.addSpan (s : State) (i : Nat) (x : QSpan) : State :=
  s.setChan i { s.chan i with spans := addSpanTo x (s.chan i).spans }

/-- The open span of a source given its end. -/
def State.endSpan (s : State) (i src stop : Nat) : State :=
  s.setChan i { s.chan i with
    spans := (s.chan i).spans.map (fun x => if x.src = src ∧ x.stop = none then { x with stop := some stop } else x) }

/-- Whether a span covers instant a. -/
def QSpan.covers (x : QSpan) (a : Nat) : Bool :=
  decide (x.start ≤ a) && (match x.stop with | none => true | some e => decide (a < e))

/-- The quality of a sample at aperture instant a: the first applicable code in the order 1, 3, 2, 0 (R49). -/
def Chan.qualityAt (x : Chan) (a : Nat) : Nat :=
  if x.spans.any (fun y => y.q == 1 && y.covers a) then 1
  else if x.spans.any (fun y => y.q == 3 && y.covers a) then 3
  else if x.spans.any (fun y => y.q == 2 && y.covers a) then 2
  else 0

/-- Whether a clamped sample at aperture instant a takes the negative end code: the polarity of the over-range that covers a
(R46), else the sign of the difference (R36). -/
def Chan.negAt (x : Chan) (a : Nat) (raw : Int) : Bool :=
  if x.spans.any (fun y => y.src == srcOverPos && y.covers a) then false
  else x.spans.any (fun y => y.src == srcOverNeg && y.covers a) || decide (raw < 0)

/-- Whether a quality-3 span is open (CH_STATUS.SETTLING). A span that a RANGE write opens counts from the write, though it
covers aperture instants from the next one on: DESIGN CHOICE, log entry 96. -/
def Chan.settling (x : Chan) (a : Nat) : Bool :=
  x.spans.any (fun y => y.q == 3 && (match y.stop with | none => true | some e => decide (a < e)))

/-! ### Status, events, open-wire detection -/

/-- A sticky bit of CH_STATUS set (R60). -/
def State.chStick (s : State) (t c : Nat) (f en : Fld) (bit : Nat) : State :=
  s.stick f (chIx t c) (s.on en (chIx t c)) (chSource t c) (chDetail c 0 0 bit)

/-- CH_STATUS.OPEN_NOW: the OR of the three contributions. -/
def Chan.openNow (x : Chan) : Bool := x.dwellOpen || x.contOpen || x.iepeOpen

/-- A channel's contributions to OPEN_NOW changed; a rise of OPEN_NOW sets OPEN (R50). -/
def State.setOpen (s : State) (t c : Nat) (x : Chan) : State :=
  let i := chIx t c
  let was := (s.chan i).openNow
  let s := s.setChan i x
  if x.openNow && !was then s.chStick t c F.CH_STATUS_OPEN F.CH_EVENT_EN_EV_OPEN 2 else s

/-- Whether channel c of Tenon t is powered and converting. -/
def State.converting (s : State) (t c : Nat) : Bool := s.bentOn t (c / 8) && s.on F.CH_CTRL_ENABLE (chIx t c)

/-- The effective RANGE at instant a (R45). -/
def State.rangeAt (s : State) (t c a : Nat) : Nat :=
  let x := s.chan (chIx t c)
  if a < x.rangeFrom then x.rangeOld else s.rd F.CH_CTRL_RANGE (chIx t c)

/-! ### The fast stream -/

/-- The stream ID of a channel's fast stream. -/
def fsSid (t c : Nat) : Nat := streamId 1 t c

/-- A quad word of (code, quality) pairs, sample0 first (R273). -/
def quadWord (l : List (Nat × Nat)) : Nat :=
  ((List.range 4).map (fun j =>
    (l.getD j (0, 0)).1 % 2 ^ 14 * 2 ^ (14 * j) + (l.getD j (0, 0)).2 % 4 * 2 ^ (56 + 2 * j))).sum

/-- The quad word in progress written with pad padding samples (R290, R591). -/
def State.fsWord (s : State) (t c pad : Nat) : State :=
  let i := chIx t c
  let w := quadWord (s.chan i).fsQuad
  let s := s.setChan i { s.chan i with fsQuad := [] }
  s.appendItem (fsSid t c) (fun r => { r with body := r.body ++ [w], items := r.items + 1, hx := r.hx + pad * 2 ^ 24 })

/-- The fast stream's block closed between two samples: the quad word in progress is padded (R591). -/
def State.fsPadClose (s : State) (t c : Nat) (stop : Bool) : State :=
  let i := chIx t c
  let n := (s.chan i).fsQuad.length
  let s : State := if n = 0 then s else
    let st := s.stream (fsSid t c)
    -- the block may not close on its limit before its flags are complete
    (s.setStream (fsSid t c) { st with limit := st.limit + 1 }).fsWord t c (4 - n)
  (s.closeStream (fsSid t c) (stop || (s.chan i).fsEnding)).setChan i { s.chan i with fsClosing := false, fsEnding := false }

/-- The fast stream stopped by a change of mode: a quad word in progress is not sent, and a block that holds no quad
word is not opened after all. -/
def State.fsDrop (s : State) (t c : Nat) : State :=
  let i := chIx t c
  let s := s.setChan i { s.chan i with fsQuad := [], fsClosing := false, fsEnding := false }
  let st := s.stream (fsSid t c)
  match st.cur with
  | none => s
  | some r =>
    if r.items = 0 then
      s.setStream (fsSid t c) { st with
        cur := none, seq := r.seq, restart := bitAt r.flags 3, stepped := bitAt r.flags 0, moved := bitAt r.flags 5 }
    else s.closeStream (fsSid t c) true

/-- A sample offered to the fast stream (R59, R282, R290). -/
def State.fsSample (s : State) (t c : Nat) (tp : Int) (code q : Nat) : State :=
  let i := chIx t c
  if !s.streaming || !(s.on F.CH_CTRL_FS_EN i || (s.chan i).fsEnding) then s
  else
    let s : State := match (s.stream (fsSid t c)).cur with
      | some _ => s
      | none => s.openStream {
          ty := tyFast, stream := fsSid t c, die := t, bent := c / 8, channel := c, epoch := s.rd F.CH_EPOCH i,
          time := tp, hx := s.rd F.CH_DIV_DIV i } (s.rd F.REC_FS_FS_QW i)
    let x := s.chan i
    let s := s.setChan i { x with fsQuad := x.fsQuad ++ [(code, q)] }
    if x.fsQuad.length < 3 then s
    else
      let st := s.stream (fsSid t c)
      -- a block that ends here closes once, with its flags
      let s := (if x.fsEnding then s.setStream (fsSid t c) { st with limit := st.limit + 1 } else s).fsWord t c 0
      if x.fsEnding || x.fsClosing then
        (s.closeStream (fsSid t c) x.fsEnding).setChan i { s.chan i with fsEnding := false, fsClosing := false }
      else s

/-! ### Grid moves (R124, R125) -/

/-- A stream that carries GRID on its next record. -/
def State.markMoved (s : State) (sid : Nat) : State := s.setStream sid { s.stream sid with moved := true }

/-- The sample grid of a channel placed where R119 has it, the channel having no sample yet: its Tenon's counter is loaded, or
its bent comes out of reset. -/
def State.gridPlace (s : State) (t c : Nat) : State :=
  let x := s.chan (chIx t c)
  s.setChan (chIx t c) { x with gridOrg := s.gridOf t c x.alignS, oldGrid := none }

/-- The sample grid of a channel moves: records close, a segment ends, GRID_MOVED is set (R124, R125, R151, R226). -/
def State.gridMove (s : State) (t c : Nat) : State :=
  let i := chIx t c
  let s := s.setChan i { s.chan i with oldGrid := none }
  let s := (s.fsPadClose t c false).closeStream (decSid t c) false
  let s := ((s.markMoved (fsSid t c)).markMoved (decSid t c)).markMoved (streamId 3 t c)
  let s := (s.capCut t c).loopMoved t c
  let k := s.chain i
  (s.setChain i { k with lastQ1 := none, lastQ2 := none, satFrom := none }).wr F.DEC_STATUS_GRID_MOVED i 1

/-- The sample grid placed for the configuration in force and the alignment second; oldP is the period of the old grid.
A new origin off the old grid moves it, at the first aperture instant of the new grid; a channel that does not convert has no
sample to wait for (R119, R124). -/
def State.regrid (s : State) (t c oldP : Nat) : State :=
  let i := chIx t c
  let x := s.chan i
  let org := s.gridOf t c x.alignS
  let old : Int × Nat := match x.oldGrid with
    | some (o, p, _) => (o, p)
    | none => (x.gridOrg, oldP)
  let s := s.setChan i { x with gridOrg := org, oldGrid := none }
  if (org - old.1) % (max 1 old.2 : Nat) = 0 then s
  else if !s.converting t c then s.gridMove t c
  else s.setChan i { s.chan i with oldGrid := some (old.1, old.2, s.gridNext t c (s.now : Int)) }

/-! ### Range, coupling and enable -/

/-- From conversion A of a continuity check to conversion B, and to the end of its recovery (R51, R52). -/
def contPulse : Nat := 51 * usF
def contWhole : Nat := 101 * usF

/-- A continuity check in progress abandoned without a result; it runs again when it can (R54). A result that it has stored
already gives way to that of the last completed check (log entry 17). -/
def State.contAbandon (s : State) (t c : Nat) : State :=
  let i := chIx t c
  let x := s.chan i
  if x.contPhase = 0 || decide (x.contAt + contWhole ≤ s.now) then s
  else
    let y := { x with
      contPhase := 0, contNext := s.now
      spans := x.spans.map (fun y => if y.src = srcCont ∧ y.covers s.now then { y with stop := some s.now } else y) }
    if x.contPhase = 2 then (s.wr F.CH_MON_CONT_DV i x.contWas.1).setOpen t c { y with contOpen := x.contWas.2 }
    else s.setChan i y

/-- 1.2 µs in fine units. -/
def rangeSpan : Nat := 983040

/-- RANGE of a channel written (R45, R54, R127, R206). -/
def State.setRange (s : State) (t c v : Nat) : State :=
  let i := chIx t c
  let v := legalValue F.CH_CTRL_RANGE i v
  let old := s.rd F.CH_CTRL_RANGE i
  if v = old then s
  else
    let a := s.nextAp t c (s.now : Int)
    let now := s.rangeAt t c s.now
    let x := s.chan i
    let s := (s.setChan i { x with
      rangeOld := now, rangeFrom := a, quiet := x.quiet ++ [(a, a + rangeSpan)] }).wr F.CH_CTRL_RANGE i v
    let s := s.addSpan i { src := srcRange, q := 3, start := a, stop := some (a + rangeSpan) }
    ((s.addSup i gcRange { start := a, change := some (a + rangeSpan) }).contAbandon t c).breakGates t (fun g => g.ch == c) 32

/-- The quality-3 span of a coupling setting (R37). -/
def couplingSpan (c : Nat) : Nat :=
  if c = 0 then 20 * usF else if c = 1 then 4970 * msF else 49700 * usF

/-- A change that counts as a coupling change begins its quality-3 span (R37, R127). -/
def State.couplingChange (s : State) (t c old new : Nat) : State :=
  let i := chIx t c
  let e := s.now + max (couplingSpan old) (couplingSpan new)
  (s.addSpan i { src := srcCoupling, q := 3, start := s.now, stop := some e }).addSup i gcCoupling
    { start := s.now, change := some e }

/-- COUPLING written (R37, R54). -/
def State.setCoupling (s : State) (t c v : Nat) : State :=
  let i := chIx t c
  let v := legalValue F.CH_CTRL_COUPLING i v
  let old := s.rd F.CH_CTRL_COUPLING i
  if v = old then s else ((s.wr F.CH_CTRL_COUPLING i v).couplingChange t c old v).contAbandon t c

/-- The instant at which the next continuity check falls due after the checks are enabled. -/
def State.contStart (s : State) (i : Nat) : State :=
  s.setChan i { s.chan i with contNext := s.now + s.rd F.CH_CONT_CONT_PERIOD i * secF }

/-- The IEPE monitor's counts of consecutive readings started afresh (R41). -/
def State.iepeAfresh (s : State) (i : Nat) : State :=
  s.setChan i { s.chan i with band := 4, bandRun := 0, outRun := [0, 0, 0] }

/-- The IEPE monitor's live bits and counts cleared (R41). -/
def State.iepeClear (s : State) (i : Nat) : State :=
  let s := s.iepeAfresh i
  ((s.setChan i { s.chan i with iepeOpen := false }).wr F.CH_STATUS_REVERSED_NOW i 0).wr F.CH_STATUS_SHORT_NOW i 0

/-- IEPE_EN written (R37, R41). -/
def State.setIepe (s : State) (t c : Nat) (v : Bool) : State :=
  let i := chIx t c
  if v = s.on F.CH_CTRL_IEPE_EN i then s
  else
    let cp := s.rd F.CH_CTRL_COUPLING i
    let s := (s.wr F.CH_CTRL_IEPE_EN i (b2n v)).couplingChange t c cp cp
    if v then s.contAbandon t c else (s.iepeClear i).contStart i

/-- The comparator's release at the present instant (R46 to R48, R50). ENABLE going to 0 counts as one (log entry 96). -/
def State.ovrRelease (s : State) (t c : Nat) : State :=
  let i := chIx t c
  if !(s.chan i).ovr then s
  else
    let s := s.setChan i { s.chan i with ovr := false, dwellOpen := false }
    let s := (s.endSpan i srcOverPos s.now).endSpan i srcOverNeg s.now
    let s := s.addSpan i { src := srcRelease, q := 2, start := s.now, stop := some (s.now + 2 * usF) }
    (List.range 8).foldl (fun s k => s.endSpan (chIx t (c / 8 * 8 + k)) (srcTrip + c % 8) (s.now + 5 * usF)) s

/-- What a channel drops when it stops converting: the common-mode condition (DESIGN CHOICE, log entry 96). Its spans run on
by time (R37, R45, R49). -/
def State.chanQuiet (s : State) (i : Nat) : State :=
  let s := s.endSpan i srcCm s.now
  s.setChan i { s.chan i with cm := false, lastAp := none }

/-- ENABLE to 0 (R59, R130, R151): the fast stream ends with a padded quad word, a suppression run is reported with
NO_VALID, a segment ends truncated. -/
def State.enableOff (s : State) (t c : Nat) : State :=
  let i := chIx t c
  if !s.on F.CH_CTRL_ENABLE i then s
  else
    let s := (s.wr F.CH_CTRL_ENABLE i 0).fsPadClose t c true
    let s := ((s.gapNoValid t c true).closeStream (decSid t c) true).supKeep i
    let s := if (s.chan i).oldGrid.isSome then s.gridMove t c else s
    (((s.capCut t c).ovrRelease t c).contAbandon t c).chanQuiet i

/-- Whether a bent is ACTIVE: an ENABLE is 1, or USE is not 0 (R515). -/
def State.bentActive (s : State) (t b : Nat) : Bool :=
  s.rd F.BENT_CTRL_USE (bentIx t b) != 0
    || (List.range 8).any (fun k => s.on F.CH_CTRL_ENABLE (chIx t (8 * b + k)))

/-- SOLO of every bent that follows partner Tenon t set to v (R503). -/
def State.pairSolo (s : State) (t v : Nat) : State :=
  (List.range 96).foldl (fun s i =>
    if s.on F.BENT_PAIR_AUTO_SOLO i && s.rd F.BENT_PAIR_PARTNER_T i = t && s.reachable (i / 16) then s.wr F.BENT_PAIR_SOLO i v
    else s) s

/-- A Tenon that was away ACTIVE again: the bents that follow it leave SOLO (R503). -/
def State.pairBack (s : State) (t : Nat) : State :=
  if (s.tenon t).away && s.reachable t && (List.range 16).any (fun b => s.bentActive t b) then
    (s.setTenon t { s.tenon t with away := false }).pairSolo t 0
  else s

/-- ENABLE to 1 (R37). -/
def State.enableOn (s : State) (t c : Nat) : State :=
  let i := chIx t c
  if s.on F.CH_CTRL_ENABLE i then s
  else
    let cp := s.rd F.CH_CTRL_COUPLING i
    -- a span that ended while nothing was sampled asks nothing of the chain (R128)
    let s := ((s.supKeep i).wr F.CH_CTRL_ENABLE i 1).couplingChange t c cp cp
    ((s.setChan i { s.chan i with lastAp := none }).contStart i).pairBack t

def State.setEnable (s : State) (t c : Nat) (v : Bool) : State := if v then s.enableOn t c else s.enableOff t c

/-- FS_EN written (R59). -/
def State.setFsEn (s : State) (t c : Nat) (v : Bool) : State :=
  let i := chIx t c
  if v = s.on F.CH_CTRL_FS_EN i then s
  else
    let s := s.wr F.CH_CTRL_FS_EN i (b2n v)
    if v then s
    else if (s.chan i).fsQuad = [] then s.closeStream (fsSid t c) true
    else s.setChan i { s.chan i with fsEnding := true }

/-- THRESH and HYST written: no edge for 200 ns, and neither edge is armed (R38, R56). -/
def State.setThresh (s : State) (t c th hy : Nat) : State :=
  let i := chIx t c
  let th := th % 2 ^ 12
  let hy := hy % 2 ^ 6
  if th = s.rd F.CH_DISC_THRESH i && hy = s.rd F.CH_DISC_HYST i then s
  else
    let x := s.chan i
    ((s.setChan i { x with quiet := x.quiet ++ [(s.now, s.now + 163840)], discAt := s.now }).wr F.CH_DISC_THRESH i th).wr
      F.CH_DISC_HYST i hy

/-! ### The pulser -/

/-- Whether the excitation rails of Tenon t allow pulsers and IEPE sources (R532). -/
def State.railsUp (s : State) (t : Nat) : Bool := !(s.tenon t).vexLow

/-- A fire of the test pulser, ignored within 15 µs of the last (R57, R58). -/
def State.firePulser (s : State) (t c : Nat) : State :=
  let i := chIx t c
  let x := s.chan i
  let soon := match x.lastFire with | none => false | some f => decide (s.now < f + 15 * usF)
  if soon || !s.bentOn t (c / 8) || !s.railsUp t then s
  else
    let s := s.setChan i { x with lastFire := some s.now }
    let s := s.addSpan i { src := srcPulse, q := 2, start := s.now, stop := some (s.now + 15 * usF) }
    s.send (.pulse t c (s.rd F.CH_PULSER_AMPL i) (s.on F.CH_PULSER_POL i))

/-- Whether a pulse is in progress: 1 µs of step and 10 µs of return (R57). -/
def State.pulsing (s : State) (i : Nat) : Bool :=
  match (s.chan i).lastFire with
  | none => false
  | some f => decide (s.now < f + 11 * usF)

/-! ### What a sample does -/

/-- The calibrated value (raw − OFS) × GAIN shifted right by sh (R101). Its 14-bit form saturates as the 24-bit one does under
R104: DESIGN CHOICE, log entry 96. -/
def calValue (raw ofs : Int) (gain sh : Nat) : Int := rhu ((raw * 256 - ofs) * (gain : Int)) sh

/-- A raw code at aperture instant a of index n: clamped, graded, and fed to the fast stream, the chain and the
capture engine (R36, R42 to R49, R104). The first sample of a grid that moves makes the move; those still taken on the old
grid reach no chain, whose restart begins with that first sample (R124, R127). -/
def State.channelSample (s : State) (t c : Nat) (n : Int) (a : Nat) (raw : Int) : State :=
  let i := chIx t c
  let old := match (s.chan i).oldGrid with | some (_, _, w) => decide (a < w) | none => false
  let s := if (s.chan i).oldGrid.isSome && !old then s.gridMove t c else s
  let x := s.chan i
  let r := i * 5 + s.rangeAt t c a
  let ofs := s.rdS F.CH_OFS_CAL r
  let gain := s.rd F.CH_GAIN_CAL r
  let q := x.qualityAt a
  let code := if q = 1 then (if x.negAt a raw then -8192 else 8191) else satS (calValue raw ofs gain 38) 14
  let v := if q = 1 then code * 256 else satS (calValue raw ofs gain 30) 24
  let tp := s.sampleTime t (a : Int)
  let s := s.setChan i { x with
    lastAp := some a
    recent := (a, v, q) :: x.recent.take 3
    spans := x.spans.filter (fun y => y.q == 3 || y.stop == none || (match y.stop with | none => true | some e => decide (a < e)))
    quiet := x.quiet.filter (fun y => decide (s.now < y.2)) }
  let s := s.fsSample t c tp (ofSigned 14 code) q
  let s := if old then s else s.chainInput t c n a tp v q
  (s.loopFeed t c n a tp v q).captureSample t c n tp code q

/-! ### The commands -/

/-- OVER_RANGE_TRIP (R46, R48, R49). -/
def execOverRangeTrip (t : Nat) (tenon : Fin 6) (ch : Fin 128) (positive : Bool) (s : State) :
    Host.Outcome State Fault Refusal :=
  let s := s.at_ t
  let i := chIx tenon.val ch.val
  .next (
    if !s.converting tenon.val ch.val || (s.chan i).ovr then s
    else
      let s := s.setChan i { s.chan i with ovr := true, ovrPos := positive, ovrAt := s.now }
      let s := s.addSpan i { src := if positive then srcOverPos else srcOverNeg, q := 1, start := s.now, stop := none }
      let s := (List.range 8).foldl (fun s k =>
        if k = ch.val % 8 then s
        else s.addSpan (chIx tenon.val (ch.val / 8 * 8 + k))
          { src := srcTrip + ch.val % 8, q := 2, start := s.now, stop := none }) s
      (s.countUp F.CH_OR_COUNT_OR_COUNT i 1 65535).chStick tenon.val ch.val F.CH_STATUS_OVR F.CH_EVENT_EN_EV_OVR 0)

/-- OVER_RANGE_RELEASE (R46 to R48, R50). -/
def execOverRangeRelease (t : Nat) (tenon : Fin 6) (ch : Fin 128) (s : State) : Host.Outcome State Fault Refusal :=
  .next ((s.at_ t).ovrRelease tenon.val ch.val)

/-- COMMON_MODE_EXCURSION (R36). -/
def execCommonModeExcursion (t : Nat) (tenon : Fin 6) (ch : Fin 128) (s : State) : Host.Outcome State Fault Refusal :=
  let s := s.at_ t
  let i := chIx tenon.val ch.val
  .next (
    if s.converting tenon.val ch.val && !(s.chan i).cm then
      ((s.setChan i { s.chan i with cm := true }).addSpan i { src := srcCm, q := 1, start := s.now, stop := none }).chStick
        tenon.val ch.val F.CH_STATUS_CM F.CH_EVENT_EN_EV_CM 1
    else s)

/-- COMMON_MODE_RETURN (R36). -/
def execCommonModeReturn (t : Nat) (tenon : Fin 6) (ch : Fin 128) (s : State) : Host.Outcome State Fault Refusal :=
  let s := s.at_ t
  let i := chIx tenon.val ch.val
  .next ((s.setChan i { s.chan i with cm := false }).endSpan i srcCm s.now)

/-- RANGE_CHANGE (R45). -/
def execRangeChange (t : Nat) (tenon : Fin 6) (ch : Fin 128) (range : BitVec 3) (s : State) :
    Host.Outcome State Fault Refusal :=
  let s := s.at_ t
  .next (if s.reachable tenon.val then s.setRange tenon.val ch.val range.toNat else s)

/-- COUPLING_CHANGE: COUPLING, IEPE_EN and ENABLE written (R37, R38). -/
def execCouplingChange (t : Nat) (tenon : Fin 6) (ch : Fin 128) (coupling : BitVec 2) (iepe enable : Bool) (s : State) :
    Host.Outcome State Fault Refusal :=
  let s := s.at_ t
  .next (
    if s.reachable tenon.val then
      ((s.setCoupling tenon.val ch.val coupling.toNat).setIepe tenon.val ch.val iepe).setEnable tenon.val ch.val enable
    else s)

/-- ENABLE_OFF (R59). -/
def execEnableOff (t : Nat) (tenon : Fin 6) (ch : Fin 128) (s : State) : Host.Outcome State Fault Refusal :=
  let s := s.at_ t
  .next (if s.reachable tenon.val then s.enableOff tenon.val ch.val else s)

/-- FS_EN_CHANGE (R59). -/
def execFsEnChange (t : Nat) (tenon : Fin 6) (ch : Fin 128) (on : Bool) (s : State) : Host.Outcome State Fault Refusal :=
  let s := s.at_ t
  .next (if s.reachable tenon.val then s.setFsEn tenon.val ch.val on else s)

/-- SETTLING_SPAN_END (R37, R45): the quality-3 spans that have ended are dropped; their ends are change instants of the
chain since they began (R127). -/
def execSettlingSpanEnd (t : Nat) (tenon : Fin 6) (ch : Fin 128) (s : State) : Host.Outcome State Fault Refusal :=
  let s := s.at_ t
  let i := chIx tenon.val ch.val
  let ended (y : QSpan) : Bool := y.q == 3 && (match y.stop with | none => false | some e => decide (e ≤ s.now))
  .next (s.setChan i { s.chan i with spans := (s.chan i).spans.filter (fun y => !ended y) })

/-- The live bits of the IEPE monitor, in the order of their bands: reversed, short, open. -/
def iepeBands : List Nat := [0, 1, 3]

/-- The band of a bias reading in units of 10 mV (R41). -/
def iepeBand (v : Int) : Nat := if v < -100 then 0 else if v ≤ 100 then 1 else if v ≤ 2200 then 2 else 3

/-- One live bit set or cleared; a rise sets its sticky bit. -/
def State.iepeLive (s : State) (t c k : Nat) (on : Bool) : State :=
  let i := chIx t c
  if k = 3 then s.setOpen t c { s.chan i with iepeOpen := on }
  else
    let live := if k = 0 then F.CH_STATUS_REVERSED_NOW else F.CH_STATUS_SHORT_NOW
    let was := s.on live i
    let s := s.wr live i (b2n on)
    if on && !was then
      (if k = 0 then s.chStick t c F.CH_STATUS_REVERSED F.CH_EVENT_EN_EV_REV 4
       else s.chStick t c F.CH_STATUS_SHORT F.CH_EVENT_EN_EV_SHORT 3)
    else s

/-- IEPE_BIAS_READING (R41): three consecutive readings in a band set its bits, three outside clear its live bit. -/
def execIepeBiasReading (t : Nat) (tenon : Fin 6) (ch : Fin 128) (bias : BitVec 16) (s : State) :
    Host.Outcome State Fault Refusal :=
  let s := s.at_ t
  let tn := tenon.val
  let c := ch.val
  let i := chIx tn c
  .next (
    if !s.converting tn c || !s.on F.CH_CTRL_IEPE_EN i || !s.railsUp tn then s
    else
      let b := iepeBand bias.toInt
      let x := s.chan i
      let run := if x.band = b then min 3 (x.bandRun + 1) else 1
      let outRun := iepeBands.zipWith (fun k n => if k = b then 0 else min 3 (n + 1)) x.outRun
      let s := (s.setChan i { x with band := b, bandRun := run, outRun := outRun }).wr F.CH_MON_IEPE_BIAS i bias.toNat
      let s := (iepeBands.zip outRun).foldl (fun s p => if p.2 = 3 then s.iepeLive tn c p.1 false else s) s
      if run = 3 && b != 2 then s.iepeLive tn c b true else s)

/-- OPEN_DWELL_EXPIRY (R50). -/
def execOpenDwellExpiry (t : Nat) (tenon : Fin 6) (ch : Fin 128) (s : State) : Host.Outcome State Fault Refusal :=
  let s := s.at_ t
  let i := chIx tenon.val ch.val
  let x := s.chan i
  .next (
    if x.ovr && decide (x.ovrAt + s.rd F.CH_OPEN_OPEN_DWELL i * msF ≤ s.now) then
      s.setOpen tenon.val ch.val { x with dwellOpen := true }
    else s)

/-- Whether a continuity check may run now (R51, R54, R194). -/
def State.contReady (s : State) (t c : Nat) : Bool :=
  let i := chIx t c
  let x := s.chan i
  s.converting t c && s.on F.CH_CONT_CONT_EN i && !s.on F.CH_CTRL_IEPE_EN i && decide (x.contNext ≤ s.now)
    && (x.contPhase == 0 || decide (x.contAt + contWhole ≤ s.now)) && !x.ovr && !s.pulsing i && !x.settling s.now
    && (smapGet {} s.stampUnits i : StampUnit).pe.isNone

/-- CONT_CHECK_START (R51, R52): conversion A, in units of 10 µV; 101 µs of quality 2 begin. The next check falls due
CONT_PERIOD, as it stands now, after this conversion A: DESIGN CHOICE, log entry 17. -/
def execContCheckStart (t : Nat) (tenon : Fin 6) (ch : Fin 128) (convA : Int) (s : State) :
    Host.Outcome State Fault Refusal :=
  let s := s.at_ t
  let i := chIx tenon.val ch.val
  .next (
    if s.contReady tenon.val ch.val then
      let s := s.setChan i { s.chan i with
        contPhase := 1, contA := convA, contAt := s.now, contWas := (s.rd F.CH_MON_CONT_DV i, (s.chan i).contOpen)
        contNext := s.now + s.rd F.CH_CONT_CONT_PERIOD i * secF }
      s.addSpan i { src := srcCont, q := 2, start := s.now, stop := some (s.now + contWhole) }
    else s)

/-- CONT_CHECK_PULSE_END (R51, R53): conversion B, in units of 10 µV, at the end of the pulse, 51 µs after conversion A. -/
def execContCheckPulseEnd (t : Nat) (tenon : Fin 6) (ch : Fin 128) (convB : Int) (s : State) :
    Host.Outcome State Fault Refusal :=
  let s := s.at_ t
  let i := chIx tenon.val ch.val
  let x := s.chan i
  .next (
    if x.contPhase = 1 ∧ s.now = x.contAt + contPulse then
      let dv := (convB - x.contA).natAbs
      (s.wr F.CH_MON_CONT_DV i (min dv 65535)).setOpen tenon.val ch.val
        { x with contPhase := 2, contOpen := decide (s.rd F.CH_CONT_CONT_THR i ≤ dv) }
    else s)

/-- CONT_CHECK_RECOVERY_END (R51, R52): the check is over 101 µs after conversion A, and not before. -/
def execContCheckRecoveryEnd (t : Nat) (tenon : Fin 6) (ch : Fin 128) (s : State) : Host.Outcome State Fault Refusal :=
  let s := s.at_ t
  let i := chIx tenon.val ch.val
  let x := s.chan i
  .next (if x.contAt + contWhole ≤ s.now then s.setChan i { x with contPhase := 0 } else s)

/-- DISC_THRESHOLD_CHANGE (R56). -/
def execDiscThresholdChange (t : Nat) (tenon : Fin 6) (ch : Fin 128) (thresh : BitVec 12) (hyst : BitVec 6) (s : State) :
    Host.Outcome State Fault Refusal :=
  let s := s.at_ t
  .next (if s.reachable tenon.val then s.setThresh tenon.val ch.val thresh.toNat hyst.toNat else s)

/-- PULSER_FIRE (R57, R58): a write of 1 to CH_PULSER.FIRE. -/
def execPulserFire (t : Nat) (tenon : Fin 6) (ch : Fin 128) (s : State) : Host.Outcome State Fault Refusal :=
  let s := s.at_ t
  .next (if s.reachable tenon.val then s.firePulser tenon.val ch.val else s)

/-- PULSER_PERIODIC_FIRE (R590): at a whole multiple of PERIOD milliseconds of Plumb time while MODE is 1. -/
def execPulserPeriodicFire (t : Nat) (tenon : Fin 6) (ch : Fin 128) (s : State) : Host.Outcome State Fault Refusal :=
  let s := s.at_ t
  let i := chIx tenon.val ch.val
  .next (
    if s.rd F.CH_PULSER_MODE i = 1
        ∧ s.plumbOfTenon tenon.val (s.now : Int) % ((s.rd F.CH_PULSER_PERIOD i * msF : Nat) : Int) = 0 then
      s.firePulser tenon.val ch.val
    else s)

/-- OR_COUNT_CLR: a write of 1 to CH_OR_COUNT.CLR. -/
def execOrCountClr (tenon : Fin 6) (ch : Fin 128) (s : State) : Host.Outcome State Fault Refusal :=
  .next (if s.reachable tenon.val then s.wr F.CH_OR_COUNT_OR_COUNT (chIx tenon.val ch.val) 0 else s)

/-- FS_BLOCK_TIMEOUT (R282): the block closes at the end of the quad word in progress. -/
def execFsBlockTimeout (t : Nat) (tenon : Fin 6) (ch : Fin 128) (s : State) : Host.Outcome State Fault Refusal :=
  let s := s.at_ t
  let i := chIx tenon.val ch.val
  .next (
    if s.dueAfter (fsSid tenon.val ch.val) (s.rd F.REC_FS_FS_TIMEOUT i * msF) then
      (if (s.chan i).fsQuad = [] then s.closeStream (fsSid tenon.val ch.val) false
       else s.setChan i { s.chan i with fsClosing := true })
    else s)

/-- DEC_BLOCK_TIMEOUT (R282). -/
def execDecBlockTimeout (t : Nat) (tenon : Fin 6) (ch : Fin 128) (s : State) : Host.Outcome State Fault Refusal :=
  let s := s.at_ t
  .next (
    if s.dueAfter (decSid tenon.val ch.val) (s.rd F.REC_DEC_DEC_TIMEOUT (chIx tenon.val ch.val) * msF) then
      s.closeStream (decSid tenon.val ch.val) false
    else s)

end Sys2Proof.Machine
end

