-- ==== Sys2Proof/Machine/Bent.lean ====
section
/-! DEFINITION. The bent scanner and its excitation driver (03_bent_scanner.md): use of the driver, passes and
entries, lead steps, results, the calibration bus, calibration constants. Measured quantities reach the commands in
pV, pA and mΩ (log entry 12). -/

namespace Sys2Proof.Machine

open Sys2Proof

def State.bent (s : State) (i : Nat) : Bent := smapGet {} s.bents i
def State.setBent (s : State) (i : Nat) (x : Bent) : State := { s with bents := smapSet {} s.bents i x }

/-- A sticky bit of BENT_STATUS set (R103). -/
def State.bentStick (s : State) (t b : Nat) (f : Fld) (bit : Nat) : State :=
  s.bentEvent t b f (bitAt (s.rd F.BENT_EVENT_EN_EV_MASK (bentIx t b)) bit) 0

/-! ### Excitation -/

/-- Profile p of a bent as its registers hold it. -/
def State.profile (s : State) (i p : Nat) : ExcProf :=
  let k := i * 4 + p
  { num := p, wave := s.rd F.EXC_PROF_WAVE k, reg := s.rd F.EXC_PROF_REG k, sense := s.on F.EXC_PROF_SENSE k,
    settle := s.rd F.EXC_PROF_SETTLE k, duration := s.rd F.EXC_PROF_DURATION k, ampl := s.rd F.EXC_PROF_AMPL k,
    freq := s.rd F.EXC_PROF_FREQ k, fStart := s.rd F.EXC_PROF_F_START k, fStop := s.rd F.EXC_PROF_F_STOP k }

/-- Fine units of n carrier periods of a sine profile, rounded up. -/
def ExcProf.carriers (p : ExcProf) (n : Nat) : Nat := ceilDiv (n * secF * 100) p.freq

/-- The length of a ramp of a waveform (R62, R83): 8 carrier periods of a sine, 100 µs of DC, none of a waveform that the rules
give no carrier period, a sweep or a pluck (DESIGN CHOICE, log entry 102). -/
def ExcProf.ramp (p : ExcProf) : Nat :=
  if p.wave = 3 then p.carriers 8 else if p.wave = 1 ∨ p.wave = 2 then 100 * usF else 0

/-- The requirement of R129 on the channels of the bent with EXC_DEP at 1: a change of the excitation begins, whose ramp ends at
instant e where that is known. -/
def State.excSupOpen (s : State) (t b : Nat) (e : Option Nat) : State :=
  (List.range 8).foldl (fun s k =>
    if s.on F.DEC_CTRL_EXC_DEP (chIx t (8 * b + k)) then
      s.addSup (chIx t (8 * b + k)) gcExc { start := s.now, change := e }
    else s) s

/-- The ramp of the change in progress ends at instant e: its ramp is known now, or another change or a guard cuts it off
(R129). -/
def State.excSupEnd (s : State) (t b e : Nat) : State :=
  (List.range 8).foldl (fun s k =>
    let i := chIx t (8 * b + k)
    s.setChain i { s.chain i with
      sups := (s.chain i).sups.map (fun x => if x.cause = gcExc ∧ x.ahead e then { x with change := some e } else x) }) s

/-- CAL_LEVEL as the bus has it: regulated DC voltage, AMPL holding the level's register bits (R97). -/
def State.calProfile (s : State) (i : Nat) : ExcProf := { num := 4, wave := 1, ampl := s.rd F.BENT_CAL_CAL_LEVEL i }

/-- Whether a bent's driver drives CAL_LEVEL onto the bus: SRC_EN is 1, no entry of its own runs, and it is not the loop
slice's, on its way between users, or off (R97; log entry 102). -/
def State.drivesBus (s : State) (t b : Nat) : Bool :=
  let x := s.bent (bentIx t b)
  s.on F.BENT_CAL_SRC_EN (bentIx t b) && x.entry.isNone && x.user != 2 && x.useRamp.isNone && !x.guard && s.bentOn t b

/-- A bent with its driver as it stands: what it puts out (prof), and the ramp under way to another waveform with the instants
at which the old one has ended and the new one is up (R83, R97). -/
def State.driver (s : State) (t b : Nat) : Bent :=
  let x := s.bent (bentIx t b)
  if s.drivesBus t b then { x with prof := some (s.calProfile (bentIx t b)), rampTo := none }
  else match x.rampTo with
    | none => x
    | some (p, d, e) =>
      { x with
        prof := if d ≤ s.now then some p else x.prof
        rampTo := if e ≤ s.now then none else x.rampTo }

/-- The ramp of what the driver puts out. -/
def Bent.ramp (x : Bent) : Nat :=
  match x.prof with
  | none => 0
  | some p => p.ramp

/-- The instant at which the driver's output is zero, when it turns from what it puts out at instant now (R62, R83): a ramp
down that is under way goes on. -/
def Bent.downAt (x : Bent) (now : Nat) : Nat :=
  match x.rampTo with
  | some (_, d, _) => if now < d then d else now + x.ramp
  | none => now + x.ramp

/-- The driver turned to the waveform of a profile (R83): the one in use, or the one it ramps to, goes on unbroken. -/
def Bent.turnTo (x : Bent) (now : Nat) (p : ExcProf) : Bent :=
  if (match x.rampTo with | some (q, _, _) => some q | none => x.prof) = some p then x
  else
    let d := x.downAt now
    if d + p.ramp = now then { x with prof := some p, rampTo := none } else { x with rampTo := some (p, d, d + p.ramp) }

/-! ### The calibration bus (R97, R99) -/

/-- The PGA of a channel switched to or from the bus: a chain restart at the switch, quality 2 until 5 µs after the
switch-back. -/
def State.busSwitch (s : State) (t c : Nat) (on : Bool) : State :=
  let i := chIx t c
  let x := s.chan i
  if x.onBus = on then s
  else
    let s := s.setChan i { x with onBus := on }
    let s := if on then s.addSpan i { src := srcBus, q := 2, start := s.now, stop := none }
      else s.endSpan i srcBus (s.now + 5 * usF)
    if s.on F.DEC_CTRL_DEC_EN i then s.chainRestart t c gcBus s.now else s

/-- The channels whose bit of CH_MASK is 1 switched to the bus, the others from it: while a bus entry runs on the bent, none
once it does not (R99). -/
def State.busMask (s : State) (t b : Nat) (on : Bool) : State :=
  (List.range 8).foldl (fun s k =>
    s.busSwitch t (8 * b + k) (on && bitAt (s.rd F.BENT_CAL_CH_MASK (bentIx t b)) k)) s

/-- Whether a measuring entry of a bent of Tenon t other than b uses the bus. -/
def State.busInUse (s : State) (t b : Nat) : Bool :=
  (List.range 16).any (fun j => j != b && (match (s.bent (bentIx t j)).entry with
    | some e => e.mode == 0 && e.input == 12
    | none => false))

/-- The bent that drives the bus: the lowest-numbered of those whose driver does. -/
def State.busSource (s : State) (t : Nat) : Option Nat := (List.range 16).find? (fun j => s.drivesBus t j)

/-! ### Results (R77, R95, R96) -/

def scanSid (t b : Nat) : Nat := streamId 4 t b
def driftSid (t : Nat) : Nat := streamId 9 t 0

/-- Bits of a result's FLAGS (R293). -/
def sfOpen : Nat := 1
def sfReversed : Nat := 2
def sfLeadHigh : Nat := 4
def sfOvr : Nat := 8
def sfExcLimit : Nat := 16
def sfExcShort : Nat := 32
def sfUrgent : Nat := 64
def sfLeadMeas : Nat := 128
def sfConfig : Nat := 256

/-- Whether scanner results leave the bent. -/
def State.scanOut (s : State) : Bool := s.streaming || s.mode == mDormant

/-- A result queued, with the sticky bits it sets (R95, R96, R293). An open record keeps the REC_N it was opened with (DESIGN
CHOICE, log entry 102). -/
def State.scanResult (s : State) (t b : Nat) (e : EntryRun) (value second lead : Int) (time : Int) : State :=
  let i := bentIx t b
  let p := plumbWord time
  let fl := e.flags ||| (if e.urgent then sfUrgent else 0)
  let ws := [
    e.idx + e.input * 2 ^ 4 + e.mode * 2 ^ 8 + e.sub * 2 ^ 12 + fl % 512 * 2 ^ 16 + ofSigned 32 (satS value 32) * 2 ^ 32,
    ofSigned 32 (satS second 32) + ofSigned 32 lead * 2 ^ 32, p % 2 ^ 64, p / 2 ^ 64]
  let s := if fl &&& sfOpen ≠ 0 then s.bentStick t b F.BENT_STATUS_OPEN 1 else s
  let s := if fl &&& sfReversed ≠ 0 then s.bentStick t b F.BENT_STATUS_REVERSED 2 else s
  let s := if fl &&& sfLeadHigh ≠ 0 then s.bentStick t b F.BENT_STATUS_LEAD_HIGH 3 else s
  if !s.scanOut then s
  else
    let sid := scanSid t b
    let s : State := match (s.stream sid).cur with
      | some _ => s
      | none => s.openStream
          { ty := tyScan, stream := sid, die := t, bent := b, epoch := s.rd F.SCAN_EPOCH_EPOCH i, time := time }
          (s.rd F.BENT_REC_REC_N i)
    s.appendItem sid (fun r => { r with body := r.body ++ ws, items := r.items + 1 })

/-- A drift record in place of a result (R98, R299). Where no bent drives the bus, its source and its expected level are open;
where that level is 0, the difference is. -/
def State.driftRecord (s : State) (t b : Nat) (measured : Int) (time : Int) : State :=
  let (src, expected, s) : Nat × Int × State := match s.busSource t with
    | some j => (j, s.rdS F.BENT_CAL_CAL_LEVEL (bentIx t j) * 100000, s)
    | none => (Config.freeBits 4 s.free % 16, toSigned 32 (Config.freeBits 32 (s.free + 1)), { s with free := s.free + 2 })
  let (diff, s) : Nat × State :=
    if expected = 0 then (Config.freeBits 32 s.free % 2 ^ 32, { s with free := s.free + 1 })
    else
      let d := if 0 < expected then divHalfUp ((measured - expected) * 1000000000) expected
        else divHalfUp ((expected - measured) * 1000000000) (-expected)
      (ofSigned 32 (satS d 32), s)
  if !s.scanOut then s
  else s.txWhole {
    ty := tyDrift, stream := driftSid t, die := t, bent := b, epoch := s.rd F.SCAN_EPOCH_EPOCH (bentIx t b), time := time,
    body := [src + b * 2 ^ 4 + diff * 2 ^ 32, ofSigned 32 (satS expected 32) + ofSigned 32 (satS measured 32) * 2 ^ 32] }

/-! ### Entries -/

/-- The start instants of passes: the Plumb time is a whole multiple of PASS_PERIOD; a paired bent takes those of its
slot (R65, R502). -/
def State.startInstant (s : State) (t b : Nat) : Bool :=
  let i := bentIx t b
  let per : Int := ((s.rd F.BENT_PASS_PASS_PERIOD i * msF : Nat) : Int)
  let now := s.plumbOfTenon t (s.now : Int)
  if s.on F.BENT_PAIR_EN i && !s.on F.BENT_PAIR_SOLO i then
    per != 0 && now % per == 0 && now / per % 2 == (s.rd F.BENT_PAIR_SLOT i : Int)
  else per == 0 || now % per == 0

/-- Whether the combination of INPUT, mode and profile is in the mode table (R72, R77). -/
def permitted (mode sub input : Nat) (p : ExcProf) : Bool :=
  let ext := decide (input ≤ 7)
  if mode = 0 then p.wave == 0
  else if mode = 1 ∨ mode = 2 then ext && p.wave == 3 && p.reg == 0
  else if mode = 3 then ext && (p.wave == 1 || p.wave == 2) && p.reg == 1
  else if mode = 4 then ext && (p.wave == 1 || p.wave == 2) && p.reg == 0
  else if mode = 5 then ext && (p.wave == 4 || p.wave == 5)
  else if mode = 6 then ext && (if sub = 0 then p.wave == 0 else p.wave == 1 && p.reg == 0)
  else (ext || input == 11) && (p.wave == 1 || p.wave == 2) && p.reg == 1

/-- Whether an entry's connection is 6-wire (R77, R78). -/
def EntryRun.sixWire (e : EntryRun) : Bool := (e.mode == 1 && bitAt e.sub 2) || (e.mode == 2 && e.prof.sense)

/-- The length of an entry's lead step: P and N, N alone, or none (R90). -/
def EntryRun.leadStep (e : EntryRun) : Nat :=
  if e.sixWire then 400 * usF else if e.mode = 3 ∧ e.sub = 1 then 200 * usF else 0

/-- The connect instant of an entry (R64). -/
def EntryRun.connectAt (e : EntryRun) : Nat := max e.dischEnd (max (e.leadEnd.getD 0) (e.rampEnd.getD 0))

/-- Entry idx of a bent with the values its registers hold (R68). -/
def State.entryRun (s : State) (i idx : Nat) (urgent : Bool) : EntryRun :=
  let k := i * 16 + idx
  { idx := idx, urgent := urgent, input := s.rd F.SEQ_ENTRY_INPUT k, mode := s.rd F.SEQ_ENTRY_MODE k,
    sub := s.rd F.SEQ_ENTRY_SUB k, gain := s.rd F.SEQ_ENTRY_GAIN k, prof := s.profile i (s.rd F.SEQ_ENTRY_PROFILE k),
    leadPol := s.rd F.SEQ_ENTRY_LEAD_POL k, sampleTime := s.rd F.SEQ_ENTRY_SAMPLE_TIME k,
    regUnit := s.rd F.SEQ_ENTRY_REG_UNIT k, listen := s.rd F.SEQ_ENTRY_LISTEN k,
    dischEnd := s.now + (2 + s.rd F.SEQ_ENTRY_DISCH k) * usF }

/-- The end of an entry, urgent or of a pass (R65, R67, R94). One that outlived its pass, the sequencer having been stopped,
ends alone. -/
def State.entryEnd (s : State) (t b : Nat) : State :=
  let i := bentIx t b
  let x := s.bent i
  match x.entry with
  | none => s
  | some e =>
    let s := if e.mode = 0 ∧ e.input = 12 then s.busMask t b false else s
    let x := { x with entry := none, lastEntry := e.idx }
    if e.lone && !e.urgent then s.setBent i x
    else if e.urgent then
      let go := x.missed && x.seqOn
      s.setBent i { x with
        urgent := none, missed := false, passOn := go || x.passOn, next := if go then 0 else x.next,
        passes := if go then x.passes + 1 else x.passes }
    else
      let more := x.seqOn && decide (e.idx < s.rd F.BENT_CTRL_SEQ_LEN_M1 i)
      s.setBent i { x with passOn := more, next := e.idx + 1 }

/-- An entry ended before its sampling time with value 0 and a flag (R72, R85, R88, R91). No sample carries weight in
such a result, so the time that R71 would give it is open. -/
def State.entryFail (s : State) (t b : Nat) (e : EntryRun) (flag : Nat) : State :=
  let time := plumbOfWord (Config.freeBits 80 s.free % 2 ^ 80)
  ({ s with free := s.free + 1 }.scanResult t b { e with flags := e.flags ||| flag } 0 0 0 time).entryEnd t b

/-- An entry abandoned without a result (R62, R502, R514). -/
def State.entryAbandon (s : State) (t b : Nat) : State :=
  let i := bentIx t b
  match (s.bent i).entry with
  | none => s
  | some e =>
    let s := if e.mode = 0 ∧ e.input = 12 then s.busMask t b false else s
    let s := s.endSpan (chIx t (8 * b + e.input % 8)) srcExc s.now
    s.setBent i { s.bent i with entry := none, lastEntry := e.idx, urgent := none, missed := false }

/-- An entry of a bent starts (R63, R69, R72, R83, R90). -/
def State.entryStart (s : State) (t b idx : Nat) (urgent : Bool) : State :=
  let i := bentIx t b
  let drv := s.driver t b
  let x := s.bent i
  let e := s.entryRun i idx urgent
  let s := s.setBent i { x with entry := some e, lastEntry := idx }
  if !permitted e.mode e.sub e.input e.prof then s.entryFail t b e sfConfig
  else
    let n := s.rd F.SEQ_ENTRY_LEAD_N (i * 16 + idx)
    let due := !urgent && decide (2 ≤ e.leadPol) && (x.passes - 1) % max 1 n == 0 && decide (0 < e.leadStep)
    let y := drv.turnTo s.now e.prof
    let change := y.rampTo != drv.rampTo && y.rampTo.isSome
    let e := { e with
      leadEnd := if due then some (s.now + e.leadStep) else none
      rampEnd := y.rampTo.map (fun r => r.2.2) }
    let s := s.setBent i { s.bent i with entry := some e, prof := y.prof, rampTo := y.rampTo }
    if change then (s.excSupEnd t b s.now).excSupOpen t b e.rampEnd else s

/-- ENTRY_START (R69, R93 to R95, R97): the urgent entry that waits, or the next entry of the pass. -/
def execEntryStart (t : Nat) (tenon : Fin 6) (bent : Fin 16) (s : State) : Host.Outcome State Fault Refusal :=
  let s := s.at_ t
  let tn := tenon.val
  let b := bent.val
  let i := bentIx tn b
  let x := s.bent i
  let room := match (s.stream (scanSid tn b)).cur with | none => true | some r => decide (r.items < 64)
  let paused := s.on F.BENT_CAL_SRC_EN i && s.busInUse tn b
  .next (
    if !s.bentOn tn b || x.user ≠ 1 || x.entry.isSome || !room || paused || x.guard || x.useRamp.isSome then s
    else match x.urgent with
      | some e => s.entryStart tn b e true
      | none => if x.seqOn && x.passOn && decide (x.next ≤ s.rd F.BENT_CTRL_SEQ_LEN_M1 i) then
          s.entryStart tn b x.next false else s)

/-- The stages of the notches that BENT_CTRL enables, in cascade: two moving averages each, empty (R75). -/
def State.notches (s : State) (i : Nat) : List Mav :=
  let two (on : Bool) (n : Nat) : List Mav := if on then [{ len := n }, { len := n }] else []
  two (s.on F.BENT_CTRL_NOTCH_50 i) 800 ++ two (s.on F.BENT_CTRL_NOTCH_60 i) 667 ++ two (s.on F.BENT_CTRL_NOTCH_167 i) 2395

/-- The sampling of an entry begun at the present instant, for the whole sampling time or half of it (R69, R70, R75). -/
def State.sampling (s : State) (i : Nat) (e : EntryRun) (ph : EntryPhase) : EntryRun :=
  let sine := e.prof.wave == 3
  let settle := if sine then e.prof.carriers e.prof.settle else e.prof.settle * 20 * usF
  let stages := s.notches i
  let fill := (stages.map Mav.len).sum * 25 * usF
  let span := if sine then e.prof.carriers e.sampleTime
    else if e.prof.wave = 2 then e.sampleTime * usF / 2 else e.sampleTime * usF
  let from_ := s.now + settle
  { e with
    phase := ph, weighFrom := if ph = .second then e.weighFrom else from_, fillFrom := from_, sampFrom := from_ + fill
    sampTo := from_ + fill + span, stages := stages, dec := 0, acc := {} }

/-- The end of a sweep or pluck that begins at the present instant (R80, R82). -/
def State.driveEnd (s : State) (p : ExcProf) : Nat :=
  s.now + (if p.wave = 4 then p.duration * msF else ceilDiv secF (2 * p.fStart))

/-- ENTRY_CONNECT (R64, R80, R85, R99): the router connects the entry's source. -/
def execEntryConnect (t : Nat) (tenon : Fin 6) (bent : Fin 16) (s : State) : Host.Outcome State Fault Refusal :=
  let s := s.at_ t
  let tn := tenon.val
  let b := bent.val
  let i := bentIx tn b
  let x := s.bent i
  .next (
    match x.entry with
    | none => s
    | some e =>
      if e.phase ≠ .connect || decide (s.now < e.connectAt) || !s.bentOn tn b then s
      else
        let x := s.driver tn b
        if e.prof.wave ≠ 0 && s.on F.BENT_STATUS_EXC_SHORT_NOW i then s.entryFail tn b e sfExcShort
        else if e.mode = 5 then
          let s := s.addSpan (chIx tn (8 * b + e.input)) { src := srcExc, q := 2, start := s.now, stop := none }
          s.setBent i { x with entry := some { e with phase := .drive, excEnd := s.driveEnd e.prof } }
        else
          let s := if e.mode = 0 ∧ e.input = 12 then s.busMask tn b true else s
          s.setBent i { x with entry := some (s.sampling i e .sample) })

/-- LEAD_STEP_END (R90, R91): the resistances of the measured loops in mΩ. -/
def execLeadStepEnd (t : Nat) (tenon : Fin 6) (bent : Fin 16) (loopP loopN : Nat) (s : State) :
    Host.Outcome State Fault Refusal :=
  let s := s.at_ t
  let tn := tenon.val
  let b := bent.val
  let i := bentIx tn b
  let x := s.bent i
  .next (
    match x.entry with
    | none => s
    | some e =>
      match e.leadEnd with
      | none => s
      | some le =>
        if s.now < le || e.phase ≠ .connect || e.flags &&& sfLeadMeas ≠ 0 then s
        else
          let e := { e with flags := e.flags ||| sfLeadMeas }
          if 1250000 < loopN || (e.sixWire && 1250000 < loopP) then s.entryFail tn b e sfOpen
          else
            let k := i * 8 + e.input
            let n := (loopN + 1) / 2
            let p := (loopP + 1) / 2
            let s := s.wr F.LEAD_LEAD_N k n
            let s := if e.sixWire then s.wr F.LEAD_LEAD_P k p else s
            let mx := s.rd F.BENT_LEADMAX_LEAD_MAX i
            let high := decide (mx < n) || (e.sixWire && decide (mx < p))
            s.setBent i { s.bent i with
              entry := some { e with flags := if high then e.flags ||| sfLeadHigh else e.flags } })

/-! #### The demodulator (R73 to R75, R101) -/

/-- 2^48 times the cosine of r · 2^-32 turns, r up to a quarter turn: the series of the cosine, in Horner's form. -/
def cosSeries (r : Nat) : Int :=
  let th : Int := (r : Int) * 884279719003555 / 2 ^ 31
  let sq := th * th / 2 ^ 48
  [9, 8, 7, 6, 5, 4, 3, 2, 1].foldl (fun c (j : Int) => 2 ^ 48 - sq * c / ((2 * j - 1) * (2 * j) * 2 ^ 48)) (2 ^ 48)

/-- The cosine of the phase p · 2^-32 turns in units of 2^-12, rounded half up (R74). Its width is the model's: the finest whose
sum over the longest period stays within the 48-bit accumulators (DESIGN CHOICE, log entry 101). -/
def carrierCos (p : Nat) : Int :=
  let r := p % 2 ^ 30
  let k := p / 2 ^ 30 % 4
  rhu (if k = 0 then cosSeries r else if k = 1 then -cosSeries (2 ^ 30 - r) else if k = 2 then -cosSeries r
    else cosSeries (2 ^ 30 - r)) 36

/-- The sine of a phase: the cosine a quarter turn earlier. -/
def carrierSin (p : Nat) : Int := carrierCos (p + 3 * 2 ^ 30)

/-- Whether a scanner sample, in LSB, lies beyond 105 % of the range (R73). -/
def scanOver (x : Int) : Bool := decide (8192 * 105 < x.natAbs * 100)

/-- A scanner sample of an entry, in LSB, clamped to the end codes and corrected with the constants of its GAIN code, in units
of 1/256 LSB (R73, R101). -/
def State.scanValue (s : State) (i gain : Nat) (x : Int) : Int :=
  calValue (satS x 14) (s.rdS F.SCAN_OFS_CAL (i * 4 + gain)) (s.rd F.SCAN_GAIN_CAL (i * 4 + gain)) 30

/-- I and Q of a demodulation period, in units of 2^-20 LSB, from its corrected samples with the phase of the excitation at each:
(2/N) × the sums in sine modes, the mean in DC modes (R74). -/
def demodulate (sine : Bool) (xs : List (Int × Nat)) : Int × Int :=
  let n : Int := ((max 1 xs.length : Nat) : Int)
  if sine then
    let f (g : Nat → Int) : Int := divHalfUp (2 * satS (xs.map (fun x => x.1 * g x.2)).sum 48) n
    (f carrierCos, f carrierSin)
  else (divHalfUp (satS (xs.map (fun x => x.1)).sum 48 * 2 ^ 12) n, 0)

/-- A value put into a moving average: the sum of the values it then holds, its length times their mean (R75). -/
def Mav.push (x : Mav) (v : Int × Int) : Mav × (Int × Int) :=
  let h := (v :: x.hist).take x.len
  ({ x with hist := h }, ((h.map (fun p => p.1)).sum, (h.map (fun p => p.2)).sum))

/-- A value put through a cascade of moving averages. -/
def notchPush (v : Int × Int) : List Mav → List Mav × (Int × Int)
  | [] => ([], v)
  | x :: l =>
    let (y, w) := x.push v
    let (m, u) := notchPush w l
    (y :: m, u)

/-- k values v put through the notches of an entry, and added to its sums where it samples (R74, R75). -/
def EntryRun.notched (e : EntryRun) (v : Int × Int) (live : Bool) : Nat → EntryRun
  | 0 => e
  | k + 1 =>
    let (m, u) := notchPush v e.stages
    let a := e.acc
    ({ e with stages := m, acc := if live then { a with n := a.n + 1, i := a.i + u.1, q := a.q + u.2 } else a }).notched v live k

/-- What a demodulation period of n samples, of value v and current cur, that ends at instant now gives an entry: its samples
fill the notches from the end of the discarded periods and count in the sums from the end of the fill (R69, R70, R74, R75). With
no notch the result is the mean of the periods; a notch acts on the 40 kS/s stream, one sample of 50 of the ADC, each having the
value of its period. -/
def EntryRun.period (e : EntryRun) (now n : Nat) (v : Int × Int) (cur : Int) : EntryRun :=
  if now ≤ e.fillFrom ∨ e.sampTo < now then e
  else
    let live := decide (e.sampFrom < now)
    let k := if e.stages = [] then 1 else (e.dec + n) / 50
    let e := { e with dec := (e.dec + n) % 50 }.notched v live k
    if live then { e with acc := { e.acc with m := e.acc.m + 1, cur := e.acc.cur + cur } } else e

/-- DEMOD_PERIOD_END (R73, R74, R81, R86 to R88): the scanner samples of the period in LSB, as the ADC would give them without
its limits; the phase of the excitation at each in 2^-32 turns; the current monitor's amplitude in pA before its gain
constant; the two force-sense differences in µV; whether the sense polarity is reversed. -/
def execDemodPeriodEnd (t : Nat) (tenon : Fin 6) (bent : Fin 16) (xs : List Int) (phases : List Nat) (cur : Int)
    (dropP dropN : Nat) (rev : Bool) (s : State) : Host.Outcome State Fault Refusal :=
  let s := s.at_ t
  let tn := tenon.val
  let b := bent.val
  let k := bentIx tn b
  let x := s.bent k
  .next (
    match x.entry with
    | none => s
    | some e =>
      if e.phase ≠ .sample && e.phase ≠ .second then s
      else
        let v := demodulate (e.prof.wave == 3) ((xs.map (s.scanValue k e.gain)).zip phases)
        let cur := rhu (cur * (s.rd F.IMON_GAIN_CAL k : Int)) 30
        let e := { e with
          flags := e.flags ||| (if xs.any scanOver then sfOvr else 0) ||| (if rev && e.prof.wave != 0 then sfReversed else 0) }
        let open_ := (e.prof.wave != 0 && decide (cur < 20000000)) || (e.sixWire && decide (2000000 < max dropP dropN))
          || (e.mode == 6 && decide (v.1.natAbs * 10 ^ 13 < 25000000000 * 2 ^ 33 * 8 ^ e.gain))
        if open_ then (s.setBent k { x with entry := some e }).entryFail tn b e sfOpen
        else s.setBent k { x with entry := some (e.period s.now xs.length v cur) })

/-- POLARITY_REVERSAL (R69): the second half of a DC-reversing entry. -/
def execPolarityReversal (t : Nat) (tenon : Fin 6) (bent : Fin 16) (s : State) : Host.Outcome State Fault Refusal :=
  let s := s.at_ t
  let i := bentIx tenon.val bent.val
  let x := s.bent i
  .next (
    match x.entry with
    | none => s
    | some e =>
      if e.phase = .sample && e.prof.wave = 2 && decide (e.sampTo ≤ s.now) then
        s.setBent i { x with entry := some (s.sampling i { e with plus := e.acc } .second) }
      else s)

/-- A quotient rounded half up, of any nonzero divisor. -/
def divRound (n d : Int) : Int := if 0 < d then divHalfUp n d else divHalfUp (-n) (-d)

/-- The stored lead values in mΩ that an entry's policy subtracts (R78, R79, R89): policy 3 subtracts nothing, but acts as
policy 1 where no loop is measured (R90). Inputs above 7 have no LEAD registers. -/
def State.leadParts (s : State) (i : Nat) (e : EntryRun) : List Nat :=
  let k := i * 8 + e.input
  let p := s.rd F.LEAD_LEAD_P k
  let n := s.rd F.LEAD_LEAD_N k
  if e.leadPol = 0 ∨ (e.leadPol = 3 ∧ 0 < e.leadStep) ∨ 7 < e.input ∨ e.sixWire then []
  else if e.mode = 1 ∨ e.mode = 2 then [p, n]
  else if e.mode = 3 then (if e.sub = 0 then [p, n] else if e.sub = 1 then [n] else [])
  else if (e.mode = 4 ∨ e.mode = 7) ∧ e.sub = 0 then [p, n]
  else []

/-- The lead value that is subtracted. -/
def State.leadUsed (s : State) (i : Nat) (e : EntryRun) : Nat := (s.leadParts i e).sum

/-- Whether a stored value that is subtracted lies above LEAD_MAX (R91). -/
def State.leadHigh (s : State) (i : Nat) (e : EntryRun) : Bool :=
  (s.leadParts i e).any (fun v => decide (s.rd F.BENT_LEADMAX_LEAD_MAX i < v))

/-- How many of the sums' units one pV is, times 10^13, for one value: the LSB of a GAIN code is 10 V / 2^13 / 8^GAIN, and each
notch stage multiplies by its length. -/
def EntryRun.scale (e : EntryRun) : Int :=
  ((2 ^ 33 * 8 ^ e.gain * (e.stages.map Mav.len).foldl (· * ·) 1 : Nat) : Int)

/-- The value and second value of an entry from its sums (R77 to R81), none where a divisor is 0. -/
def State.entryValue (s : State) (i : Nat) (e : EntryRun) : Option (Int × Int) :=
  let a := e.acc
  -- the mean voltage in pV is a.i · 10^13 / n
  let n : Int := (a.n : Int) * e.scale
  let v : Int := 10 ^ 13
  let m : Int := (a.m : Int)
  let lead : Int := (s.leadUsed i e : Nat)
  if n = 0 then none
  else if e.mode = 0 then some (divRound (a.i * v) (n * 10000), 0)
  else if e.mode = 1 ∨ e.mode = 2 then
    -- A in units of 1/1000 pV, times m: AMPL less the lead drop of the mean peak current
    let ampl : Int := ((e.prof.ampl * 10 ^ 12 : Nat) : Int) * m - a.cur * lead
    let r (y : Int) : Int := divRound (y * v * 1000 * 2 ^ 31 * m) (n * ampl)
    if ampl = 0 then none else some (r a.i, r a.q)
  else if e.mode = 6 then some (divRound (a.i * v) (n * 50000), 0)
  else
    -- V as num / den in pV, I as c / k in pA
    let p := e.plus
    let np : Int := (p.n : Int) * e.scale
    let rev := e.prof.wave == 2
    let k : Int := if rev then m + (p.m : Int) else m
    let c := if rev then a.cur + p.cur else a.cur
    let num := if rev then (p.i * n - a.i * np) * v else a.i * v
    let den := if rev then 2 * n * np else n
    if den * c = 0 then none
    else some (divRound (num * k * 1000 - lead * den * c) (den * c), divRound c (k * 1000))

/-- ENTRY_SAMPLING_END (R71, R77, R88, R98): the result is queued, or the drift record sent. -/
def execEntrySamplingEnd (t : Nat) (tenon : Fin 6) (bent : Fin 16) (s : State) : Host.Outcome State Fault Refusal :=
  let s := s.at_ t
  let tn := tenon.val
  let b := bent.val
  let i := bentIx tn b
  let x := s.bent i
  .next (
    match x.entry with
    | none => s
    | some e =>
      let ends := (e.phase == .sample && e.prof.wave != 2) || e.phase == .second
      if !ends || decide (s.now < e.sampTo) then s
      else
        let time := rhu (s.plumbOfTenon tn (e.weighFrom : Int) + s.plumbOfTenon tn (e.sampTo : Int)) 1
        let (v, s) : (Int × Int) × State := match s.entryValue i e with
          | some v => (v, s)
          | none => ((toSigned 32 (Config.freeBits 32 s.free), toSigned 32 (Config.freeBits 32 (s.free + 1))),
              { s with free := s.free + 2 })
        let openCh := e.mode == 0 && decide (e.input ≤ 7) && (s.chan (chIx tn (8 * b + e.input))).openNow
        let e := { e with flags := ((e.flags ||| (if openCh then sfOpen else 0))
                     ||| (if e.mode = 6 ∧ v.1 < 0 then sfReversed else 0)) ||| (if s.leadHigh i e then sfLeadHigh else 0) }
        let s := if e.mode = 0 ∧ e.input = 12 then s.driftRecord tn b v.1 time
          else s.scanResult tn b e v.1 v.2 ((s.leadUsed i e : Nat) : Int) time
        s.entryEnd tn b)

/-- VW_LISTEN_END (R80): the decay amplitude at the start of the listen span in pV peak. -/
def execVwListenEnd (t : Nat) (tenon : Fin 6) (bent : Fin 16) (amp : Int) (s : State) :
    Host.Outcome State Fault Refusal :=
  let s := s.at_ t
  let tn := tenon.val
  let b := bent.val
  let x := s.bent (bentIx tn b)
  .next (
    match x.entry with
    | none => s
    | some e =>
      if e.phase ≠ .listen || decide (s.now < e.excEnd + e.listen * msF) then s
      else
        let time := s.plumbOfTenon tn (e.excEnd : Int) + ((e.listen * msF / 2 : Nat) : Int)
        (s.scanResult tn b e (divHalfUp amp 10000) (e.regUnit : Int) 0 time).entryEnd tn b)

/-! ### Use of the driver, passes -/

/-- The sequencer of a bent started: the next start instant starts the first pass (R67). -/
def State.seqStart (s : State) (i : Nat) : State :=
  s.setBent i { s.bent i with seqOn := true, passOn := false, passes := 0, next := 0, missed := false }

/-- Whether the sequencer may run. -/
def State.seqMay (s : State) (i : Nat) : Bool :=
  (s.bent i).user == 1 && (s.bent i).useRamp.isNone && s.on F.BENT_CTRL_SEQ_RUN i && s.scanOut

/-- SEQ_RUN to 0 (R67): the entry in progress completes, and the pass goes no further. -/
def State.seqStop (s : State) (i : Nat) : State :=
  let x := s.bent i
  s.setBent i { x with
    seqOn := false, missed := false, passOn := false, entry := x.entry.map (fun e => { e with lone := true }) }

/-- SEQ_RUN written. -/
def State.setSeqRun (s : State) (t b : Nat) (v : Bool) : State :=
  let i := bentIx t b
  if v = s.on F.BENT_CTRL_SEQ_RUN i then s
  else
    let s := s.wr F.BENT_CTRL_SEQ_RUN i (b2n v)
    if v then (if s.seqMay i then s.seqStart i else s) else s.seqStop i

/-- A slice stopped at a period boundary: it computes no further, and the driver's output ramps to zero over 100 µs (R239);
where the slice gives up the driver, that is the ramp of R62. -/
def State.loopStop (s : State) (t b : Nat) : State :=
  let i := bentIx t b
  let x := s.loop i
  let e := s.now + 100 * usF
  let s := s.setLoop i { x with
    running := false, tripped := false, fresh := false, hand := false, rearm := false, slewing := false, reg := 0
    dacDue := none, down := some e }
  match (s.bent i).useRamp with
  | some (a, none) => (s.setBent i { s.bent i with useRamp := some (a, some e) }).excSupEnd t b e
  | _ => s

/-- The slice's output at instant now, in DAC codes: what the DAC last converted, falling to zero after a stop (R225, R239). -/
def Loop.output (x : Loop) (now : Nat) : Int :=
  match x.down with
  | none => x.dac
  | some e => divHalfUp (x.dac * ((e - now : Nat) : Int)) ((100 * usF : Nat) : Int)

/-- The incoming user takes the driver (R62). -/
def State.useTake (s : State) (i u : Nat) : State :=
  let s := s.setBent i { s.bent i with user := u, useRamp := none }
  if s.seqMay i then s.seqStart i else s

/-- The user of the driver stops and the excitation ramps to zero (R62, R239, R514): from the boundary at which a slice that runs
stops. A ramp that is under way goes on. -/
def State.useLeave (s : State) (t b : Nat) : State :=
  let i := bentIx t b
  let x := s.driver t b
  if x.useRamp.isSome then s
  else
    let y := s.loop i
    let e : Option Nat := if x.user = 2 then (if y.running || y.tripped then none else some (max s.now (y.down.getD 0)))
      else some (x.downAt s.now)
    let s := ((s.excSupEnd t b s.now).entryAbandon t b).seqStop i
    let s := s.setBent i { s.bent i with prof := none, rampTo := none, urgent := none }
    if e = some s.now then s
    else (s.setBent i { s.bent i with user := 0, useRamp := some (s.now, e) }).excSupOpen t b e

/-- BENT_CTRL.USE written (R61, R62, R129, R239). Written again while the excitation still ramps to zero, it changes only who
takes the driver at the ramp's end. -/
def State.setUse (s : State) (t b v : Nat) : State :=
  let i := bentIx t b
  let v := legalValue F.BENT_CTRL_USE i v
  if v = s.rd F.BENT_CTRL_USE i then s
  else
    let s := ((s.wr F.BENT_CTRL_USE i v).pairBack t).useLeave t b
    if (s.bent i).useRamp.isNone then s.useTake i v else s

/-- USE_CHANGE (R62). -/
def execUseChange (t : Nat) (tenon : Fin 6) (bent : Fin 16) (use : BitVec 2) (s : State) :
    Host.Outcome State Fault Refusal :=
  let s := s.at_ t
  .next (if s.reachable tenon.val then s.setUse tenon.val bent.val use.toNat else s)

/-- EXCITATION_RAMP_END (R62, R80, R83, R208): the incoming user takes the driver, or the sweep or pluck of a
vibrating-wire entry ends, its router opens and its regression gate is requested. -/
def execExcitationRampEnd (t : Nat) (tenon : Fin 6) (bent : Fin 16) (s : State) : Host.Outcome State Fault Refusal :=
  let s := s.at_ t
  let tn := tenon.val
  let b := bent.val
  let i := bentIx tn b
  let x := s.bent i
  .next (
    match x.useRamp, x.entry with
    | some (_, e), _ =>
      if (match e with | none => true | some e => decide (s.now < e)) then s else s.useTake i (s.rd F.BENT_CTRL_USE i)
    | none, some e =>
      if e.phase = .drive && decide (e.excEnd ≤ s.now) then
        let c := 8 * b + e.input
        let s := (s.endSpan (chIx tn c) srcExc e.excEnd).setBent i { x with entry := some { e with phase := .listen } }
        s.regRequest tn b e.idx e.regUnit c (s.plumbOfTenon tn (e.excEnd : Int)) e.listen
      else s
    | none, none => s)

/-- SEQ_RUN_START (R67). -/
def execSeqRunStart (t : Nat) (tenon : Fin 6) (bent : Fin 16) (s : State) : Host.Outcome State Fault Refusal :=
  let s := s.at_ t
  .next (if s.reachable tenon.val then s.setSeqRun tenon.val bent.val true else s)

/-- SEQ_RUN_STOP (R67). -/
def execSeqRunStop (t : Nat) (tenon : Fin 6) (bent : Fin 16) (s : State) : Host.Outcome State Fault Refusal :=
  let s := s.at_ t
  .next (if s.reachable tenon.val then s.setSeqRun tenon.val bent.val false else s)

/-- PASS_START (R65, R66, R94, R502, R532): a start instant starts a pass, waits for an urgent entry, or is skipped. An entry
that outlived its stopped pass still counts as that pass running (DESIGN CHOICE, log entry 102). -/
def execPassStart (t : Nat) (tenon : Fin 6) (bent : Fin 16) (s : State) : Host.Outcome State Fault Refusal :=
  let s := s.at_ t
  let tn := tenon.val
  let b := bent.val
  let i := bentIx tn b
  let x := s.bent i
  let s1 := s.setBent i { x with guard := false }
  .next (
    if !x.seqOn || !s.startInstant tn b || !s.bentOn tn b then s
    else if (s.tenon tn).vexLow then
      (if s.rd F.BENT_PASS_PASS_PERIOD i = 0 then s
       else (s1.countUp F.BENT_COUNT_PASS_SKIPS i 1 32767).bentStick tn b F.BENT_STATUS_PASS_SKIP 5)
    else if x.passOn || (match x.entry with | some e => !e.urgent | none => false) then
      (if s.rd F.BENT_PASS_PASS_PERIOD i = 0 then s
       else (s1.countUp F.BENT_COUNT_PASS_SKIPS i 1 32767).bentStick tn b F.BENT_STATUS_PASS_SKIP 5)
    else if x.urgent.isSome then s.setBent i { x with missed := true, guard := false }
    else s.setBent i { x with passOn := true, next := 0, passes := x.passes + 1, guard := false })

/-- PAIR_GUARD_START (R502): GUARD µs before the end of a paired bent's slot its driver goes high-impedance, its
router opens and its entry is abandoned. -/
def execPairGuardStart (t : Nat) (tenon : Fin 6) (bent : Fin 16) (s : State) : Host.Outcome State Fault Refusal :=
  let s := s.at_ t
  let tn := tenon.val
  let b := bent.val
  let i := bentIx tn b
  let per : Int := ((s.rd F.BENT_PASS_PASS_PERIOD i * msF : Nat) : Int)
  let now := s.plumbOfTenon tn (s.now : Int)
  .next (
    if s.on F.BENT_PAIR_EN i && !s.on F.BENT_PAIR_SOLO i && per != 0 && now / per % 2 == (s.rd F.BENT_PAIR_SLOT i : Int)
        && decide (per - now % per ≤ ((s.rd F.BENT_PAIR_GUARD i * usF : Nat) : Int)) then
      let s := (s.excSupEnd tn b s.now).entryAbandon tn b
      s.setBent i { s.bent i with guard := true, passOn := false, prof := none, rampTo := none }
    else s)

/-- An urgent request for the entry BENT_URGENT names (R93). One that comes while the scanner does not have the driver is dropped
and counted (DESIGN CHOICE, log entry 102). -/
def State.urgentReq (s : State) (t b : Nat) : State :=
  let i := bentIx t b
  let x := s.bent i
  if x.user = 1 && x.entry.isNone && x.urgent.isNone && !x.passOn then
    s.setBent i { x with urgent := some (s.rd F.BENT_URGENT_ENTRY i) }
  else (s.countUp F.BENT_COUNT_URGENT_DROPS i 1 65535).bentStick t b F.BENT_STATUS_URGENT_DROP 4

/-- URGENT_GO (R93). -/
def execUrgentGo (t : Nat) (tenon : Fin 6) (bent : Fin 16) (s : State) : Host.Outcome State Fault Refusal :=
  let s := s.at_ t
  .next (if s.reachable tenon.val then s.urgentReq tenon.val bent.val else s)

/-! ### The driver's limits (R84, R85) -/

/-- The driver of a slice has been at a limit, or shut down, in the period in progress (R230). -/
def State.loopLimited (s : State) (i : Nat) : State :=
  if (s.bent i).user = 2 then s.setLoop i { s.loop i with excLim := true } else s

/-- EXC_CURRENT_LIMIT (R84, R230). -/
def execExcCurrentLimit (t : Nat) (tenon : Fin 6) (bent : Fin 16) (s : State) : Host.Outcome State Fault Refusal :=
  let s := s.at_ t
  let i := bentIx tenon.val bent.val
  let x := s.bent i
  let s := s.loopLimited i
  .next (
    match x.entry with
    | none => s
    | some e =>
      if (e.phase = .sample ∨ e.phase = .second) ∧ e.sampFrom ≤ s.now ∧ s.now ≤ e.sampTo then
        s.setBent i { x with entry := some { e with flags := e.flags ||| sfExcLimit } }
      else s)

/-- EXC_SHUTDOWN (R85): the driver shuts down after 50 µs at its limit. -/
def execExcShutdown (t : Nat) (tenon : Fin 6) (bent : Fin 16) (s : State) : Host.Outcome State Fault Refusal :=
  let s := s.at_ t
  let tn := tenon.val
  let b := bent.val
  let i := bentIx tn b
  .next (
    if !s.bentOn tn b || s.on F.BENT_STATUS_EXC_SHORT_NOW i then s
    else
      let s := ((s.wr F.BENT_STATUS_EXC_SHORT_NOW i 1).setBent i { s.bent i with shutAt := s.now }).loopLimited i
      s.bentStick tn b F.BENT_STATUS_EXC_SHORT 0)

/-- EXC_RETRY (R85): once every second; the driver is up again unless the current is still at its limit. -/
def execExcRetry (t : Nat) (tenon : Fin 6) (bent : Fin 16) (shorted : Bool) (s : State) : Host.Outcome State Fault Refusal :=
  let s := s.at_ t
  let i := bentIx tenon.val bent.val
  let x := s.bent i
  .next (
    if s.on F.BENT_STATUS_EXC_SHORT_NOW i && decide (x.shutAt + secF ≤ s.now) then
      let s := s.setBent i { x with shutAt := s.now }
      if shorted then s else (s.loopLimited i).wr F.BENT_STATUS_EXC_SHORT_NOW i 0
    else s)

/-- SCAN_RECORD_TIMEOUT (R96). -/
def execScanRecordTimeout (t : Nat) (tenon : Fin 6) (bent : Fin 16) (s : State) : Host.Outcome State Fault Refusal :=
  let s := s.at_ t
  .next (
    if s.dueAfter (scanSid tenon.val bent.val) (s.rd F.BENT_REC_REC_TIMEOUT (bentIx tenon.val bent.val) * msF) then
      s.closeStream (scanSid tenon.val bent.val) false
    else s)

/-- BENT_COUNT_CLR: a write of 1 to BENT_COUNT.CLR. -/
def execBentCountClr (tenon : Fin 6) (bent : Fin 16) (s : State) : Host.Outcome State Fault Refusal :=
  .next (
    if s.reachable tenon.val then
      (s.wr F.BENT_COUNT_URGENT_DROPS (bentIx tenon.val bent.val) 0).wr F.BENT_COUNT_PASS_SKIPS (bentIx tenon.val bent.val) 0
    else s)

/-! ### Calibration constants and leads (R92, R102, R281) -/

/-- The scanner epoch of a bent incremented; the records that carry it close. -/
def State.scanEpoch (s : State) (t b : Nat) : State :=
  let i := bentIx t b
  (s.closeStream (scanSid t b) false).wr F.SCAN_EPOCH_EPOCH i ((s.rd F.SCAN_EPOCH_EPOCH i + 1) % 65536)

/-- The epoch of a fast channel incremented; the records that carry it close, and a segment ends, with the values held for the
next one (R281, R591; log entry 106). -/
def State.chEpoch (s : State) (t c : Nat) : State :=
  let i := chIx t c
  let s := ((s.fsPadClose t c false).closeStream (decSid t c) false).capCut t c
  let s := if s.fbCh t (c / 8) = c then s.closeStream (telSid t (c / 8)) false else s
  s.wr F.CH_EPOCH i ((s.rd F.CH_EPOCH i + 1) % 65536)

/-- A calibration constant of a bent at byte offset off of its block written with v (R102): constants of the scanner,
the current monitor and the excitation DAC move the scanner epoch, those of fast channel k its channel's. -/
def State.calWrite (s : State) (t b off v : Nat) : State :=
  let i := bentIx t b
  let scan (f : Fld) (k : Nat) : State :=
    if s.rd f k = v % 2 ^ f.width then s else (s.wr f k v).scanEpoch t b
  let chan (f : Fld) (k c : Nat) : State :=
    if s.rd f k = v % 2 ^ f.width then s else (s.wr f k v).chEpoch t c
  if off < 0x300 then s
  else if off < 0x310 then scan F.SCAN_GAIN_CAL (i * 4 + (off - 0x300) / 4)
  else if off < 0x320 then scan F.SCAN_OFS_CAL (i * 4 + (off - 0x310) / 4)
  else if off / 4 = 0x320 / 4 then scan F.EXC_GAIN_CAL i
  else if off / 4 = 0x324 / 4 then scan F.EXC_OFS_CAL i
  else if off / 4 = 0x328 / 4 then scan F.IMON_GAIN_CAL i
  else if off < 0x400 ∨ 0x600 ≤ off then s
  else
    let k := (off - 0x400) / 0x40
    let o := (off - 0x400) % 0x40
    let r := o / 8
    if 5 ≤ r then s
    else if o % 8 < 4 then chan F.CH_GAIN_CAL ((i * 8 + k) * 5 + r) (8 * b + k)
    else chan F.CH_OFS_CAL ((i * 8 + k) * 5 + r) (8 * b + k)

/-- CAL_CONSTANT_WRITE (R102). -/
def execCalConstantWrite (t : Nat) (tenon : Fin 6) (bent : Fin 16) (off : BitVec 12) (value : BitVec 32) (s : State) :
    Host.Outcome State Fault Refusal :=
  let s := s.at_ t
  .next (if s.reachable tenon.val then s.calWrite tenon.val bent.val off.toNat value.toNat else s)

/-- A host write of a lead value of an input (R92). -/
def State.leadWrite (s : State) (t b input : Nat) (neg : Bool) (v : Nat) : State :=
  let k := bentIx t b * 8 + input
  (s.wrLegal (if neg then F.LEAD_LEAD_N else F.LEAD_LEAD_P) k v).scanEpoch t b

/-- LEAD_WRITE (R92). -/
def execLeadWrite (t : Nat) (tenon : Fin 6) (bent : Fin 16) (input : Fin 8) (neg : Bool) (value : BitVec 20) (s : State) :
    Host.Outcome State Fault Refusal :=
  let s := s.at_ t
  .next (if s.reachable tenon.val then s.leadWrite tenon.val bent.val input.val neg value.toNat else s)

/-! ### Starting and stopping a slice (R238, R239) -/

/-- LOOP_START (R238): RUN and USE 2 hold, the driver is the slice's, and it has not started: it starts with this
boundary's period. -/
def execLoopStart (t : Nat) (tenon : Fin 6) (bent : Fin 16) (s : State) : Host.Outcome State Fault Refusal :=
  let s := s.at_ t
  let i := bentIx tenon.val bent.val
  let x := s.loop i
  .next (
    if s.on F.LOOP_CTRL_RUN i && s.rd F.BENT_CTRL_USE i = 2 && (s.bent i).user = 2 && !x.running && !x.tripped
        && s.bentOn tenon.val bent.val && s.loopBoundary tenon.val bent.val s.now then
      s.setLoop i (x.restart 0)
    else s)

/-- LOOP_STOP (R239): RUN is 0 or USE is not 2 at a boundary; the output ramps to zero. -/
def execLoopStop (t : Nat) (tenon : Fin 6) (bent : Fin 16) (s : State) : Host.Outcome State Fault Refusal :=
  let s := s.at_ t
  let i := bentIx tenon.val bent.val
  .next (
    if ((s.loop i).running || (s.loop i).tripped) && (!s.on F.LOOP_CTRL_RUN i || s.rd F.BENT_CTRL_USE i ≠ 2)
        && s.loopBoundary tenon.val bent.val s.now then s.loopStop tenon.val bent.val
    else s)

end Sys2Proof.Machine
end

