-- ==== Sys2Proof/Machine/Segments.lean ====
section
/-! DEFINITION. The commands of the capture engine (05_segmented_capture.md): triggers, the re-arm instant, arming,
stopping and reading, the read-out into the transmit FIFO. -/

namespace Sys2Proof.Machine

open Sys2Proof

/-- CROSS_TRIGGER (R141): the oldest fire of the bent's cross-trigger on its way to a channel with SRC_BENT at 1 reaches it. -/
def execCrossTrigger (t : Nat) (tenon : Fin 6) (ch : Fin 128) (s : State) : Host.Outcome State Fault Refusal :=
  let s := s.at_ t
  let tn := tenon.val
  let c := ch.val
  let i := chIx tn c
  .next (
    match (s.cap i).xtPend with
    | [] => s
    | x :: rest =>
      let s := s.setCap i { s.cap i with xtPend := rest }
      if !s.on F.CAP_CTRL_SRC_BENT i then s
      else
        let (late, s) := s.timedTrig tn c x
        if late then s.refuseTrig tn c false else s)

/-- A Plumb-timed trigger at time x reaches Tenon t (R142, R143). -/
def State.fabTrig (s : State) (t : Nat) (x : Int) : State :=
  if !s.acquiring t then s
  else (List.range 128).foldl (fun s c =>
    if s.on F.CAP_CTRL_SRC_FABRIC (chIx t c) then
      let (late, s) := s.timedTrig t c x
      if late then s.countUp F.CAP_FAB_FAB_LATE t 1 65535 else s
    else s) s

/-- PLUMB_TIMED_TRIGGER (R142, R143). -/
def execPlumbTimedTrigger (t : Nat) (tenon : Fin 6) (time : BitVec 80) (s : State) : Host.Outcome State Fault Refusal :=
  .next ((s.at_ t).fabTrig tenon.val (plumbOfWord time.toNat))

/-- A write of 1 to CAP_FORCE.FORCE (R144): the next value judges it. -/
def State.capForce (s : State) (t c : Nat) : State := s.setCap (chIx t c) { s.cap (chIx t c) with force := true }

/-- CAPTURE_FORCE (R144). -/
def execCaptureForce (t : Nat) (tenon : Fin 6) (ch : Fin 128) (s : State) : Host.Outcome State Fault Refusal :=
  let s := s.at_ t
  .next (if s.reachable tenon.val then s.capForce tenon.val ch.val else s)

/-- REARM_INSTANT (R150): 0.8 µs after the last value of a segment the channel is armed again. -/
def execRearmInstant (t : Nat) (tenon : Fin 6) (ch : Fin 128) (s : State) : Host.Outcome State Fault Refusal :=
  let s := s.at_ t
  let i := chIx tenon.val ch.val
  let k := s.cap i
  .next (
    if s.capState i = csCapturing && k.cur.isNone && decide (k.rearm ≤ s.plumbOfTenon tenon.val (s.now : Int)) then
      s.wr F.CAP_STATE_STATE i csArmed
    else s)

/-- A channel named by CAPTURE_ARM (R154): its segments go at once, and the first value that follows finds it in pre-fill. -/
def State.capArm (s : State) (t c : Nat) : State :=
  let i := chIx t c
  if s.rd F.CAP_PAGES_PAGES i = 0 then s
  else
    let k := s.cap i
    let s := s.capEmpty i
    s.setCap i { s.cap i with
      nextNum := 0, rearm := -(2 ^ 100 : Int), fresh := true, prior := if k.fresh then k.prior else s.capState i
      armPrev := if k.fresh then k.armPrev else some k.prevTime }

/-- A channel named by CAPTURE_STOP (R157). In HOLD mode its completed segments stay. -/
def State.capStop (s : State) (t c : Nat) : State :=
  let i := chIx t c
  (s.setCap i { s.cap i with cur := none, curLeft := 0, fresh := false, accOpen := false, accTrig := none }).wr
    F.CAP_STATE_STATE i csStopped

/-- The jobs of CAPTURE_READ that wait on a channel: (job, segment) pairs, oldest first. The answer of a read-out step
tells a job what became of its segment: some true sent, some false uncorrectable. -/
def State.segNext (s : State) (i : Nat) : Option (Option Nat × Seg) :=
  let k := s.cap i
  if s.rd F.CAP_CTRL_MODE i = 1 then (k.segs.head?).map (fun g => (none, g))
  else match k.reads with
    | [] => none
    | (job, n) :: _ => (k.segs.find? (fun g => g.num == n)).map (fun g => (some job, g))

/-- A segment's part counted as sent; a segment of STREAM mode whose last part has gone frees its slot (R156). -/
def State.segSent (s : State) (i : Nat) (job : Option Nat) (g : Seg) : State :=
  let k := s.cap i
  let g' := { g with sent := g.sent + 1 }
  let whole := decide (g'.parts ≤ g'.sent)
  match job with
  | none =>
    s.setCap i { k with segs := if whole then k.segs.drop 1 else g' :: k.segs.drop 1 }
  | some _ =>
    let g' := if whole then { g' with sent := 0 } else g'
    s.setCap i { k with
      segs := k.segs.map (fun x => if x.num = g.num then g' else x), reads := if whole then k.reads.drop 1 else k.reads }

/-- An uncorrectable word met in a read-out (R161): ECC is set, and in STREAM mode the channel stops and a loss record
stands for the unsent parts. -/
def State.segBad (s : State) (t c : Nat) (job : Option Nat) (g : Seg) : State :=
  let i := chIx t c
  let s := s.capEcc t c
  let k := s.cap i
  match job with
  | none =>
    let s := (s.setCap i { k with segs := k.segs.drop 1 }).capStop t c
    -- each unsent part takes a sequence number and is lost with cause 3 (R286, R288)
    (List.range (g.parts - g.sent)).foldl (fun s j =>
      let (r, s) := s.number (g.record t c (g.sent + j) [])
      [false, true].foldl (fun s b =>
        if b && s.part != .vt8 then s
        else s.setLoss (b2n b) r.stream (some (addLoss (s.loss (b2n b) r.stream) r 3))) s) s
  | some j => s.setCap i { k with
      segs := k.segs.map (fun x => if x.num = g.num then { x with sent := 0 } else x), reads := k.reads.filter (fun x => x.1 != j) }

/-- One record of the read-out sent when it fits whole: which job it served, whether a segment was completed, and
whether an uncorrectable word ended the job (R158 to R161). -/
def State.segStep (s : State) (t c : Nat) : Option (Nat × Bool × Bool) × State :=
  let i := chIx t c
  match s.segNext i with
  | none => (none, s)
  | some (job, g) =>
    let n := min 512 (g.wordCount - 512 * g.sent)
    -- a stamp that may be its fine time is still to come (R148)
    let unsettled := g.fineEdge ≠ 3 && !s.orderPassed t g.fineTo
    if !s.acquiring t || !s.fitsTx t (8 + n) || unsettled then (none, s)
    else
      let w0 := g.base
      -- in HOLD mode the read-out stops before the segment (R161)
      let (all, s) : Option (List Nat) × State :=
        if g.sent = 0 && job.isSome && decide (1 < g.parts) then s.segRead t w0 g.wordCount else (some [], s)
      match all with
      | none => (job.map (fun j => (j, false, true)), s.segBad t c job g)
      | some _ =>
        let (d, s) := s.segRead t (w0 + 512 * g.sent) n
        match d with
        | none => (job.map (fun j => (j, false, true)), s.segBad t c job g)
        | some words =>
          let r := g.record t c g.sent words
          let done := decide (g.parts ≤ g.sent + 1)
          -- the last record of a stopped stream (R157, R283)
          let last := job.isNone && done && s.capState i == csStopped && (s.cap i).segs.length == 1
          let r := if last then { r with flags := r.flags ||| flStop } else r
          ((job.map (fun j => (j, done, false))), (s.txWhole r).segSent i job g)

/-- CAP_COUNT_CLR: a write of 1 to CAP_COUNT.CLR. -/
def execCapCountClr (tenon : Fin 6) (ch : Fin 128) (s : State) : Host.Outcome State Fault Refusal :=
  .next (
    if s.reachable tenon.val then
      (s.wr F.CAP_COUNT_BLIND (chIx tenon.val ch.val) 0).wr F.CAP_COUNT_BUSY (chIx tenon.val ch.val) 0
    else s)

/-- CAP_FAB_CLR: a write of 1 to CAP_FAB.CLR. -/
def execCapFabClr (tenon : Fin 6) (s : State) : Host.Outcome State Fault Refusal :=
  .next (if s.reachable tenon.val then s.wr F.CAP_FAB_FAB_LATE tenon.val 0 else s)

end Sys2Proof.Machine
end

