-- ==== Sys2Proof/Machine/Stamp.lean ====
section
/-! DEFINITION. Edge stamping: interpolators and their calibration, stamps and stamp streams, interval units, the
pulse-echo check (06_stamping.md). -/

namespace Sys2Proof.Machine

open Sys2Proof

def State.stampUnit (s : State) (i : Nat) : StampUnit := smapGet {} s.stampUnits i
def State.setStampUnit (s : State) (i : Nat) (x : StampUnit) : State :=
  { s with stampUnits := smapSet {} s.stampUnits i x }
def State.intUnit (s : State) (i : Nat) : IntUnit := smapGet {} s.intUnits i
def State.setIntUnit (s : State) (i : Nat) (x : IntUnit) : State := { s with intUnits := smapSet {} s.intUnits i x }

/-- A sticky bit of ST_STATUS set (R199). -/
def State.stStick (s : State) (t c : Nat) (f : Fld) (bit : Nat) : State :=
  s.stick f (chIx t c) (bitAt (s.rd F.ST_EVENT_EN_EV_MASK (chIx t c)) bit) (chSource t c) (chDetail c 2 0 bit)

/-! ### Tables (R172 to R175) -/

/-- The default table entry k of M. -/
def defaultTab (m k : Nat) : Nat := (k * 512 * 2 + m) / (2 * m)

/-- An entry of a table; an empty list is the default table. -/
def tabEntry (l : List Nat) (m k : Nat) : Nat := if l = [] then defaultTab m k else l.getD k 0

/-- The table of a histogram, in order of increasing time, and whether it is valid (R172). -/
def tableOf (m : Nat) (hist : List Nat) : List Nat × Bool :=
  let step (acc : List Nat × Nat × Bool) (h : Nat) : List Nat × Nat × Bool :=
    let (l, cum, ok) := acc
    let c2 : Int := ((2 * cum + h : Nat) : Int)
    let e : Int := if m = 32 then 16 * rhu c2 16 else rhu c2 12
    (l ++ [e.toNat], cum + h, ok && decide (2 ^ 20 / (4 * m) ≤ h) && decide (h ≤ 4 * 2 ^ 20 / m))
  let r := hist.foldl step ([], 0, true)
  (r.1, r.2.2)

/-- The age of a table in whole seconds, 255 for the default table. -/
def tableAge (at_ : Option Nat) (now : Nat) : Nat :=
  match at_ with
  | none => 255
  | some a => min 255 ((now - a) / secF)

/-- Whether a stamp taken with a table carries CAL_STALE (R174). -/
def State.stale (s : State) (t : Nat) (at_ : Option Nat) : Bool :=
  match at_ with
  | none => true
  | some a => decide (s.rd F.ST_CALCFG_MAX_AGE t * secF < s.now - a)

/-- Whether the vernier of a channel is in use (R168). -/
def State.vernOn (s : State) (i : Nat) : Bool := s.part == .vt8 && s.on F.ST_CTRL_VERN_EN i

/-- CAL_RUN_START (R171): at a whole Plumb second a run starts for each interpolator; one that had not finished is abandoned
(R173). -/
def execCalRunStart (t : Nat) (tenon : Fin 6) (ch : Fin 128) (s : State) : Host.Outcome State Fault Refusal :=
  let s := s.at_ t
  let i := chIx tenon.val ch.val
  .next (
    if s.acquiring tenon.val && s.plumbOfTenon tenon.val (s.now : Int) % (secF : Int) == 0 then
      s.setStampUnit i { s.stampUnit i with phCal := true, vnCal := s.part == .vt8 } else s)

/-- CAL_RUN_END (R172, R173): a run that holds 2^20 hits ends; a valid table replaces the one in use. -/
def execCalRunEnd (t : Nat) (tenon : Fin 6) (ch : Fin 128) (vernier : Bool) (hist : List Nat) (s : State) :
    Host.Outcome State Fault Refusal :=
  let s := s.at_ t
  let i := chIx tenon.val ch.val
  let x := s.stampUnit i
  let m := if vernier then 512 else 32
  .next (
    if !(if vernier then x.vnCal else x.phCal) || !s.acquiring tenon.val then s
    else
      let x := if vernier then { x with vnCal := false } else { x with phCal := false }
      if hist.length ≠ m || hist.sum ≠ 2 ^ 20 then s.setStampUnit i x
      else
        let (tab, ok) := tableOf m hist
        if ok then
          s.setStampUnit i (if vernier then { x with vnTab := tab, vnAt := some s.now }
            else { x with phTab := tab, phAt := some s.now })
        else (s.setStampUnit i x).stStick tenon.val ch.val F.ST_STATUS_CAL_FAULT 2)

/-! ### Edges (R164 to R170) -/

/-- Whether the discriminator of a channel may pass at the present instant an edge that is armed since the instant armed
(R45, R56, R164): after a change of THRESH or HYST only a level beyond the hysteresis band at or after the change arms. -/
def State.edgeAllowed (s : State) (t c armed : Nat) : Bool :=
  let i := chIx t c
  decide ((s.chan i).discAt ≤ armed) && s.bentOn t (c / 8) && s.on F.CH_DISC_DISC_EN i && (s.tenon t).locked
    && (s.stampUnit i).pe.isNone
    && !(s.chan i).quiet.any (fun y => decide (y.1 ≤ s.now) && decide (s.now < y.2))

/-- Ticks from the TCLK edge of a stamp to its release: 480 ns (R170). -/
def stampLatency : Nat := 768

/-- DISCRIMINATOR_EDGE (R55, R164 to R169): an edge at instant t, given with the code that the phase interpolator returns and
the instant at which the signal last lay beyond the hysteresis band, on the side that arms the edge. -/
def execDiscriminatorEdge (t : Nat) (tenon : Fin 6) (ch : Fin 128) (falling : Bool) (edge : Fin 32 × Nat)
    (s : State) : Host.Outcome State Fault Refusal :=
  let s := s.at_ t
  let tn := tenon.val
  let c := ch.val
  let i := chIx tn c
  let sel := s.rd F.CH_DISC_DISC_EDGE i
  .next (
    if !s.edgeAllowed tn c edge.2 || (sel = 0 && falling) || (sel = 1 && !falling) then s
    else
      let x := s.stampUnit i
      let dead := match x.lastEdge with | none => false | some e => decide (s.now < e + 5 * tickF)
      if dead then (s.setStampUnit i { x with pileup := true }).countUp F.ST_COUNT_DEAD i 1 65535
      else
        let vern := s.vernOn i && decide (x.vernBusy ≤ s.now)
        let st : Stamp := {
          tick := s.now / tickF, pol := b2n falling, phase := tabEntry x.phTab 32 edge.1.val, vern := vern, code := none
          off := (s.tenon tn).off,
          dly := s.rd F.ST_DLY_DISC_DLY (i * 5 + s.rangeAt tn c s.now), coarse := s.vernOn i && !vern, pileup := x.pileup,
          stalePh := s.stale tn x.phAt, staleVn := false, epoch := s.rd F.ST_EPOCH_EPOCH tn }
        s.setStampUnit i { x with
          lastEdge := some s.now, pileup := false, vernBusy := if vern then s.now + 640 * tickF else x.vernBusy
          flight := x.flight ++ [st] })

/-- VERNIER_DONE (R168, R169): the conversion of the oldest stamp that the vernier still holds ends; none means no
coincidence within 512 steps. steps is the number of cycles less one. The table in use then makes the stamp (R173, R174). -/
def execVernierDone (t : Nat) (tenon : Fin 6) (ch : Fin 128) (steps : Option (Fin 512)) (s : State) :
    Host.Outcome State Fault Refusal :=
  let s := s.at_ t
  let i := chIx tenon.val ch.val
  let x := s.stampUnit i
  let done (st : Stamp) : Stamp :=
    match steps with
    | none => { st with vern := false, coarse := true }
    | some k => { st with
        vern := true, code := some (tabEntry x.vnTab 512 (511 - k.val)), staleVn := s.stale tenon.val x.vnAt }
  let rec upd : List Stamp → List Stamp
    | [] => []
    | st :: l => if st.vern && st.code.isNone then done st :: l else st :: upd l
  .next (s.setStampUnit i { x with flight := upd x.flight })

/-- The Plumb time of a stamp (R176). -/
def stampTime (st : Stamp) : Int :=
  ((st.tick * tickF : Nat) : Int) + st.off + ((st.code.getD st.phase : Nat) : Int) - (st.dly : Int)

/-- COARSE, PILEUP and CAL_STALE of a stamp, in bits 0 to 2. -/
def Stamp.flagBits (st : Stamp) : Nat :=
  b2n st.coarse + 2 * b2n st.pileup + 4 * b2n (if st.code.isSome then st.staleVn else st.stalePh)

/-! ### Stamp streams (R180 to R184) -/

def stampSid (t k : Nat) : Nat := streamId 5 t k

/-- A stamp item of epoch ep appended to the batch of stream k of Tenon t. -/
def State.stampItem (s : State) (t c k : Nat) (time : Int) (pol fl ep : Nat) : State :=
  let sid := stampSid t k
  let s := s.epochClose sid ep
  let s : State := match (s.stream sid).cur with
    | some _ => s
    | none => s.openStream
        { ty := tyStamp, stream := sid, die := t, epoch := ep, time := time - (stampSpread : Int) }
        (s.rd F.ST_BATCH_BATCH_N (4 * t + k))
  s.appendItem sid (fun r => { r.about (c / 8) c with
    body := r.body ++ [ofSigned 52 (time - r.time) + c * 2 ^ 52 + pol * 2 ^ 59 + fl % 8 * 2 ^ 60], items := r.items + 1 })

/-! ### Interval units (R185 to R192) -/

def intSid (t u : Nat) : Nat := streamId 6 t u
/-- Copy of a register of interval unit u of Tenon t. -/
def intIx (t u : Nat) : Nat := 16 * t + u

/-- The words of a window's result (R192, R294). -/
def Window.words (w : Window) (restart : Bool) : List Nat :=
  let p := plumbWord w.start
  [ w.stops.length + b2n restart * 2 ^ 8 + b2n (w.stops == []) * 2 ^ 9 + w.flags % 8 * 2 ^ 10, p % 2 ^ 64, p / 2 ^ 64 ]
    ++ w.stops.map (fun x => ofSigned 52 x.iv + b2n x.coin * 2 ^ 52 + x.flags % 8 * 2 ^ 53)

/-- The window of a unit closed: its result, unless it is empty and REPORT_EMPTY is 0 (R190, R277). -/
def State.winClose (s : State) (t u : Nat) (restart : Bool) : State :=
  let i := intIx t u
  match (s.intUnit i).win with
  | none => s
  | some w =>
    let s := s.setIntUnit i { s.intUnit i with win := none }
    if (w.stops == [] && !s.on F.INT_CFG_REPORT_EMPTY i) || !s.streaming then s
    else
      let sid := intSid t u
      let ws := w.words restart
      let s := s.epochClose sid w.epoch
      let s : State := match (s.stream sid).cur with
        | some r => if 1024 < r.len + ws.length then s.closeStream sid false else s
        | none => s
      let s : State := match (s.stream sid).cur with
        | some _ => s
        | none => s.openStream
            { ty := tyInt, stream := sid, die := t, epoch := w.epoch, time := w.start } (s.rd F.INT_CFG_REC_N i)
      let c := s.rd F.INT_CFG_START_CH i
      let c' := s.rd F.INT_CFG_STOP_CH i
      s.appendItem sid (fun r => { r.about (if c / 8 = c' / 8 then c / 8 else 0) (if c = c' then c else 0) with
        body := r.body ++ ws, items := r.items + 1 })

/-- A stop judged against the open window (R187 to R190); a window whose start carries another epoch takes no stop and closes
(R281; log entry 106). -/
def State.judgeStop (s : State) (t u : Nat) (x : HeldStop) : State :=
  let i := intIx t u
  let iu := s.intUnit i
  match iu.win with
  | none => s.countUp F.INT_CFG_OUT_WINDOW i 1 32767
  | some w =>
    if w.epoch ≠ x.epoch then (s.winClose t u false).countUp F.INT_CFG_OUT_WINDOW i 1 32767 else
    let d := x.time - w.start
    let lsb : Int := if x.vern && w.vern then 1 else 16
    if d < -2 * lsb then s.countUp F.INT_CFG_EARLY_STOP i 1 65535
    else if ((s.rd F.INT_CFG_WINDOW i * tickF : Nat) : Int) < d then s.countUp F.INT_CFG_OUT_WINDOW i 1 32767
    else
      let coin := decide (d ≤ 2 * lsb)
      let w := { w with stops := w.stops ++ [{ iv := if coin then 0 else d, coin := coin, flags := x.flags }] }
      let s := s.setIntUnit i { iu with win := some w }
      if s.rd F.INT_CFG_MAX_STOPS_M1 i < w.stops.length then s.winClose t u false else s

/-- A start stamp opens a window, closing the one before with RESTART (R185, R190). -/
def State.winOpen (s : State) (t u : Nat) (time : Int) (fl ep : Nat) (vern : Bool) : State :=
  let i := intIx t u
  let s := s.winClose t u true
  s.setIntUnit i { s.intUnit i with win := some { start := time, flags := fl, vern := vern, epoch := ep } }

/-- A stamp of channel c seen by interval unit u (R185, R186, R191). -/
def State.intStamp (s : State) (t c pol : Nat) (time : Int) (fl ep : Nat) (vern : Bool) (u : Nat) : State :=
  let i := intIx t u
  if !s.on F.INT_CFG_EN i then s
  else
    let isStart := decide (c = s.rd F.INT_CFG_START_CH i) && decide (pol = s.rd F.INT_CFG_START_POL i)
    let isStop := decide (c = s.rd F.INT_CFG_STOP_CH i) && decide (pol = s.rd F.INT_CFG_STOP_POL i)
    let x : HeldStop := { time := time, flags := fl, vern := vern, epoch := ep, until_ := s.now + 16 * tickF }
    if isStart && isStop then
      let s := if (s.intUnit i).win.isSome then s.judgeStop t u x else s
      s.winOpen t u time fl ep vern
    else if isStart then s.winOpen t u time fl ep vern
    else if isStop then s.setIntUnit i { s.intUnit i with held := (s.intUnit i).held ++ [x] }
    else s

/-! ### Release (R170, R180 to R183) -/

/-- A stamp merged: it goes to its stream, the interval units, the capture engine and the regression units. -/
def State.stampOut (s : State) (t c : Nat) (st : Stamp) : State :=
  let i := chIx t c
  let time := stampTime st
  let fl := st.flagBits
  let s := if bitAt fl 1 then s.stStick t c F.ST_STATUS_PILEUP 0 else s
  let s := if bitAt fl 2 then s.stStick t c F.ST_STATUS_CAL_STALE 1 else s
  let k := s.cap i
  let keep : Int := time - ((300 * s.period t c + 10 * usF : Nat) : Int)
  let stamps := k.stamps.filter (fun x => decide (keep ≤ x.1)) ++ [(time, st.pol, fl)]
  let s := s.setCap i { k with
    stamps := stamps
    cur := k.cur.map (fun g => if g.fineEdge = 3 then g else takeFine g stamps)
    segs := k.segs.map (fun g => if g.fineEdge = 3 then g else takeFine g stamps) }
  if !s.streaming && s.mode != mDormant then s
  else
    let s := if s.on F.ST_CTRL_SEND i && s.streaming then s.stampItem t c (s.rd F.ST_CTRL_STREAM i) time st.pol fl st.epoch else s
    let s := (List.range 16).foldl (fun s u => s.intStamp t c st.pol time fl st.epoch st.code.isSome u) s
    s.regStamp t c st.pol time fl st.epoch

/-- The instant at which a merger is next free: it passes 400 million items per second (R183). -/
def mergeStep : Nat := 4 * tickF

/-- Whether a stamp of channel c is the next of its Tenon in the merged order: TCLK edge, then channel (R181). -/
def State.stampNext (s : State) (t c : Nat) (st : Stamp) : Bool :=
  s.stampUnits.all (fun p => p.1 / 128 != t
    || p.2.flight.all (fun y => decide (st.tick < y.tick) || (y.tick == st.tick && decide (c ≤ p.1 % 128))))

/-- PILEUP put on the channel's next stamp: the oldest in flight, or the next edge (R183). -/
def StampUnit.markPileup (x : StampUnit) : StampUnit :=
  match x.flight with
  | [] => { x with pileup := true }
  | y :: l => { x with flight := { y with pileup := true } :: l }

/-- STAMP_RELEASE (R170, R181, R183): the oldest stamp of the channel leaves its unit 480 ns after its TCLK edge and passes
the bent's merger and the Tenon's, in the Tenon's order. Sixteen may wait for the bent's merger. -/
def execStampRelease (t : Nat) (tenon : Fin 6) (ch : Fin 128) (s : State) : Host.Outcome State Fault Refusal :=
  let s := s.at_ t
  let tn := tenon.val
  let c := ch.val
  let i := chIx tn c
  let b := bentIx tn (c / 8)
  let x := s.stampUnit i
  .next (
    match x.flight with
    | [] => s
    | st :: rest =>
      if s.now < (st.tick + stampLatency) * tickF || !s.stampNext tn c st then s
      else
        let waiting := x.queued.filter (fun m => decide (s.now < m))
        let s := s.setStampUnit i { x with flight := rest, queued := waiting }
        if 16 ≤ waiting.length then
          (s.setStampUnit i (s.stampUnit i).markPileup).countUp F.ST_COUNT_FIFO_OVF i 1 32767
        else
          let free := max (smapGet 0 s.bentMerge b) (smapGet 0 s.tenonMerge tn)
          let m := max s.now free
          let s := { s with
            bentMerge := smapSet 0 s.bentMerge b (m + mergeStep)
            tenonMerge := smapSet 0 s.tenonMerge tn (m + mergeStep) }
          let s := if s.now < m then s.setStampUnit i { s.stampUnit i with queued := waiting ++ [m] } else s
          s.stampOut tn c st)

/-- STAMP_BATCH_TIMEOUT (R182). -/
def execStampBatchTimeout (t : Nat) (tenon : Fin 6) (stream : Fin 4) (s : State) : Host.Outcome State Fault Refusal :=
  let s := s.at_ t
  .next (
    if s.dueAfter (stampSid tenon.val stream.val) (s.rd F.ST_BATCH_BATCH_TIMEOUT (4 * tenon.val + stream.val) * usF) then
      s.closeStream (stampSid tenon.val stream.val) false
    else s)

/-- ST_COUNT_CLR: a write of 1 to ST_COUNT.CLR. -/
def execStCountClr (tenon : Fin 6) (ch : Fin 128) (s : State) : Host.Outcome State Fault Refusal :=
  .next (
    if s.reachable tenon.val then
      (s.wr F.ST_COUNT_DEAD (chIx tenon.val ch.val) 0).wr F.ST_COUNT_FIFO_OVF (chIx tenon.val ch.val) 0
    else s)

/-- INTERVAL_STOP_HOLD_END (R186, R187): the held stops whose 16 ticks are over are judged. -/
def execIntervalStopHoldEnd (t : Nat) (tenon : Fin 6) (unit : Fin 16) (s : State) : Host.Outcome State Fault Refusal :=
  let s := s.at_ t
  let i := intIx tenon.val unit.val
  let iu := s.intUnit i
  let due := iu.held.filter (fun x => decide (x.until_ ≤ s.now))
  let s' := s.setIntUnit i { iu with held := iu.held.filter (fun x => decide (s.now < x.until_)) }
  .next (due.foldl (fun s x => s.judgeStop tenon.val unit.val x) s')

/-- INTERVAL_WINDOW_EXPIRY (R190): the merged order has passed the end of the window; stops still held are judged
first. -/
def execIntervalWindowExpiry (t : Nat) (tenon : Fin 6) (unit : Fin 16) (s : State) : Host.Outcome State Fault Refusal :=
  let s := s.at_ t
  let i := intIx tenon.val unit.val
  let iu := s.intUnit i
  .next (
    match iu.win with
    | none => s
    | some w =>
      if iu.held = [] && s.orderPassed tenon.val (w.start + ((s.rd F.INT_CFG_WINDOW i * tickF : Nat) : Int)) then
        s.winClose tenon.val unit.val false
      else s)

/-- INTERVAL_RECORD_TIMEOUT (R192). -/
def execIntervalRecordTimeout (t : Nat) (tenon : Fin 6) (unit : Fin 16) (s : State) : Host.Outcome State Fault Refusal :=
  let s := s.at_ t
  .next (
    if s.dueAfter (intSid tenon.val unit.val) (s.rd F.INT_CFG_REC_TIMEOUT (intIx tenon.val unit.val) * msF) then
      s.closeStream (intSid tenon.val unit.val) false
    else s)

/-- INT_COUNT_CLR: a write of 1 to the CLR bit of INT_CFG. -/
def execIntCountClr (tenon : Fin 6) (unit : Fin 16) (s : State) : Host.Outcome State Fault Refusal :=
  .next (
    if s.reachable tenon.val then
      (s.wr F.INT_CFG_EARLY_STOP (intIx tenon.val unit.val) 0).wr F.INT_CFG_OUT_WINDOW (intIx tenon.val unit.val) 0
    else s)

/-! ### Pulse-echo (R193 to R198) -/

/-- Codes of PE_RES.STATUS. -/
def peRunning : Nat := 1
def peOpen : Nat := 2
def peShort : Nat := 3
def peMixed : Nat := 4
def peNone : Nat := 5
def peRefused : Nat := 6

/-- A write of 1 to PE_CTRL.GO (R194, R198). -/
def State.peGo (s : State) (t c : Nat) : State :=
  let i := chIx t c
  if s.on F.CH_CTRL_IEPE_EN i || !s.on F.CH_CTRL_ENABLE i || (s.stampUnit i).pe.isSome then
    (s.wr F.PE_RES_STATUS i peRefused).stStick t c F.ST_STATUS_PE_DONE 3
  else
    (s.setStampUnit i { s.stampUnit i with pe := some { left := s.rd F.PE_CTRL_PE_N_M1 i + 1, lastFire := 0 } }).wr
      F.PE_RES_STATUS i peRunning

/-- PE_CHECK_GO (R194). -/
def execPeCheckGo (t : Nat) (tenon : Fin 6) (ch : Fin 128) (s : State) : Host.Outcome State Fault Refusal :=
  let s := s.at_ t
  .next (if s.reachable tenon.val then s.peGo tenon.val ch.val else s)

/-- A stamp of a pulse-echo check at instant at_: its time on the TCLK axis and whether it carries CAL_STALE.
The vernier makes it where it is in use and idle and found coincidence, the phase interpolator otherwise (R168, R169). -/
def State.peStamp (s : State) (t i at_ : Nat) (code : Fin 32) (steps : Option (Fin 512)) (idle : Bool) : Int × Bool :=
  let x := s.stampUnit i
  match if s.vernOn i && idle then steps else none with
  | some k => (((at_ / tickF * tickF + tabEntry x.vnTab 512 (511 - k.val) : Nat) : Int), s.stale t x.vnAt)
  | none => (((at_ / tickF * tickF + tabEntry x.phTab 32 code.val : Nat) : Int), s.stale t x.phAt)

/-- PE_FIRE (R195, R196): one fire of the check with the launch and the echo it found, each as the fine units from the
fire to the edge, its phase code and the vernier's steps where it found coincidence; the echo also with its polarity,
true through −PE_THR. -/
def execPeFire (t : Nat) (tenon : Fin 6) (ch : Fin 128) (launch : Option (Nat × Fin 32 × Option (Fin 512)))
    (echo : Option (Nat × Fin 32 × Option (Fin 512) × Bool)) (s : State) : Host.Outcome State Fault Refusal :=
  let s := s.at_ t
  let tn := tenon.val
  let c := ch.val
  let i := chIx tn c
  let x := s.stampUnit i
  .next (
    match x.pe with
    | none => s
    | some p =>
      if p.left = 0 || decide (p.lastFire ≠ 0 ∧ s.now < p.lastFire + 15 * usF) then s
      else
        let s := s.firePulser tn c
        let blank := s.rd F.PE_CFG_PE_BLANK i * 8192
        let p := { p with left := p.left - 1, lastFire := s.now }
        let conv : Nat := 640 * tickF
        -- the vernier takes an edge while it is idle and is busy for 400 ns (R168)
        let take (busy a : Nat) : Bool × Nat := if s.vernOn i && decide (busy ≤ a) then (true, a + conv) else (false, busy)
        let launch := launch.filter (fun l => decide (l.1 ≤ blank))
        let echo := echo.filter (fun e => decide (blank ≤ e.1) && decide (e.1 ≤ 14 * usF))
        let (li, busy) := match launch with | some l => take x.vernBusy (s.now + l.1) | none => (false, x.vernBusy)
        let (ei, busy) := match echo with | some e => take busy (s.now + e.1) | none => (false, busy)
        let x := { x with vernBusy := busy }
        let p : PulseEcho := match launch, echo with
          | some (la, lc, lv), some (ea, ec, ev, neg) =>
              let (lt, ls) := s.peStamp tn i (s.now + la) lc lv li
              let (et, es) := s.peStamp tn i (s.now + ea) ec ev ei
              let d := et - lt
              let p := { p with sq := p.sq + d * d, stale := p.stale || ls || es }
              if neg then { p with negN := p.negN + 1, negSum := p.negSum + d }
              else { p with posN := p.posN + 1, posSum := p.posSum + d }
          | _, _ => p
        s.setStampUnit i { x with pe := some p })

/-- The distance in millimetres of a sum of differences over n fires (R197). -/
def peDist (vf n : Nat) (sum : Int) : Nat :=
  (divHalfUp (((vf * 299792458 * 625 : Nat) : Int) * sum) ((n * 512 * 2 * 10 ^ 12 : Nat) : Int)).toNat

/-- The end of a check (R196 to R198). -/
def State.peEnd (s : State) (t c : Nat) (p : PulseEcho) : State :=
  let i := chIx t c
  let n := p.posN + p.negN
  let st := if n = 0 then peNone else if p.negN = 0 then peOpen else if p.posN = 0 then peShort else peMixed
  let sum := p.posSum + p.negSum
  let spread := if n = 0 then 0 else isqrtRhu ((n : Int) * p.sq - sum * sum).toNat (n * n)
  let major := if p.posN > p.negN then (p.posN, p.posSum) else (p.negN, p.negSum)
  let dist := if n = 0 then 0 else peDist (s.rd F.PE_CFG_PE_VF i) major.1 major.2
  let s := s.setStampUnit i { s.stampUnit i with pe := none }
  let s := ((s.wr F.PE_RES_STATUS i st).wr F.PE_RES_STALE i (b2n p.stale)).wr F.PE_RES_FIRES_USED i n
  let s := (s.wr F.PE_RES_SPREAD i (min spread 524287)).wr F.PE_RES_DIST i (min dist (2 ^ 32 - 1))
  s.stStick t c F.ST_STATUS_PE_DONE 3

/-- PE_CHECK_END (R196): 14 µs after the last fire. -/
def execPeCheckEnd (t : Nat) (tenon : Fin 6) (ch : Fin 128) (s : State) : Host.Outcome State Fault Refusal :=
  let s := s.at_ t
  let i := chIx tenon.val ch.val
  .next (
    match (s.stampUnit i).pe with
    | none => s
    | some p =>
      if p.left = 0 && decide (p.lastFire + 14 * usF ≤ s.now) then s.peEnd tenon.val ch.val p else s)

end Sys2Proof.Machine
end

