-- ==== Sys2Proof/Machine/Plumb.lean ====
section
/-! DEFINITION. Plumb time (09_plumb_time.md): the grandmaster's PPS watch, the two-way exchanges, the servo, steps,
holdover, and the comparison of the Tenons' counters. -/

namespace Sys2Proof.Machine

open Sys2Proof

/-- The states of the servo. -/
def psFree : Nat := 0
def psAcquiring : Nat := 1
def psLocked : Nat := 2
def psHoldover : Nat := 3
def psGm : Nat := 4

/-- PLUMB_STATUS.STATE. -/
def State.plumbState (s : State) : Nat := s.rd F.PLUMB_STATUS_STATE 0

/-- A sticky bit of PLUMB_STATUS set; event source 16 (R272), whose DETAIL the chapter does not name and R300 makes zero. -/
def State.plumbStick (s : State) (f : Fld) : State :=
  s.stick f 0 (bitAt (s.rd F.PLUMB_EVENT_EN_EV_MASK 0) (f.lo - 24)) 16 0

/-- i clamped to w bits of two's complement and encoded. -/
def satWord (w : Nat) (i : Int) : Nat := ofSigned w (satS i w)

/-- The last 16 s of the listed values and lengths, newest first. -/
def lastLocked (left : Nat) : List (Int × Nat) → List (Int × Nat)
  | [] => []
  | (v, d) :: l => if left = 0 then [] else (v, min d left) :: lastLocked (left - min d left) l

/-- The time in LOCKED since the steering last changed added to the history (R267). -/
def State.noteSteer (s : State) : State :=
  if s.plumbState = psLocked then
    let p := s.plumb
    { s with plumb := { p with
      lockHist := lastLocked (16 * secF) ((s.rdS F.PLUMB_OFFSET_FREQ_ADJ 0, s.now - p.lockFrom) :: p.lockHist)
      lockFrom := s.now } }
  else s

/-- FREQ_ADJ set to v. -/
def State.setSteer (s : State) (v : Int) : State := s.noteSteer.wr F.PLUMB_OFFSET_FREQ_ADJ 0 (satWord 32 v)

/-- The phase loop's correction of the filtered offset, in 10⁻¹², clamped to SLEW_MAX (R262, R263). -/
def State.slew (s : State) : Int :=
  let lim : Int := (s.rd F.PLUMB_SERVO_SLEW_MAX 0 * 1000 : Nat)
  max (-lim) (min lim (divHalfUp (-s.plumb.filt * 625) ((512 * s.rd F.PLUMB_SERVO_PHASE_TC 0 : Nat) : Int)))

/-- The filtered offset shown, and the total steering it gives (R262); in HOLDOVER the steering holds (R267). -/
def State.steer (s : State) : State :=
  let s := s.wr F.PLUMB_OFFSET_THETA 0 (satWord 32 s.plumb.filt)
  if s.plumbState = psHoldover then s else s.setSteer (s.plumb.freq + s.slew)

/-- STATE changed, the time in LOCKED kept. -/
def State.setPlumbState (s : State) (v : Nat) : State :=
  let was := s.unsync
  let s := s.noteSteer.wr F.PLUMB_STATUS_STATE 0 v
  { s with plumb := { s.plumb with
      uns := if s.unsync = was then s.plumb.uns else (s.plumbNow, s.unsync) :: s.plumb.uns
      inCnt := 0, outCnt := 0, lockFrom := s.now, everLocked := s.plumb.everLocked || v == psLocked } }

/-- The steering that HOLDOVER holds (R267). -/
def State.heldSteer (s : State) : Int :=
  let p := s.plumb
  let tot : Int := ((p.lockHist.map (·.2)).sum : Nat)
  if s.on F.PLUMB_CTRL_ROLE 0 || !p.everLocked || tot = 0 then s.rdS F.PLUMB_OFFSET_FREQ_ADJ 0
  else divHalfUp ((p.lockHist.map (fun x => x.1 * (x.2 : Int))).sum) tot

/-- A step decided and not yet applied no longer says which STATE follows it. -/
def State.stepAlone (s : State) : State :=
  { s with plumb := { s.plumb with step := s.plumb.step.map (fun x => (x.1, x.2.1, none)) } }

/-- HOLDOVER entered (R267); a node already in it stays. -/
def State.holdover (s : State) : State :=
  let s := s.stepAlone
  if s.plumbState = psHoldover then s
  else
    let s := s.setPlumbState psHoldover
    let s := s.wr F.PLUMB_OFFSET_FREQ_ADJ 0 (satWord 32 s.heldSteer)
    { s with plumb := { s.plumb with holdStart := s.now, relock := [], missed := 0 } }.plumbStick F.PLUMB_STATUS_HOLDOVER

/-! ### Steps -/

/-- The streams of Tenon t (R280). -/
def tenonStreams (t : Nat) : List Nat :=
  let f (k n : Nat) : List Nat := (List.range n).map (fun i => streamId k t i)
  f 1 128 ++ f 2 128 ++ f 3 128 ++ f 4 16 ++ f 5 4 ++ f 6 16 ++ f 7 1 ++ f 8 16 ++ f 9 1

/-- What a step of Tenon t's Plumb time does to its streams and engines (R265). -/
def State.stepEffects (s : State) (t : Nat) : State :=
  let s := (List.range 16).foldl (fun s u =>
    if (s.intUnit (intIx t u)).win.isSome then s.winClose t u true else s) s
  let s := s.breakGates t (fun _ => true) 32
  let s := (List.range 128).foldl (fun s c =>
    let i := chIx t c
    let s := s.fsPadClose t c false
    let s := if (s.cap i).cur.isSome then s.capCut t c else s
    s.setChain i { s.chain i with stepped := true }) s
  (tenonStreams t).foldl (fun s sid =>
    let s := s.closeStream sid false
    s.setStream sid { s.stream sid with stepped := true }) s

/-- A step decided on the filtered offset, leading to STATE after; one that rounds to nothing is not applied (R263,
R264). -/
def State.decideStep (s : State) (after : Option Nat) : State :=
  let n := rhu s.plumb.filt 9
  if n = 0 then
    match after with
    | none => s.steer
    | some v => (s.setPlumbState v).steer
  else
    { s with plumb := { s.plumb with
        step := some (-n, ((s.now + 10 * usF + tickF - 1) / tickF) * tickF, after) } }.steer

/-- Whether the filtered offset calls for a step outside FREE (R263). -/
def State.wantsStep (s : State) : Bool :=
  s.on F.PLUMB_CTRL_STEP_EN 0 && s.plumb.step.isNone
    && decide (s.rd F.PLUMB_THR_STEP_THR 0 * tickF < s.plumb.filt.natAbs)

/-- An offset corrected under R263: by a step, or by slewing. -/
def State.correct (s : State) (after : Option Nat) : State :=
  if s.wantsStep then s.decideStep after
  else
    match after with
    | none => s.steer
    | some v => (s.setPlumbState v).steer

/-- PLUMB_STEP (R264): at the tick boundary named, the step is applied in the Mortise and in every Tenon that commands
reach. -/
def execPlumbStep (t : Nat) (s : State) : Host.Outcome State Fault Refusal :=
  let s := s.at_ t
  .next (match s.plumb.step with
  | none => s
  | some (n, due, after) =>
    if s.now ≠ due then s
    else
      let d : Int := n * (tickF : Int)
      let s := { s with
        plumbOff := s.plumbOff + d
        plumb := { s.plumb with step := none, filt := s.plumb.filt + d } }
      let s := (List.range 6).foldl (fun s tn =>
        if s.reachable tn && (s.tenon tn).loaded then
          let x := s.tenon tn
          (s.setTenon tn { x with off := x.off + d, reloadFrom := x.reloadFrom.map (fun _ => s.now) }).stepEffects tn
        else s) s
      let s := s.wr F.PLUMB_STEPLOG_LAST_STEP 0 (satWord 32 n)
      let s := s.countUp F.PLUMB_STEPLOG_STEP_COUNT 0 1 65535
      let s : State := match after with
        | none => s
        | some v => s.setPlumbState v
      (s.plumbStick F.PLUMB_STATUS_STEP).steer)

/-- STEPLOG_CLR: a write of 1 to PLUMB_STEPLOG.CLR. -/
def execSteplogClr (s : State) : Host.Outcome State Fault Refusal :=
  .next (s.wr F.PLUMB_STEPLOG_STEP_COUNT 0 0)

/-- The current Plumb time's sub-second part latched into PLUMB_NOW (0x028) by a read of SEC. -/
def State.plumbLatch (s : State) : State :=
  let w := plumbWord s.plumbNow
  let s := s.wr F.PLUMB_NOW_FINE 0 (w % 2 ^ 9)
  let s := s.wr F.PLUMB_NOW_TICK 0 (w / 2 ^ 9 % 2 ^ 31)
  s.wr F.PLUMB_NOW_SEC 0 (w / 2 ^ 40)

/-- PLUMB_NOW_READ (R250, PLUMB_NOW). -/
def execPlumbNowRead (t : Nat) (s : State) : Host.Outcome State Fault Refusal := .next (s.at_ t).plumbLatch

/-! ### Grandmaster -/

/-- A difference of Plumb times brought into half the range of R589 around zero. -/
def nearTime (d : Int) : Int :=
  let m : Int := 2 ^ 40 * (secF : Int)
  (d + m / 2) % m - m / 2

/-- HOLD_ERR and HOLD_DUR written at a re-lock, with RELOCK (R268). -/
def State.relocked (s : State) (e : Int) : State :=
  let s := s.wr F.PLUMB_HOLD_HOLD_ERR 0 (satWord 32 e)
  let s := s.wr F.PLUMB_HOLD_HOLD_DUR 0 (min (2 ^ 32 - 1) ((s.now - s.plumb.holdStart) / secF))
  s.plumbStick F.PLUMB_STATUS_RELOCK

/-- PPS_EDGE (R253, R254, R268). -/
def execPpsEdge (t : Nat) (falling : Bool) (s : State) : Host.Outcome State Fault Refusal :=
  let s := s.at_ t
  .next (
    if s.poAsserted || s.mode = mBoot || !s.on F.PLUMB_CTRL_ROLE 0 || falling != s.on F.PLUMB_CTRL_PPS_POL 0 then s
    else
      let next := s.rd F.PLUMB_GM_SEC_NEXT_SEC 0
      let stamp := s.plumbNow / 16 * 16
      let th := nearTime (stamp - (s.rd F.PLUMB_PPS_PPS_DLY 0 : Int) - (next : Int) * (secF : Int))
      let s := s.wr F.PLUMB_GM_SEC_NEXT_SEC 0 (next + 1)
      let st := s.plumbState
      let first := !s.plumb.gmFirst
      let s := { s with plumb := { s.plumb with gmFirst := true, ppsWatch := true, lastPps := s.now } }
      let s := if st = psHoldover then s.relocked th else s
      if first then { s with plumb := { s.plumb with filt := th, freq := 0, step := none } }.decideStep (some psGm)
      else if st = psHoldover then { s with plumb := { s.plumb with filt := th } }.correct (some psGm)
      else
        { s with plumb := { s.plumb with
          filt := Config.plumbFilter (s.rd F.PLUMB_SERVO_PHASE_TC 0) s.plumb.filt th } }.correct none)

/-- PPS_MISSING (R254): no edge for 1.1 s; the watch stands until the next edge. -/
def execPpsMissing (t : Nat) (s : State) : Host.Outcome State Fault Refusal :=
  let s := s.at_ t
  .next (
    if s.on F.PLUMB_CTRL_ROLE 0 && s.plumb.ppsWatch && decide (s.plumb.lastPps + 1100 * msF ≤ s.now) then
      ({ s with plumb := { s.plumb with ppsWatch := false } }.plumbStick F.PLUMB_STATUS_PPS_LOST).holdover
    else s)

/-- PLUMB_CTRL.ROLE written (R253, R254, R267). A step that the node had decided on in its old role is applied and leads to no
new STATE. -/
def State.setRole (s : State) (r : Bool) : State :=
  if r = s.on F.PLUMB_CTRL_ROLE 0 then s
  else if r then
    let s := s.stepAlone
    { (s.wr F.PLUMB_CTRL_ROLE 0 1).wr F.PLUMB_STATUS_HOPS 0 0 with plumb := { s.plumb with
        gmFirst := false, ppsWatch := false } }
  else ({ s with plumb := { s.plumb with ppsWatch := false } }.holdover.wr F.PLUMB_CTRL_ROLE 0 0).wr F.PLUMB_STATUS_HOPS 0 31

/-- ROLE_CHANGE. -/
def execRoleChange (t : Nat) (role : Bool) (s : State) : Host.Outcome State Fault Refusal :=
  .next ((s.at_ t).setRole role)

/-! ### Exchanges -/

/-- What the last exchange of a port gave, and its run of valid exchanges with STATE 2 or 4. -/
def State.portValid (s : State) (p : Nat) : Nat := smapGet 0 s.plumb.valid p
def State.portRun (s : State) (p : Nat) : Nat := smapGet 0 s.plumb.run p

/-- The port the follower should use (R261), and whether it is the alternate. -/
def State.choosePort (s : State) : Nat × Bool :=
  let par := s.rd F.PLUMB_CTRL_PARENT 0
  let alt := s.rd F.PLUMB_CTRL_ALT_PARENT 0
  let altOk := s.on F.PLUMB_CTRL_ALT_EN 0
  let onAlt := s.on F.PLUMB_STATUS_ON_ALT 0 && altOk
  if onAlt && s.portRun par < 16 && s.portValid alt = 2 then (alt, true)
  else if s.portValid par = 2 then (par, false)
  else if altOk && s.portValid alt = 2 then (alt, true)
  else if 0 < s.portValid par then (par, false)
  else if altOk && 0 < s.portValid alt then (alt, true)
  else if onAlt then (alt, true)
  else (par, false)

/-- The port in use brought up to date (R261). -/
def State.followPort (s : State) : State :=
  let (p, a) := s.choosePort
  let old := s.rd F.PLUMB_STATUS_PORT_NOW 0
  let s := (s.wr F.PLUMB_STATUS_PORT_NOW 0 p).wr F.PLUMB_STATUS_ON_ALT 0 (b2n a)
  if p = old then s
  else { s with plumb := { s.plumb with missed := 0 } }.plumbStick F.PLUMB_STATUS_PARENT_SWITCH

/-- The loopback readings of lane n, taken anew while the lane is ACTIVE or QUIET: free values (R256). -/
def State.latRead (s : State) (n : Nat) : State :=
  let st := (s.lane (s.portBase + n)).state
  if st = laActive ∨ st = laQuiet then
    let v := Config.freeBits 48 s.free
    ({ s with free := s.free + 1 }.wr F.PLUMB_LAT_TX_LAT n (v % 2 ^ 24)).wr F.PLUMB_LAT_RX_LAT n (v / 2 ^ 24 % 2 ^ 24)
  else s

/-- The Plumb time at which a bit that leaves the timing island at instant a crosses the TX balls of lane n, and the one at
which a bit that reached it at a crossed the RX balls (R256, R257). -/
def State.leaveTime (s : State) (n a : Nat) : Int := (a : Int) + s.plumbOff + (s.rd F.PLUMB_LAT_TX_LAT n : Int)
def State.arriveTime (s : State) (n a : Nat) : Int := (a : Int) + s.plumbOff - (s.rd F.PLUMB_LAT_RX_LAT n : Int)

/-- PLUMB_REQ_SEND: at a whole 1/16 s a follower sends PLUMB_REQ on a port it watches, given with the instant, not before
now, at which the first bit leaves the timing island (R257). -/
def execPlumbReqSend (t : Nat) (port : Fin 8 × Nat) (s : State) : Host.Outcome State Fault Refusal :=
  let s := s.at_ t
  let p := port.1.val
  let watched := p == s.rd F.PLUMB_CTRL_PARENT 0
    || (s.on F.PLUMB_CTRL_ALT_EN 0 && p == s.rd F.PLUMB_CTRL_ALT_PARENT 0)
  .next (
    if s.poAsserted || s.mode = mBoot || s.on F.PLUMB_CTRL_ROLE 0 || !watched
      || s.plumbNow % (100000000 * (tickF : Int)) ≠ 0 then s
    else
      let n := smapGet 0 s.plumb.seqNo p
      let s := s.latRead p
      let a := max port.2 s.now
      { s with plumb := { s.plumb with
          seqNo := smapSet 0 s.plumb.seqNo p ((n + 1) % 65536)
          req := smapSet none s.plumb.req p (some (n, s.leaveTime p a, a)) } }.sendLocal (s.portBase + p) frPlumbReq [n])

/-- The four payload words of a PLUMB_RSP. -/
def rspWords (sq hops state gm t2 t3 : Nat) : List Nat :=
  let v := sq + hops * 2 ^ 16 + state * 2 ^ 24 + gm * 2 ^ 32 + t2 * 2 ^ 64 + t3 * 2 ^ 144
  [v % 2 ^ 64, v / 2 ^ 64 % 2 ^ 64, v / 2 ^ 128 % 2 ^ 64, v / 2 ^ 192]

/-- PLUMB_REQ (R257): a request reaches the timing island at instant t and the response leaves it at instant t3. -/
def execPlumbReq (t : Nat) (port : Fin 8) (seq : BitVec 16) (t3 : Nat) (s : State) : Host.Outcome State Fault Refusal :=
  let s := s.at_ t
  .next (
    if s.poAsserted || s.mode = mBoot then s
    else
      let s := s.latRead port.val
      s.sendLocal (s.portBase + port.val) frPlumbRsp (rspWords seq.toNat (s.rd F.PLUMB_STATUS_HOPS 0) s.plumbState
        (s.rd F.PLUMB_CTRL_GM_ID 0) (plumbWord (s.arriveTime port.val s.now))
        (plumbWord (s.leaveTime port.val (max t3 s.now)))))

/-- A missed exchange of a port (R260): the runs of valid exchanges of R252 end; HOLD_TIMEOUT of them in a row on the port in
use take a follower to HOLDOVER (R267). -/
def State.exchangeMissed (s : State) (p : Nat) : State :=
  let inUse := p == s.rd F.PLUMB_STATUS_PORT_NOW 0
  let s := s.countUp F.PLUMB_LAT_MISSED p 1 65535
  let s := { s with plumb := { s.plumb with
    req := smapSet none s.plumb.req p none
    valid := smapSet 0 s.plumb.valid p 0
    run := smapSet 0 s.plumb.run p 0
    missed := if inUse then s.plumb.missed + 1 else s.plumb.missed
    inCnt := if inUse then 0 else s.plumb.inCnt
    outCnt := if inUse then 0 else s.plumb.outCnt } }
  if s.on F.PLUMB_CTRL_ROLE 0 then s
  else (if inUse && s.rd F.PLUMB_SERVO_HOLD_TIMEOUT 0 ≤ s.plumb.missed then s.holdover else s).followPort

/-- EXCHANGE_TIMEOUT: 1 ms after a request without a valid response (R260). -/
def execExchangeTimeout (t : Nat) (port : Fin 8) (s : State) : Host.Outcome State Fault Refusal :=
  let s := s.at_ t
  .next (match smapGet none s.plumb.req port.val with
  | none => s
  | some (_, _, sent) => if sent + msF ≤ s.now then s.exchangeMissed port.val else s)

/-- The lock judgement of a valid exchange (R252). -/
def State.judgeLock (s : State) : State :=
  let thr := s.rd F.PLUMB_THR_LOCK_THR 0
  let m := s.plumb.filt.natAbs
  let p := s.plumb
  let s := { s with plumb := { p with
    inCnt := if m ≤ thr then p.inCnt + 1 else 0
    outCnt := if 4 * thr < m then p.outCnt + 1 else 0 } }
  if s.plumbState = psAcquiring && 16 ≤ s.plumb.inCnt then s.setPlumbState psLocked
  else if s.plumbState = psLocked && 16 ≤ s.plumb.outCnt then s.setPlumbState psAcquiring
  else s

/-- A valid offset of the port in use (R252, R262, R263, R268). -/
def State.servo (s : State) (th freq : Int) : State :=
  let p := s.plumb
  let st := s.plumbState
  if st = psHoldover then
    let l := p.relock ++ [th]
    if l.length < 4 then { s with plumb := { p with relock := l } }
    else
      let e := divHalfUp l.sum 4
      ({ s with plumb := { p with relock := [], filt := e, freq := freq } }.relocked e).correct (some psAcquiring)
  else if st = psFree then
    if p.step.isSome then s
    else { s with plumb := { p with filt := th, freq := freq } }.decideStep (some psAcquiring)
  else
    { s with plumb := { p with
      filt := Config.plumbFilter (s.rd F.PLUMB_SERVO_PHASE_TC 0) p.filt th, freq := freq } }.judgeLock.correct none

/-- PLUMB_RSP (R257 to R262): a response reaches the timing island on a port at instant t; phase holds the readings of the
detector of the port's lane 0 since the last response, which move the frequency loop (R255). -/
def execPlumbRsp (t : Nat) (port : Fin 8) (seq : BitVec 16) (hops : BitVec 8) (state : BitVec 3) (gm : BitVec 16)
    (t2 t3 : BitVec 80) (phase : List Int) (s : State) : Host.Outcome State Fault Refusal :=
  let s := s.at_ t
  let p := port.val
  .next (match smapGet none s.plumb.req p with
  | none => s
  | some (n, t1, sent) =>
    let st := state.toNat
    if s.now ≤ sent + msF && seq.toNat = n && gm.toNat = s.rd F.PLUMB_CTRL_GM_ID 0 && hops.toNat ≤ 30
        && (st == 2 || st == 3 || st == 4) && !s.on F.PLUMB_CTRL_ROLE 0 then
      let good := st == 2 || st == 4
      let s := { s with plumb := { s.plumb with
        req := smapSet none s.plumb.req p none
        valid := smapSet 0 s.plumb.valid p (if good then 2 else 1)
        run := smapSet 0 s.plumb.run p (if good then s.portRun p + 1 else 0) } }
      let s := s.followPort
      if p = s.rd F.PLUMB_STATUS_PORT_NOW 0 then
        let s := s.latRead p
        let t4 := s.arriveTime p s.now
        let th := rhu (nearTime (t4 - plumbOfWord t3.toNat) - nearTime (plumbOfWord t2.toNat - t1)
          - s.rdS F.PLUMB_ASYM_ASYM p) 1
        let s := s.wr F.PLUMB_STATUS_HOPS 0 (hops.toNat + 1)
        { s with plumb := { s.plumb with missed := 0 } }.servo th (Config.phaseLoop s.plumb.freq phase)
      else s
    else s.exchangeMissed p)

/-- Lane n loses its recovered clock; a follower enters HOLDOVER where it is lane 0 of the port in use (R267, R447). -/
def State.plumbLaneLoss (s : State) (n : Nat) : State :=
  if !s.on F.PLUMB_CTRL_ROLE 0 && n = s.rd F.PLUMB_STATUS_PORT_NOW 0 then s.holdover else s

/-! ### The Tenons' counters -/

/-- A Tenon's counter takes the Mortise's Plumb time (R270); its samples and streams start from there. -/
def State.counterLoad (s : State) (t : Nat) : State :=
  let x := s.tenon t
  if s.present t && x.locked && !x.loaded then
    (List.range 128).foldl (fun s c => s.gridPlace t c)
      (s.setTenon t { x with loaded := true, off := s.plumbOff, reloadFrom := none })
  else s

/-- TENON_COUNTER_CHECK (R271): at a whole second the Mortise compares the Tenon's counter, found slip ticks ahead of
what it should be, with its own. -/
def execTenonCounterCheck (t : Nat) (tenon : Fin 6) (slip : Int) (s : State) : Host.Outcome State Fault Refusal :=
  let s := s.at_ t
  let x := s.tenon tenon.val
  .next (
    if !(s.reachable tenon.val && x.loaded) || s.plumbNow % (secF : Int) ≠ 0 then s
    else
      let off := x.off + slip * (tickF : Int)
      s.setTenon tenon.val { x with off := off, reloadFrom := if off = s.plumbOff then none else some s.now })

/-- TENON_RELOAD (R271): the reload at the next whole second after the check, a step of that Tenon. A step of Plumb time on
the way moves that second. -/
def execTenonReload (t : Nat) (tenon : Fin 6) (s : State) : Host.Outcome State Fault Refusal :=
  let s := s.at_ t
  let x := s.tenon tenon.val
  .next (
    if x.reloadFrom.any (fun a => decide (a < s.now ∧ s.now ≤ a + secF)) && s.reachable tenon.val && x.loaded
        && s.plumbNow % (secF : Int) = 0 then
      ((s.setTenon tenon.val { x with off := s.plumbOff, reloadFrom := none }).stepEffects tenon.val).plumbStick
        F.PLUMB_STATUS_TENON_SLIP
    else s)

end Sys2Proof.Machine
end

