-- ==== Sys2Proof/Machine/Link.lean ====
section
/-! DEFINITION. The fabric's link layer and ports (16_woreg_fabric.md): bring-up, acknowledgement and replay, credits,
loss of a port, forwarding of frames that are not for this node. -/

namespace Sys2Proof.Machine

open Sys2Proof

/-! ### Status -/

/-- A sticky bit of FAB_PSTAT of port p set; event source 32 (R479). -/
def State.portStick (s : State) (f : Fld) (bit p : Nat) : State :=
  if s.ownDie p then s.stick f (p % 8) (bitAt (s.rd F.FAB_PORT_EV_MASK (p % 8)) bit) 32 (p % 8) else s

/-- A sticky bit of FAB_STATUS set; event source 32 (R479). -/
def State.fabStick (s : State) (f : Fld) (bit : Nat) : State :=
  s.stick f 0 (bitAt (s.rd F.FAB_EVENT_EN_EV_MASK 0) bit) 32 8

/-- A discard counted in FAB_DROP. -/
def State.fabDrop (s : State) (f : Fld) : State := fabDropW State.raise s f

/-- A count of FAB_PCNT of port p advanced by n. -/
def State.portCount (s : State) (f : Fld) (p n : Nat) : State :=
  if s.ownDie p then s.countUp f (p % 8) n 65535 else s

/-- The VC of a frame type (R452). -/
def frVc (ty : Nat) : Option Nat :=
  if ty = 0x01 ∨ ty = 0x02 ∨ ty = 0x03 ∨ ty = 0x04 ∨ (0x08 ≤ ty ∧ ty ≤ 0x0D) then some 0
  else if 0x10 ≤ ty ∧ ty ≤ 0x13 then some 1
  else if 0x18 ≤ ty ∧ ty ≤ 0x1D then some 2
  else if ty = 0x20 ∨ ty = 0x21 then some 3
  else none

/-! ### Bring-up (R448 to R450) -/

/-- Whether port p is in use: EN, WIDTH and the port beside it (R447). -/
def State.portUsed (s : State) (p : Nat) : Bool :=
  s.on F.FAB_PORT_EN (p % 8) && s.portLanes p != [] && (p < 8 || s.part == .vt8)

/-- Whether every lane of port p is ACTIVE or QUIET. -/
def State.lanesGood (s : State) (p : Nat) : Bool :=
  (s.portLanes p).all (fun n => (s.lane n).state == laActive || (s.lane n).state == laQuiet)

/-- A LINK_INIT sent on port p. -/
def State.sendInit (s : State) (p : Nat) : State :=
  let x := s.port p
  let s := s.setPort p { x with sentAfter := x.sentAfter || x.gotInit, initAt := s.now }
  s.sendLocal p frLinkInit
    (Config.linkInit s.nodeId (p % 8) (s.rd F.FAB_PORT_WIDTH (p % 8)) (p / 8) (b2n (s.standbyPort p)))

/-- A port whose lanes have all come up begins to send LINK_INIT. -/
def State.portStart (s : State) (p : Nat) : State :=
  let x := s.port p
  if s.portUsed p && s.lanesGood p && x.state != poUp && x.state != poInit then
    s.setPort p { ({} : Port) with state := poInit }
  else s

/-- The port that lane n belongs to. -/
def State.portOfLane (s : State) (n : Nat) : Nat :=
  if n % 2 = 1 && s.rd F.FAB_PORT_WIDTH (n % 8 - 1) = 2 then n - 1 else n

/-- A port that has sent and received LINK_INIT comes UP where both sides give the same WIDTH. -/
def State.portTry (s : State) (p : Nat) : State :=
  let x := s.port p
  if x.state = poInit && x.gotInit && x.sentAfter then
    if x.peerWidth = s.rd F.FAB_PORT_WIDTH (p % 8) then (s.setPort p { x with state := poUp }).portPump p (x.waiting.length + 1)
    else s.portStick F.FAB_PORT_WIDTH_MISMATCH 2 p
  else s

/-- LINK_INIT_TIMER (R448): every 10 µs while the port is not initialised. -/
def execLinkInitTimer (t : Nat) (port : Fin 16) (s : State) : Host.Outcome State Fault Refusal :=
  let s := (s.at_ t).portStart port.val
  let x := s.port port.val
  .next (if x.state = poInit && !(x.gotInit && x.sentAfter) then (s.sendInit port.val).portTry port.val else s)

/-- LINK_INIT sent on every port that is UP: the node's ID or its STANDBY flag has changed (R448). -/
def State.announce (s : State) : State :=
  (List.range 16).foldl (fun s p => if (s.port p).state = poUp then s.sendInit p else s) s

/-- The waiting frames of port p put on other ways; probes and broadcasts have none. -/
def State.reroute (s : State) (p : Nat) : State :=
  let x := s.port p
  let s := s.setPort p { x with waiting := [] }
  x.waiting.foldl (fun s w =>
    if w.frame.dest = 0xFFFF then s.leftBuffer w else routeW State.raise s w.frame w.inPort) s

/-- The waiting frames of port p whose partner now announces STANDBY: probes and their replies stay, the others leave as
from a port that is down (R450, R460). -/
def State.standbyReroute (s : State) (p : Nat) : State :=
  let l := (s.port p).waiting
  let stays (w : Waiting) : Bool := w.frame.ty == frProbe || w.frame.ty == frProbeRsp
  let s := (s.setPort p { s.port p with waiting := l.filter (fun w => !stays w) }).reroute p
  s.setPort p { s.port p with waiting := l.filter stays ++ (s.port p).waiting }

/-- LINK_INIT (R448, R450): what the partner tells of itself. -/
def execLinkInit (t : Nat) (port : Fin 16) (node : BitVec 16) (peerPort : Fin 8) (width : BitVec 2)
    (die standby : Bool) (credits : BitVec 64) (s : State) : Host.Outcome State Fault Refusal :=
  let s := s.at_ t
  let p := port.val
  let x := s.port p
  .next (
    if x.state ≠ poInit && x.state ≠ poUp then s
    else
      let y := { x with
        gotInit := true, peerNode := node.toNat, peerPort := peerPort.val, peerDie := b2n die, peerStandby := standby
        peerWidth := width.toNat
        credits := if x.state = poInit then (List.range 4).map (fun v => bitsAt credits.toNat (16 * v) 16) else x.credits
        rtt := if x.gotInit then x.rtt else s.now - x.initAt }
      let s := (s.setPort p y).portTry p
      if standby && !x.peerStandby then s.standbyReroute p else s)

/-! ### Loss of a port (R449, R460) -/

/-- A port DOWN: its waiting frames routed again, its replay buffer discarded and counted. -/
def State.portDown (s : State) (p : Nat) : State :=
  let x := s.port p
  if x.state ≠ poUp && x.state ≠ poInit then s
  else
    let s := s.setPort p { ({} : Port) with state := poDown, waiting := x.waiting }
    let s := s.portCount F.FAB_PORT_DISCARDS p x.unacked.length
    let s := s.reroute p
    let s := if x.waiting = [] && x.unacked = [] then s else s.portStick F.FAB_PORT_REROUTE 3 p
    s.portStick F.FAB_PORT_DOWN 0 p

/-- FABRIC_PORT_DOWN (R460). -/
def execFabricPortDown (t : Nat) (port : Fin 16) (s : State) : Host.Outcome State Fault Refusal :=
  .next ((s.at_ t).portDown port.val)

/-! ### Lane training as far as ports see it -/

/-- A lane put into training: its coefficients and block lock are acquired anew (R430). -/
def State.laneTrain (s : State) (n : Nat) : State :=
  s.setLane n { s.lane n with state := laTraining, lock := false, hiBer := false, frozen := false, trainIdle := false
                              prbs := none }

/-- The port of lane n DOWN, with what the Plumb servo makes of it (R267). -/
def State.laneGone (s : State) (n : Nat) : State :=
  let s := s.portDown (s.portOfLane n)
  if s.ownDie n then s.plumbLaneLoss (n % 8) else s

/-! ### Acknowledgement and replay (R453, R454) -/

/-- LINK_CTL sent on port p: ACK_SEQ, or with NAK the LSEQ expected, and the credits returned. -/
def State.sendCtl (s : State) (p : Nat) (nak : Bool) : State :=
  let x := s.port p
  let s := s.setPort p { x with give := [0, 0, 0, 0], news := false }
  s.sendLocal p frLinkCtl
    [ (if nak then x.rxSeq else (x.rxSeq + 4095) % 4096) + b2n nak * 2 ^ 12,
      ((List.range 4).map (fun v => min 65535 (x.give.getD v 0) * 2 ^ (16 * v))).sum ]

/-- LINK_CTL_TIMER (R453). -/
def execLinkCtlTimer (t : Nat) (port : Fin 16) (s : State) : Host.Outcome State Fault Refusal :=
  let s := s.at_ t
  .next (if (s.port port.val).state = poUp then s.sendCtl port.val false else s)

/-- The frame with number lseq of port p taken from its receive buffer in order: whether it is the one expected. A number
ahead of it is a gap, answered by NAK; one behind it has come before. -/
def State.rxTake (s : State) (p lseq : Nat) : Bool × State :=
  let x := s.port p
  if x.state ≠ poUp then (false, s)
  else if lseq = x.rxSeq then
    let s := s.setPort p { x with rxSeq := (x.rxSeq + 1) % 4096, nak := false, news := true }
    (true, (s.portLanes p).foldl (fun s n =>
      if (s.lane n).frozen then s.setLane n { s.lane n with frozen := false } else s) s)
  else if (lseq + 4096 - x.rxSeq) % 4096 < 2048 then
    (false, if x.nak then s else (s.setPort p { x with nak := true }).sendCtl p true)
  else (false, s.setPort p { x with news := true })

/-- A frame received on port p in error: it and every later one are discarded until the expected one arrives. -/
def State.rxBad (s : State) (p : Nat) : State :=
  let x := s.port p
  if x.state ≠ poUp || x.nak then s else (s.setPort p { x with nak := true }).sendCtl p true

/-- FRAME_RX_ERROR (R452, R453): a CRC error (0), a gap in LSEQ (1), or a TYPE or VC that is not listed (2), of a frame
with number lseq on VC vc and len payload bytes. -/
def execFrameRxError (t : Nat) (port : Fin 16) (kind : Fin 3) (lseq : BitVec 12) (vc : Fin 4) (len : BitVec 12)
    (s : State) : Host.Outcome State Fault Refusal :=
  let s := s.at_ t
  let p := port.val
  .next (
    match kind.val with
    | 0 => (s.portCount F.FAB_PORT_CRC_ERRS p 1).rxBad p
    | 1 => s.rxBad p
    | _ =>
      let (ok, s) := s.rxTake p lseq.toNat
      if ok then (s.giveCredits p vc.val (ceilDiv (len.toNat + 20) 64)).fabDrop F.FAB_DROP_BAD_TYPE else s)

/-- The port fails: eight replays in a row brought no progress (R454). -/
def State.replayFail (s : State) (p : Nat) : State :=
  let lanes := s.portLanes p
  let s := (s.portStick F.FAB_PORT_REPLAY_FAIL 1 p).portDown p
  lanes.foldl (fun s n => s.laneTrain n) s

/-- Every unacknowledged frame of port p sent again, oldest first. -/
def State.replay (s : State) (p : Nat) : State :=
  let x := s.port p
  if x.unacked = [] then s
  else if 8 ≤ x.replays then s.replayFail p
  else
    let s := s.setPort p { x with replays := x.replays + 1, since := s.now }
    let s := s.portCount F.FAB_PORT_REPLAYS p 1
    x.unacked.foldl (fun s f => s.send (.frame p f)) s

/-- REPLAY_TIMEOUT (R454): no progress within twice the round trip plus 2 µs. -/
def execReplayTimeout (t : Nat) (port : Fin 16) (s : State) : Host.Outcome State Fault Refusal :=
  let s := s.at_ t
  let x := s.port port.val
  .next (
    if x.state = poUp && x.unacked != [] && decide (x.since + 2 * x.rtt + 2 * usF ≤ s.now) then s.replay port.val else s)

/-- The frames that an acknowledgement leaves: those after number ack. -/
def ackLeaves (ack : Nat) (l : List Frame) : List Frame :=
  if l.any (fun f => f.lseq == ack) then (l.dropWhile (fun f => f.lseq != ack)).drop 1 else l

/-- LINK_CTL (R453): acknowledgement up to ackSeq, or with NAK up to the frame before it with a replay from it, and
credits. -/
def execLinkCtl (t : Nat) (port : Fin 16) (ackSeq : BitVec 12) (nak : Bool) (credits : BitVec 64) (s : State) :
    Host.Outcome State Fault Refusal :=
  let s := s.at_ t
  let p := port.val
  let x := s.port p
  .next (
    if x.state ≠ poUp then s
    else
      let left := ackLeaves (if nak then (ackSeq.toNat + 4095) % 4096 else ackSeq.toNat) x.unacked
      let moved := decide (left.length < x.unacked.length)
      let y := { x with
        unacked := left
        replays := if moved then 0 else x.replays
        since := if moved then s.now else x.since
        credits := (List.range 4).map (fun v => x.credits.getD v 0 + bitsAt credits.toNat (16 * v) 16) }
      let s := s.setPort p y
      (if nak then s.replay p else s).portPump p (y.waiting.length + 1))

/-! ### Forwarding (R458, R459, R461) -/

/-- FRAME_FORWARD: a routed frame for another node. -/
def execFrameForward (t : Nat) (port : Fin 16) (lseq : BitVec 12) (dest src : BitVec 16) (vc : Fin 4) (ty hops : BitVec 6)
    (first last : Bool) (tag : BitVec 14) (aux : BitVec 32) (words : List (BitVec 64)) (s : State) :
    Host.Outcome State Fault Refusal :=
  let s := s.at_ t
  let p := port.val
  .next (
    if dest.toNat = s.nodeId || dest.toNat = 0xFFFF then s
    else
      let (ok, s) := s.rxTake p lseq.toNat
      let f : Frame := {
        dest := dest.toNat, src := src.toNat, vc := vc.val, ty := ty.toNat, hops := hops.toNat - 1, first := first
        last := last, tag := tag.toNat, aux := aux.toNat, words := words.map BitVec.toNat }
      if !ok then s
      else if frVc f.ty ≠ some f.vc then (s.giveCredits p f.vc f.credits).fabDrop F.FAB_DROP_BAD_TYPE
      else if hops.toNat < 2 then (s.giveCredits p f.vc f.credits).fabDrop F.FAB_DROP_HOP
      else routeW State.raise s f (some p))

/-- DWELL_EXPIRY (R461): frames that have waited DWELL_MAX µs. -/
def execDwellExpiry (t : Nat) (port : Fin 16) (s : State) : Host.Outcome State Fault Refusal :=
  let s := s.at_ t
  let p := port.val
  let x := s.port p
  let old (w : Waiting) : Bool := decide (w.since + s.rd F.FAB_CFG_DWELL_MAX 0 * usF ≤ s.now)
  .next ((x.waiting.filter old).foldl (fun s w => (s.leftBuffer w).fabDrop F.FAB_DROP_DWELL)
    (s.setPort p { x with waiting := x.waiting.filter (fun w => !old w) }))

/-- FAB_DROP_CLR: a write of 1 to FAB_DROP.CLR. -/
def execFabDropClr (s : State) : Host.Outcome State Fault Refusal :=
  .next ((((s.wr F.FAB_DROP_NO_ROUTE 0 0).wr F.FAB_DROP_HOP 0 0).wr F.FAB_DROP_DWELL 0 0).wr F.FAB_DROP_BAD_TYPE 0 0)

/-- FAB_PCNT_CLR: a write of 1 to FAB_PCNT.CLR. -/
def execFabPcntClr (port : Fin 8) (s : State) : Host.Outcome State Fault Refusal :=
  let p := port.val
  .next (((s.wr F.FAB_PORT_REPLAYS p 0).wr F.FAB_PORT_DISCARDS p 0).wr F.FAB_PORT_CRC_ERRS p 0)

end Sys2Proof.Machine
end

