-- ==== Sys2Proof/Machine/Crypto.lean ====
section
/-! DEFINITION. The security island's arithmetic (19_security.md): SHAKE256 of FIPS 202 and Ed448 of RFC 8032, over bytes. -/

namespace Sys2Proof.Machine

open Sys2Proof

/-! ### SHAKE256 -/

/-- The state of Keccak-p[1600]: five planes, plane y holding its lanes x from 0 to 4. -/
abbrev Planes := List (List Nat)

/-- A lane turned by r places towards its high bits. -/
def laneTurn (v r : Nat) : Nat :=
  let w := v * 2 ^ r
  w % 2 ^ 64 + w / 2 ^ 64

/-- Two planes added. -/
def planeAdd (p q : List Nat) : List Nat := List.zipWith Nat.xor p q

/-- A plane whose lane x is lane x + k of p. -/
def planeFrom (k : Nat) (p : List Nat) : List Nat := p.drop k ++ p.take k

/-- Step θ: each lane takes the parities of the columns beside its own. -/
def stepTheta (a : Planes) : Planes :=
  let par := a.foldl planeAdd (List.replicate 5 0)
  a.map (planeAdd (planeAdd (planeFrom 4 par) ((planeFrom 1 par).map (laneTurn · 1))))

/-- The lane, as x and y, that the walk of step ρ comes to after t moves. -/
def rhoWalk : Nat → Nat × Nat
  | 0 => (1, 0)
  | t + 1 => let p := rhoWalk t; (p.2, (2 * p.1 + 3 * p.2) % 5)

/-- The places by which step ρ turns lane x of plane y. -/
def rhoTurn (y x : Nat) : Nat :=
  match (List.range 24).find? (fun t => rhoWalk t == (x, y)) with
  | none => 0
  | some t => (t + 1) * (t + 2) / 2 % 64

/-- The turns of all lanes, plane by plane. -/
def rhoTurns : Planes := (List.range 5).map (fun y => (List.range 5).map (rhoTurn y))

/-- Step ρ. -/
def stepRho (a : Planes) : Planes := List.zipWith (List.zipWith laneTurn) a rhoTurns

/-- Step π: lane x of plane y comes from plane x. -/
def stepPi (a : Planes) : Planes :=
  (List.range 5).map (fun y => a.mapIdx (fun x p => p.getD ((x + 3 * y) % 5) 0))

/-- Step χ. -/
def stepChi (a : Planes) : Planes :=
  a.map (fun p => planeAdd p (List.zipWith (fun u v => Nat.land (2 ^ 64 - 1 - u) v) (planeFrom 1 p) (planeFrom 2 p)))

/-- The shift register of step ι after t moves: its feedback is x⁸ + x⁶ + x⁵ + x⁴ + 1. -/
def iotaReg : Nat → Nat
  | 0 => 1
  | t + 1 => let r := 2 * iotaReg t; if r < 256 then r else Nat.xor r 0x171

/-- What step ι of round n adds to lane 0 of plane 0: bit 2^j - 1 is the register's low bit after 7 n + j moves. -/
def iotaLane (n : Nat) : Nat := ((List.range 7).map (fun j => iotaReg (7 * n + j) % 2 * 2 ^ (2 ^ j - 1))).sum

/-- Step ι of round n. -/
def stepIota (n : Nat) (a : Planes) : Planes := a.modify 0 (List.modify · 0 (Nat.xor (iotaLane n)))

/-- Keccak-p[1600] of n rounds, from round 0 on. -/
def keccak (a : Planes) : Nat → Planes
  | 0 => a
  | n + 1 => stepIota n (stepChi (stepPi (stepRho (stepTheta (keccak a n)))))

/-- Bytes as a little-endian number. -/
def leNat : List Nat → Nat
  | [] => 0
  | b :: l => b + 256 * leNat l

/-- The low n bytes of a number, little-endian. -/
def leBytes (v : Nat) : Nat → List Nat
  | 0 => []
  | n + 1 => v % 256 :: leBytes (v / 256) n

/-- 136 bytes as the seventeen lanes that they fill, and eight empty ones. -/
def blockPlanes (blk : List Nat) : Planes :=
  (List.range 5).map (fun y => (List.range 5).map (fun x => leNat ((blk.drop (40 * y + 8 * x)).take 8)))

/-- Blocks of 136 bytes taken into the state; n bounds them. -/
def shakeTake (a : Planes) (l : List Nat) : Nat → Planes
  | 0 => a
  | n + 1 =>
    if l.length < 136 then a
    else shakeTake (keccak (List.zipWith planeAdd a (blockPlanes (l.take 136))) 24) (l.drop 136) n

/-- The first len bytes that the state gives; n bounds the blocks. -/
def shakeGive (a : Planes) (len : Nat) : Nat → List Nat
  | 0 => []
  | n + 1 =>
    let now := (a.flatten.flatMap (leBytes · 8)).take (min len 136)
    now ++ shakeGive (keccak a 24) (len - now.length) n

/-- The message padded to whole blocks. -/
def shakePad (m : List Nat) : List Nat :=
  let gap := 136 - m.length % 136
  m ++ (if gap = 1 then [0x9F] else 0x1F :: List.replicate (gap - 2) 0 ++ [0x80])

/-- SHAKE256 of a message, len bytes. -/
def shake256 (m : List Nat) (len : Nat) : List Nat :=
  let p := shakePad m
  shakeGive (shakeTake (List.replicate 5 (List.replicate 5 0)) p (p.length / 136)) len (ceilDiv len 136)

/-- The digests of the device: 32 bytes. -/
def digest (m : List Nat) : List Nat := shake256 m 32

/-! ### Ed448 -/

/-- The field's prime. -/
def edP : Nat := 2 ^ 448 - 2 ^ 224 - 1

/-- The order of the base point. -/
def edL : Nat := 2 ^ 446 - 13818066809895115352007386748515426880336692474882178609894547503885

/-- The curve's d, which is -39081. -/
def edD : Nat := edP - 39081

/-- A point of the curve: X, Y, Z. -/
abbrev EdPoint := Nat × Nat × Nat

/-- The neutral point. -/
def edZero : EdPoint := (0, 1, 1)

/-- The base point. -/
def edBase : EdPoint :=
  (224580040295924300187604334099896036246789641632564134246125461686950415467406032909029192869357953282578032075146446173674602635247710,
   298819210078481492676017930443930673437544040154080242095928241372331506189835876003536878655418784733982303233503462500531545062832660, 1)

/-- a - b in the field. -/
def edSub (a b : Nat) : Nat := (a + edP - b % edP) % edP

/-- The sum of two points. -/
def edAdd (u v : EdPoint) : EdPoint :=
  let (x1, y1, z1) := u
  let (x2, y2, z2) := v
  let a := z1 * z2 % edP
  let b := a * a % edP
  let c := x1 * x2 % edP
  let d := y1 * y2 % edP
  let e := edD * c % edP * d % edP
  let f := edSub b e
  let g := (b + e) % edP
  let h := (x1 + y1) * (x2 + y2) % edP
  (a * f % edP * edSub (edSub h c) d % edP, a * g % edP * edSub d c % edP, f * g % edP)

/-- k times a point, from the top n bits of k down. -/
def edMulN (k : Nat) (u : EdPoint) : Nat → EdPoint
  | 0 => edZero
  | n + 1 =>
    let r := edMulN (k / 2) u n
    let r := edAdd r r
    if k % 2 = 1 then edAdd r u else r

/-- k times a point. -/
def edMul (k : Nat) (u : EdPoint) : EdPoint := edMulN k u (Nat.log2 k + 1)

/-- b to the power e modulo the prime, e below 2^n. -/
def edPow (b e : Nat) : Nat → Nat
  | 0 => 1
  | n + 1 =>
    let r := edPow b (e / 2) n
    let r := r * r % edP
    if e % 2 = 1 then r * b % edP else r

/-- Whether two points are the same. -/
def edSame (u v : EdPoint) : Bool :=
  u.1 * v.2.2 % edP == v.1 * u.2.2 % edP && u.2.1 * v.2.2 % edP == v.2.1 * u.2.2 % edP

/-- A point as 57 bytes. -/
def edEncode (u : EdPoint) : List Nat :=
  let i := edPow u.2.2 (edP - 2) 448
  let x := u.1 * i % edP
  let y := u.2.1 * i % edP
  leBytes (y + x % 2 * 2 ^ 455) 57

/-- The point that 57 bytes encode. -/
def edDecode (b : List Nat) : Option EdPoint :=
  let n := leNat b
  let y := n % 2 ^ 455
  let sign := n / 2 ^ 455 % 2
  if b.length ≠ 57 || edP ≤ y then none
  else
    let u := edSub (y * y) 1
    let v := edSub (edD * (y * y % edP)) 1
    let u3 := u * u % edP * u % edP
    let v3 := v * v % edP * v % edP
    let u5v3 := u3 * u % edP * u % edP * v3 % edP
    let x := u3 * v % edP * edPow u5v3 ((edP - 3) / 4) 448 % edP
    if v * (x * x % edP) % edP ≠ u then none
    else if x = 0 && sign = 1 then none
    else some ((if x % 2 = sign then x else edP - x), y, 1)

/-- The prefix of a hash for a context string. -/
def edDom (ctx : List Nat) : List Nat := [83, 105, 103, 69, 100, 52, 52, 56, 0, ctx.length] ++ ctx

/-- The bytes of an ASCII string. -/
def ascii (c : String) : List Nat := c.toList.map Char.toNat

/-- The secret scalar and the prefix of a private key seed. -/
def edSecret (seed : List Nat) : Nat × List Nat :=
  let h := shake256 seed 114
  let a := leNat (h.take 57)
  (a % 2 ^ 447 / 4 * 4 + 2 ^ 447, h.drop 57)

/-- The public key of a private key seed. -/
def edPublic (seed : List Nat) : List Nat := edEncode (edMul (edSecret seed).1 edBase)

/-- The signature of a message under a context string: 114 bytes. -/
def edSign (seed : List Nat) (ctx : String) (m : List Nat) : List Nat :=
  let (a, pre) := edSecret seed
  let dom := edDom (ascii ctx)
  let r := leNat (shake256 (dom ++ pre ++ m) 114) % edL
  let rb := edEncode (edMul r edBase)
  let k := leNat (shake256 (dom ++ rb ++ edPublic seed ++ m) 114) % edL
  rb ++ leBytes ((r + k * a) % edL) 57

/-- Whether a signature of a message under a context string verifies. -/
def edVerify (pk : List Nat) (ctx : String) (m sig : List Nat) : Bool :=
  let n := leNat (sig.drop 57)
  match edDecode (sig.take 57), edDecode pk with
  | some r, some a =>
    let k := leNat (shake256 (edDom (ascii ctx) ++ sig.take 57 ++ pk ++ m) 114) % edL
    sig.length == 114 && decide (n < edL)
      && edSame (edMul (4 * n) edBase) (edAdd (edMul 4 r) (edMul (4 * k) a))
  | _, _ => false

end Sys2Proof.Machine
end

