-- ==== Sys2Proof/Machine/Chains.lean ====
section
/-! DEFINITION. The commands of the decimation chains: configuration changes, user sets, the DC block, alignment
(R110 to R130). -/

namespace Sys2Proof.Machine

open Sys2Proof

/-- A register field of the host interface's status set (R400), with its event, source 20. -/
def State.hrStick (s : State) (f : Fld) (bit detail : Nat) : State :=
  s.stick f 0 (bitAt (s.rd F.HR_EVENT_EN_EV_MASK 0) bit) 20 detail

/-- The field of a chain's configuration. -/
def decFld : DecField → Fld
  | .div => F.CH_DIV_DIV
  | .d => F.DEC_CTRL_D
  | .hb1 => F.DEC_CTRL_HB1_EN
  | .hb2 => F.DEC_CTRL_HB2_EN
  | .firSet => F.DEC_CTRL_FIR_SET
  | .sh0 => F.DEC_SHIFT_SH0
  | .sh1 => F.DEC_SHIFT_SH1
  | .sh2 => F.DEC_SHIFT_SH2
  | .sh3 => F.DEC_SHIFT_SH3
  | .sh4 => F.DEC_SHIFT_SH4
  | .decEn => F.DEC_CTRL_DEC_EN

/-- Whether a change of the field recomputes Δ (R124). -/
def decGrid : DecField → Bool
  | .div | .d | .hb1 | .hb2 | .firSet => true
  | _ => false

/-- The state that follows DEC_EN going to 0 (R130, R282). -/
def State.decOff (s : State) (t c : Nat) : State :=
  let i := chIx t c
  ((s.gapNoValid t c true).closeStream (decSid t c) true).supKeep i

/-- A field of the chain's configuration written: clamps, the grid, the restart (R112, R114, R124, R127). -/
def State.decWrite (s : State) (t c : Nat) (f : DecField) (v : Nat) : State :=
  let i := chIx t c
  let oldP := s.period t c
  let old := s.decCfg t c
  let oldV := s.rd (decFld f) i
  if f = .div && s.mode ≠ mSetup then s
  else
    let v := legalValue (decFld f) i v
    if f = .decEn && v = 0 then (if oldV = 0 then s else (s.wr (decFld f) i 0).decOff t c)
    else
      let s := (s.wr (decFld f) i v).decClamp t c
      if s.rd (decFld f) i = oldV && s.decCfg t c = old then s
      else
        let s := if decGrid f then s.regrid t c oldP else s
        let s := if f = .div && s.fbCh t (c / 8) = c then s.loopClamp t (c / 8) else s
        if s.on F.DEC_CTRL_DEC_EN i then
          (if f = .decEn then s.supKeep i else s).chainRestart t c gcConfig (s.gridNext t c (s.now : Int))
        else s

/-- DEC_CONFIG_CHANGE (R124, R127). -/
def execDecConfigChange (t : Nat) (tenon : Fin 6) (ch : Fin 128) (field : DecField) (value : Nat) (s : State) :
    Host.Outcome State Fault Refusal :=
  let s := s.at_ t
  .next (if s.reachable tenon.val then s.decWrite tenon.val ch.val field value else s)

/-- The user set u of Tenon t read from its shadow registers (R110). -/
def State.shadowSet (s : State) (t u : Nat) : UserSet :=
  let i := 4 * t + u
  { n := s.rd F.UF_HDR_N_TAPS i, f := s.rd F.UF_HDR_F_CODE i, gd := s.rd F.UF_HDR_GD i,
    coef := (List.range 128).map (fun j => s.rd F.UF_COEF_COEF (i * 128 + j)) }

/-- A write of 1 to UF_COMMIT.COMMIT: the copy, and a restart of every chain that selects the set (R111, R124, R127). -/
def State.ufCommit (s : State) (t u : Nat) : State :=
  let x := s.shadowSet t u
  let s := { s with userSets := smapSet {} s.userSets (4 * t + u) x }
  (List.range 128).foldl (fun s c =>
    if s.rd F.DEC_CTRL_FIR_SET (chIx t c) = 16 + u then
      let s := (s.decClamp t c).regrid t c (s.period t c)
      if s.on F.DEC_CTRL_DEC_EN (chIx t c) then s.chainRestart t c gcUser s.now else s
    else s) s

/-- USER_SET_COMMIT (R111). -/
def execUserSetCommit (t : Nat) (tenon : Fin 6) (set : Fin 4) (s : State) : Host.Outcome State Fault Refusal :=
  let s := s.at_ t
  .next (if s.reachable tenon.val then s.ufCommit tenon.val set.val else s)

/-- The DC block started alone: DCB_ACQ outputs suppressed from the next FIR-stage output (R115, R127). Where a restart's
acquisition is still to come, it is the one that forms m. -/
def State.dcbAlone (s : State) (i : Nat) : State :=
  let s := s.addSup i gcDcb { start := s.now, change := some s.now, begun := true, left := s.rd F.DEC_DCB_DCB_ACQ i }
  if 0 < (s.chain i).acqSkip then s else s.dcbStart i 0

/-- DCB_EN written (R115, R116). -/
def State.setDcbEn (s : State) (i : Nat) (v : Bool) : State :=
  if v = s.on F.DEC_CTRL_DCB_EN i then s
  else
    let s := s.wr F.DEC_CTRL_DCB_EN i (b2n v)
    if v then (if s.on F.DEC_CTRL_DEC_EN i then s.dcbAlone i else s)
    else s.setChain i { s.chain i with m := 0, acqSkip := 0, acqLeft := 0, acqSum := 0 }

/-- DCB_ENABLE_CHANGE (R115, R116). -/
def execDcbEnableChange (t : Nat) (tenon : Fin 6) (ch : Fin 128) (on : Bool) (s : State) :
    Host.Outcome State Fault Refusal :=
  let s := s.at_ t
  .next (if s.reachable tenon.val then s.setDcbEn (chIx tenon.val ch.val) on else s)

/-- DCB_FREEZE written (R115, R116). -/
def State.setDcbFreeze (s : State) (i : Nat) (v : Bool) : State :=
  if v = s.on F.DEC_CTRL_DCB_FREEZE i then s
  else
    let s := s.wr F.DEC_CTRL_DCB_FREEZE i (b2n v)
    if !v && s.on F.DEC_CTRL_DCB_EN i && s.on F.DEC_CTRL_DEC_EN i then s.dcbAlone i else s

/-- DCB_FREEZE_CHANGE (R115, R116). -/
def execDcbFreezeChange (t : Nat) (tenon : Fin 6) (ch : Fin 128) (on : Bool) (s : State) :
    Host.Outcome State Fault Refusal :=
  let s := s.at_ t
  .next (if s.reachable tenon.val then s.setDcbFreeze (chIx tenon.val ch.val) on else s)

/-- An alignment at second sec scheduled in every reachable Tenon of the node, by commands that are actions of R485. -/
def State.scheduleSync (s : State) (sec : Nat) : State :=
  if s.journaling then s.journal (.sync sec)
  else
    (List.range 6).foldl (fun s t =>
      if s.reachable t then s.setTenon t { s.tenon t with syncs := (s.tenon t).syncs ++ [sec] } else s) s

/-- SYNC_N_EDGE (R122, R568, R569): an edge with a low time of 100 ns or more, in no BOOT; from 20 ns to 100 ns it is
open whether it acts. -/
def execSyncNEdge (t lowNs : Nat) (s : State) : Host.Outcome State Fault Refusal :=
  let s := s.at_ t
  let sec := ((s.plumbNow + (msF : Int) + (secF : Int) - 1) / (secF : Int) % 2 ^ 40).toNat
  let acts := s.mode != mBoot && s.mode != 0
  .next (
    if !acts || lowNs < 20 then s
    else if 100 ≤ lowNs then s.scheduleSync sec
    else if Config.freeBits 1 s.free % 2 = 1 then { s with free := s.free + 1 }.scheduleSync sec
    else { s with free := s.free + 1 })

/-- A sync command for second sec at this node: scheduled, or refused when less than 1 ms before it (R123, R400). The
answer tells whether it was applied. -/
def State.syncCommand (s : State) (sec : Nat) : Bool × State :=
  if s.plumbNow + (msF : Int) ≤ plumbSec sec * (secF : Int) then (true, s.scheduleSync sec)
  else
    let s := (List.range 6).foldl (fun s t =>
      if s.reachable t then
        (s.countUp F.DEC_SYNC_STAT_LATE_COUNT t 1 255).wr F.DEC_SYNC_STAT_LATE t 1
      else s) s
    (false, s.hrStick F.HR_STATUS_SYNC_LATE 3 (sec % 2 ^ 32))

/-- SYNC_COMMAND (R123). -/
def execSyncCommand (t : Nat) (sec : BitVec 40) (s : State) : Host.Outcome State Fault Refusal :=
  .next ((s.at_ t).syncCommand sec.toNat).2

/-- The chain of a channel aligned to second sec (R119, R121). -/
def State.alignChain (s : State) (t c sec : Nat) : State :=
  let i := chIx t c
  if !s.on F.DEC_CTRL_SYNC_EN i then s
  else
    let s := s.chainEmpty i
    let s := s.setChain i { s.chain i with m := 0, acqSkip := 0, acqLeft := 0, acqSum := 0, stepped := false }
    let s := (s.setChan i { s.chan i with alignS := sec }).regrid t c (s.period t c)
    if s.on F.DEC_CTRL_DEC_EN i then s.chainRestart t c gcAlign s.now else s

/-- ALIGNMENT (R121): each second scheduled in the Tenon that its counter has reached. -/
def execAlignment (t : Nat) (tenon : Fin 6) (s : State) : Host.Outcome State Fault Refusal :=
  let s := s.at_ t
  let tn := tenon.val
  let x := s.tenon tn
  let due (sec : Nat) : Bool := decide (plumbSec sec * (secF : Int) ≤ s.plumbOfTenon tn (s.now : Int))
  .next (
    if !s.acquiring tn then s
    else
      let s' := s.setTenon tn { x with syncs := x.syncs.filter (fun n => !due n) }
      (x.syncs.filter due).foldl (fun s sec =>
        ((List.range 128).foldl (fun s c => s.alignChain tn c sec) s).wr F.DEC_SYNC_STAT_LAST_SEC tn sec) s')

/-- DEC_SYNC_CLR: a write of 1 to DEC_SYNC_STAT.CLR. -/
def execDecSyncClr (tenon : Fin 6) (s : State) : Host.Outcome State Fault Refusal :=
  .next (if s.reachable tenon.val then s.wr F.DEC_SYNC_STAT_LATE_COUNT tenon.val 0 else s)

end Sys2Proof.Machine
end

