-- ==== Sys2Proof/Machine/Pool.lean ====
section
/-! DEFINITION. The cell pool's readers and producers, memory faults, scrubs and bank repair
(11_queues_and_protected_memory.md). -/

namespace Sys2Proof.Machine

open Sys2Proof

/-- A sticky bit of QEV_STATUS set; event source 41 (R337). -/
def State.queueStick (s : State) (f : Fld) (bit detail : Nat) : State :=
  s.stick f 0 (bitAt (s.rd F.QEV_EN_EV_MASK 0) bit) 41 detail

/-! ### Reading words -/

/-- The shim slot that holds a cell, none when the cell lies in its bank. -/
def State.shimSlot (s : State) (cell : Nat) : Option Nat :=
  (s.pool.shim.find? (fun p => p.2 == cell + 1)).map (·.1)

/-- Word j of a cell, which should hold d, as a reader gets it (R320, R322, R332): the word, whether it can be used,
whether it is poisoned. A word in the shim buffer is the one that migration read with correction (R331); one that it found
uncorrectable cannot be used. -/
def State.cellWord (s : State) (cell j d : Nat) : Nat × Bool × Bool × State :=
  let a := cell * 8 + j
  let d := if s.pool.zeroed.contains a then 0 else d
  match s.shimSlot cell with
  | none =>
    let (v, ok, s) := s.memRead (cell % 16) a d
    (v, ok, false, s)
  | some slot =>
    let (v, ok) := s.memLook (cell % 16) a d
    let f := smapGet 0 s.pool.flips (flipKey memShim (slot * 8 + j))
    if f = 0 || !ok then (v, ok, false, s)
    else if parity f 65 then
      (0, true, true, (s.memCount memShim (slot * 8 + j) .uncorr).memStick F.MEM_STATUS_POISON 4 memShim)
    else (v ^^^ (f % 2 ^ 64), true, false, s)

/-- Whether a word of one of the cells fails its parity check in the shim buffer (R332). -/
def State.shimFails (s : State) (cells : List Nat) : Bool :=
  cells.any (fun c => match s.shimSlot c with
    | none => false
    | some slot => (List.range 8).any (fun j => parity (smapGet 0 s.pool.flips (flipKey memShim (slot * 8 + j))) 65))

/-- The first words of a cell, from word j on, as a reader gets them. -/
def State.cellWords (s : State) (cell j : Nat) : List Nat → List Nat × Bool × Bool × State
  | [] => ([], true, false, s)
  | d :: l =>
    let (v, ok, p, s) := s.cellWord cell j d
    if ok then
      let (vs, ok', p', s) := s.cellWords cell (j + 1) l
      (v :: vs, ok', p || p', s)
    else ([], false, p, s)

/-- The link entry of a cell of a packet, next being the cell after the packet's last one (R304). -/
def Pkt.entry (p : Pkt) (c next : Nat) : Nat :=
  let k := p.cells.idxOf c
  p.cells.getD (k + 1) next % 2 ^ 19
    + (if k = 0 then p.rec_.len % 2 ^ 11 * 2 ^ 19 + 2 ^ 30 + p.rec_.stream % 2 ^ 16 * 2 ^ 32 else 0)

/-- The entry of cell c among the packets of a queue: the last cell of each leads to the first cell of the next. -/
def entryIn (c : Nat) : List Pkt → Option Nat
  | [] => none
  | p :: l => if p.cells.contains c then some (p.entry c ((l.head?.bind (fun q => q.cells.head?)).getD 0)) else entryIn c l

/-- The link entry of cell c (R304); that of a cell in no packet reads as zero. -/
def State.linkEntry (s : State) (c : Nat) : Nat := (s.pool.queues.findSome? (fun q => entryIn c q.2.pkts)).getD 0

/-- The eight words that cell c should hold; those of a cell in no packet are open. -/
def State.cellData (s : State) (c : Nat) : List Nat :=
  match (s.pool.queues.flatMap (fun q => q.2.pkts)).find? (fun p => p.cells.contains c) with
  | some p => ((p.rec_.words (s.rd F.FAB_NODE_ID 0)).drop (8 * p.cells.idxOf c)).take 8
  | none => (List.range 8).map (fun j => Config.freeBits 64 (s.free + j) % 2 ^ 64)

/-- The words of a packet as its reader gets them, from cell c on: each cell's link entry first, which names the next cell, and
in the first cell the length (R304, R323); n bounds the cells. -/
def State.chainWords (s : State) (c : Nat) (left : Option Nat) : Nat → List Nat × Bool × Bool × State
  | 0 => ([], true, false, s)
  | n + 1 =>
    let (e, okL, s) := s.memRead memLink c (s.linkEntry c)
    if okL then
      let left := left.getD (bitsAt e 19 11)
      let (v, ok, p, s) := s.cellWords c 0 ((s.cellData c).take left)
      if !ok then ([], false, p, s)
      else if left ≤ 8 then (v, true, p, s)
      else
        let (vs, ok', p', s) := s.chainWords (bitsAt e 0 19) (some (left - 8)) n
        (v ++ vs, ok', p || p', s)
    else ([], false, false, s)

/-- A record's words with POISON set in the header (R283). -/
def poisoned (ws : List Nat) : List Nat :=
  match ws with
  | [] => []
  | w :: l => (w ||| flPoison * 2 ^ 8) :: l

/-- The packet of queue q that its reader takes next. -/
def State.nextPkt (s : State) (q : Nat) : Option Pkt := (s.queue q).pkts[(s.queue q).taken]?

/-- A queue halted before the packet that holds a bad word (R322). -/
def State.haltQueue (s : State) (q : Nat) : State :=
  (s.wr F.QSTAT_HALTED q 1).queueStick F.QEV_STATUS_HALT 0 q

/-- The next packet of queue q read by its reader: its record and words, or the queue halted (R322). The packet counts
as taken until it is delivered. -/
def State.takePkt (s : State) (q : Nat) : Option (Rec × List Nat) × State :=
  match s.nextPkt q with
  | none => (none, s)
  | some p =>
    let (ws, ok, poison, s) := s.chainWords (p.cells.headD 0) none 256
    if ok then
      (some (p.rec_, if poison then poisoned ws else ws), s.setQueue q { s.queue q with taken := (s.queue q).taken + 1 })
    else (none, s.haltQueue q)

/-- Whether a reader bound to queue q may take a packet from it (R312, R313, R322). -/
def State.readable (s : State) (q : Nat) : Bool :=
  s.on F.QCFG_EN q && !s.on F.QSTAT_HALTED q && (s.nextPkt q).isSome

/-- The queues of a reader that it may take from. -/
def State.readerQueues (s : State) (kind idx : Nat) : List Nat :=
  (s.pool.queues.map (·.1)).filter (fun q =>
    s.rd F.QCFG_READER_KIND q == kind && s.rd F.QCFG_READER_IDX q == idx && s.readable q)

/-- The queue a reader takes its next packet from: highest PRIO, equal PRIO round-robin (R313). -/
def State.readerPick (s : State) (kind idx : Nat) : Option Nat :=
  let qs := s.readerQueues kind idx
  let top := qs.foldl (fun m q => max m (s.rd F.QCFG_PRIO q)) 0
  let best := qs.filter (fun q => s.rd F.QCFG_PRIO q == top)
  let last := smapGet 0 s.pool.rr ((kind * 1024 + idx) * 8 + top)
  match best.find? (fun q => decide (last < q + 1)) with
  | some q => some q
  | none => best.head?

/-- The queue a reader has just taken from noted; the next turn at its PRIO starts after it. -/
def State.readerTook (s : State) (kind idx q : Nat) : State :=
  { s with pool := { s.pool with rr := smapSet 0 s.pool.rr ((kind * 1024 + idx) * 8 + s.rd F.QCFG_PRIO q) (q + 1) } }

/-! ### Admission at a receive port -/

/-- A record that enters the pool whole from a receive port, and is shown to the statistics unit unless it has been before a
take-over (R220). -/
def State.admitPut (s : State) (q : Nat) (r : Rec) : State :=
  let k := (r.stream, r.seq, r.ty)
  if s.dx.fed.contains k then
    { s with dx := { s.dx with fed := s.dx.fed.filter (fun y => y != k) } }.poolPut (prPort r.die) q r
  else (s.poolPut (prPort r.die) q r).statFeedAll r 64

/-- A record discarded at the receive port (R309). -/
def State.admitDrop (s : State) (q : Nat) (r : Rec) (l : Option LossPend) : State :=
  let s := s.setLoss 2 r.stream (some (addLoss l r 2))
  (s.countUp F.QDROP_DROPS q 1 (2 ^ 31 - 1)).queueStick F.QEV_STATUS_DROP 1 q

/-- A record judged at its receive port (R309, R310). -/
def State.admitRec (s : State) (r : Rec) : State :=
  let q := s.queueOf r.stream
  match s.loss 2 r.stream with
  | none => if s.mayTake q r.cellCount then s.admitPut q r else s.admitDrop q r none
  | some l =>
    if r.ty = tyLoss then s.setLoss 2 r.stream (some (addLoss (some l) r 2))
    else if s.mayTake q (1 + r.cellCount) then
      ((s.setLoss 2 r.stream none).admitPut q (lossRec r.stream r.die l)).admitPut q r
    else s.admitDrop q r (some l)

/-- The receive port of Tenon t whose oldest received record is r writes the loss record it owes that record's stream,
when the queue can take both (R310). -/
def State.portLoss (s : State) (r : Rec) : State :=
  let q := s.queueOf r.stream
  match s.loss 2 r.stream with
  | none => s
  | some l =>
    if r.ty ≠ tyLoss && s.mayTake q (1 + r.cellCount) then
      (s.setLoss 2 r.stream none).admitPut q (lossRec r.stream r.die l)
    else s

/-! ### Halted queues -/

/-- QUEUE_RESUME (R323): the head packet of a halted queue removed, a loss record in its place when its header can be
read. -/
def State.queueResume (s : State) (q : Nat) : State :=
  if !s.on F.QSTAT_HALTED q then s
  else
    let s := s.wr F.QSTAT_HALTED q 0
    let x := s.queue q
    match x.pkts[x.taken]? with
    | none => s
    | some p =>
      let ws := p.rec_.words (s.rd F.FAB_NODE_ID 0)
      let c0 := p.cells.headD 0
      let (link, linkOk, _) := s.memRead memLink c0 (s.linkEntry c0)
      let (_, hdrOk, _, _) := s.cellWords c0 0 (ws.take 4)
      -- the cells before and at the first bad link entry can be reached
      let bad (c : Nat) : Bool := !(s.memLook memLink c 0).2
      let reach := p.cells.takeWhile (fun c => !bad c) ++ ((p.cells.dropWhile (fun c => !bad c)).take 1)
      let leaked := p.cells.drop reach.length
      let s := { s with pool := { s.pool with
        owner := leaked.foldl (fun m c => smapSet 0 m c 4097) s.pool.owner
        shim := s.pool.shim.filter (fun p => !leaked.contains (p.2 - 1)) } }
      let keep := x.pkts.take x.taken
      let rest := x.pkts.drop (x.taken + 1)
      if hdrOk then
        let r := p.rec_
        let l := lossRec r.stream r.die
          { count := 1, flags := r.flags, seq := r.seq, time := r.time, bent := r.bent, channel := r.channel,
            epoch := r.epoch, cause := 3, lastTime := r.time, node := r.node }
        let s := { s with pool := s.pool.cellFresh c0 }
        (s.setQueue q { x with pkts := keep ++ { rec_ := l, cells := [c0] } :: rest }).freeCellsOf (reach.drop 1)
      else
        ((s.setQueue q { x with pkts := keep ++ rest }).freeCellsOf reach).queueStick F.QEV_STATUS_HDR_LOST 2
          (q + (if linkOk then bitsAt link 32 16 else 0xFFFF) * 2 ^ 16)

def execQueueResume (queue : Fin 4096) (s : State) : Host.Outcome State Fault Refusal :=
  .next (s.queueResume queue.val)

/-- QDROP_CLR: a write of 1 to QDROP.CLR. -/
def execQdropClr (queue : Fin 4096) (s : State) : Host.Outcome State Fault Refusal :=
  .next ((s.wr F.QDROP_DROPS queue.val 0).wr F.QSTAT_HIGH_WATER queue.val 0)

/-- MEM_ECC_CLR: a write of 1 to MEM_ECC.CLR. -/
def State.memClr (s : State) (m : Nat) : State :=
  ((((s.wr F.MEM_ECC_SINGLE m 0).wr F.MEM_ECC_DOUBLE m 0).wr F.MEM_ECC_UNCORR m 0).wr F.MEM_ECC_ADDR m 0).wr
    F.MEM_ECC_BAD_VALID m 0

def execMemEccClr (mem : Fin 48) (s : State) : Host.Outcome State Fault Refusal := .next (s.memClr mem.val)

/-! ### Upsets, write-back, scrub -/

/-- The words of a memory (R303, R321, R330, R463, R529); 0 for one the part does not hold. -/
def State.memSize (s : State) (m : Nat) : Nat :=
  if m < 16 then 262144
  else if m = memLink then 524288
  else if m < 21 then 65536
  else if m = memRoute then 8192
  else if m = memRetention then 8192
  else if m = memShim then 32768
  else if 32 ≤ m && m < 38 && s.present (m - 32) then 524288
  else 0

/-- The index in its memory of the word at address a: a bank's words are counted inside the bank. -/
def wordIndex (m a : Nat) : Nat := if m < 16 then a / 128 * 8 + a % 8 else a

/-- Whether memory m holds a word at address a. -/
def State.memHas (s : State) (m a : Nat) : Bool :=
  if m < 16 then decide (a < 4194304) && a / 8 % 16 == m else decide (a < s.memSize m)

/-- SINGLE_EVENT_UPSET (R559): the bits of mask flip in the stored word at address a of memory m: 80 bits, or 65 in the
shim buffer. -/
def execSingleEventUpset (t : Nat) (mem : Fin 48) (addr : Nat) (mask : BitVec 80) (s : State) :
    Host.Outcome State Fault Refusal :=
  let s := s.at_ t
  let m := mem.val
  .next (
    if !s.memHas m addr then s
    else
      let k := flipKey m addr
      let bits := if m = memShim then mask.toNat % 2 ^ 65 else mask.toNat
      { s with pool := { s.pool with flips := smapSet 0 s.pool.flips k (smapGet 0 s.pool.flips k ^^^ bits) } })

/-- ECC_WRITEBACK (R320): a corrected word written back. -/
def execEccWriteback (t : Nat) (mem : Fin 48) (addr : Nat) (s : State) : Host.Outcome State Fault Refusal :=
  let s := s.at_ t
  .next (if s.pool.wb.contains (flipKey mem.val addr) then s.memCorrected mem.val addr else s)

/-- What reading a stored word with flipped bits f at address a gives, whatever its data: the code is linear, so the
outcome depends on f and a alone. -/
def flipOutcome (m a f : Nat) : EccOut :=
  if m = memShim then (if parity f 65 then .uncorr else .clean) else (eccDecode (eccEncode 0 a ^^^ f) a).2

/-- Counts of a scrub: single, double, uncorrectable with address faults, address faults, first bad word. -/
structure ScrubSum where
  single : Nat := 0
  double : Nat := 0
  uncorr : Nat := 0
  addr : Nat := 0
  firstBad : Option Nat := none
  deriving DecidableEq, Repr

/-- One word counted by a scrub. -/
def ScrubSum.add (x : ScrubSum) (a : Nat) (o : EccOut) : ScrubSum :=
  let bad := match x.firstBad with | none => some a | some b => some b
  match o with
  | .clean => x
  | .single => { x with single := x.single + 1 }
  | .double => { x with double := x.double + 1 }
  | .addrFault => { x with uncorr := x.uncorr + 1, addr := x.addr + 1, firstBad := bad }
  | .uncorr => { x with uncorr := x.uncorr + 1, firstBad := bad }

/-- The words of a scrub's range, n of them read: each corrected word is written back, each outcome counted (R325). -/
def State.scrubRange (s : State) (m first n : Nat) : ScrubSum × State :=
  let hit := s.pool.flips.filter (fun p => p.1 / 2 ^ 24 == m && decide (first ≤ wordIndex m (p.1 % 2 ^ 24))
    && decide (wordIndex m (p.1 % 2 ^ 24) < first + n))
  hit.foldl (fun (x : ScrubSum × State) p =>
    let a := p.1 % 2 ^ 24
    let o := flipOutcome m a p.2
    let s := x.2.memCount m a o
    (x.1.add a o, if o = .single || o = .double then s.memCorrected m a else s)) ({}, s)

/-- The words a scrub reads: its count clamped to the memory's end. -/
def State.scrubCount (s : State) (x : Scrub) : Nat := min x.count (s.memSize x.mem - x.first)

/-- A scrub that has read n words ended: the summary words, in SCRUB_LAST too (R325). -/
def State.scrubEnd (s : State) (x : Scrub) (n : Nat) : List Nat × State :=
  let (r, s) := s.scrubRange x.mem x.first n
  let ws := [ n + r.single * 2 ^ 32, r.double + r.uncorr * 2 ^ 32,
    r.firstBad.getD 0 % 2 ^ 32 + x.mem * 2 ^ 32 + b2n r.firstBad.isSome * 2 ^ 63, r.addr ]
  let s := { s with pool := { s.pool with scrubs := s.pool.scrubs.filter (fun y => y != x) } }
  (ws, (List.range 4).foldl (fun s i => s.wr F.SCRUB_LAST_SUMMARY i (ws.getD i 0)) s)

/-! ### Bank repair -/

/-- Cells of a bank still in use, or waiting in the shim buffer (REPAIR_STATUS.LIVE). -/
def State.liveIn (s : State) (b : Nat) : Nat :=
  (s.pool.owner.filter (fun p => p.1 % 16 == b && p.2 != 4097)).length

/-- The spare rows mapped in a bank. -/
def State.sparesUsed (s : State) (b : Nat) : Nat := (smapGet [] s.pool.rows b).length

/-- REPAIR_STATUS.REPAIR_STATE set, with the spare rows of the bank shown. -/
def State.repairShow (s : State) (b st : Nat) : State :=
  ((s.wr F.REPAIR_STATUS_BANK 0 b).wr F.REPAIR_STATUS_REPAIR_STATE 0 st).wr F.REPAIR_STATUS_SPARES_USED 0 (s.sparesUsed b)

/-- A bank in or out of service. -/
def State.setBank (s : State) (b : Nat) (v : Bool) : State :=
  let x := s.banks
  let s := s.wr F.POOL_BANKS_IN_SERVICE 0 (if v then x ||| 2 ^ b else if x.testBit b then x - 2 ^ b else x)
  let a := s.pool.alloc
  { s with pool := { s.pool with alloc := a ||| 2 ^ b } }

/-- A bank taken out of allocation. -/
def State.stopAlloc (s : State) (b : Nat) : State :=
  let a := s.pool.alloc
  { s with pool := { s.pool with alloc := if a.testBit b then a - 2 ^ b else a } }

/-- A bank's memory filled with valid zero words. -/
def State.bankFill (s : State) (b : Nat) : State := s.memFilled b

/-- The migration of a ROW repair ended: the spare row is mapped, or none is left (R331). -/
def State.repairTest (s : State) : State :=
  match s.pool.repair with
  | none => s
  | some r =>
    if s.liveIn r.bank ≠ 0 || r.testing then s
    else
      let s := { s with pool := { s.pool with repair := some { r with testing := true } } }
      if r.action = 0 then
        let rows := smapGet [] s.pool.rows r.bank
        let s : State := if rows.length < 8 then
            { s with pool := { s.pool with rows := smapSet [] s.pool.rows r.bank (rows ++ [r.row]) } }.memFilled r.bank
          else { s with pool := { s.pool with repair := some { r with testing := true, action := 3 } } }
        s.repairShow r.bank 2
      else s

/-- A repair started, not while another runs (R330, R331): the answer is false where it is BUSY. RESTORE acts at
once. -/
def State.repairStart (s : State) (job bank action row : Nat) : Bool × State :=
  if s.pool.repair.isSome then (false, s)
  else if action = 2 then
    let s := if s.banks.testBit bank then s else (s.setBank bank true).bankFill bank
    (true, (s.repairShow bank 3).memStick F.MEM_STATUS_REPAIR_DONE 3 bank)
  else
    let s := s.stopAlloc bank
    let s := { s with pool := { s.pool with
      repair := some { job := job, bank := bank, action := action, row := row } } }
    (true, (s.repairShow bank 1).repairTest)

/-- The cell c of queue entries renamed to c'. -/
def State.relink (s : State) (c c' : Nat) : State :=
  let f (l : List Nat) : List Nat := l.map (fun x => if x = c then c' else x)
  { s with pool := { s.pool with
      queues := s.pool.queues.map (fun p =>
        (p.1, { p.2 with pkts := p.2.pkts.map (fun k => { k with cells := f k.cells }) }))
      prods := s.pool.prods.map (fun p => (p.1, { p.2 with cells := f p.2.cells })) } }

/-- The record whose cells hold cell c marked POISON (R332). -/
def State.poisonCell (s : State) (c : Nat) : State :=
  { s with pool := { s.pool with
      queues := s.pool.queues.map (fun p =>
        (p.1, { p.2 with pkts := p.2.pkts.map (fun k =>
          if k.cells.contains c then { k with rec_ := { k.rec_ with flags := k.rec_.flags ||| flPoison } } else k) }))
      prods := s.pool.prods.map (fun p =>
        (p.1, if p.2.cells.contains c then
          { p.2 with waiting := match p.2.waiting with
            | [] => []
            | r :: l => ({ r.1 with flags := r.1.flags ||| flPoison }, r.2) :: l } else p.2)) } }

/-- A cell read with correction into the first free slot of the shim buffer (R331). -/
def State.toShim (s : State) (c : Nat) : State :=
  let slot := ((List.range 4096).find? (fun k => smapGet 0 s.pool.shim k == 0)).getD 0
  let s := (List.range 8).foldl (fun s j =>
    let a := c * 8 + j
    let f := smapGet 0 s.pool.flips (flipKey (c % 16) a)
    if f = 0 then s
    else
      let o := flipOutcome (c % 16) a f
      let s := s.memCount (c % 16) a o
      if o = .single || o = .double then s.memCorrected (c % 16) a else s) s
  { s with pool := { s.pool with
      shim := smapSet 0 s.pool.shim slot (c + 1)
      flips := smapDrop s.pool.flips (fun k => k / 8 == (memShim * 2 ^ 24 + slot * 8) / 8) } }

/-- The oldest cell of the shim buffer, in slot, written to a free cell of another bank and relinked; a word that fails
its parity check there becomes zero, and an uncorrectable word stays so (R331 to R333). -/
def State.fromShim (s : State) (slot c : Nat) : State :=
  let q := smapGet 0 s.pool.owner c - 1
  if s.mayTake q 1 then
    let (c', s1) := s.takeCell prShim q
    let bad := (List.range 8).filter (fun j => parity (smapGet 0 s.pool.flips (flipKey memShim (slot * 8 + j))) 65)
    let s2 := bad.foldl (fun s j =>
      let s := (s.memCount memShim (slot * 8 + j) .uncorr).memStick F.MEM_STATUS_POISON 4 memShim
      { s with pool := { s.pool with zeroed := s.pool.zeroed ++ [c' * 8 + j] } }) s1
    let s3 := if bad = [] then s2 else s2.poisonCell c
    -- flips that the shim buffer's parity does not show are written as they are
    let seen (j : Nat) : Nat :=
      let f := smapGet 0 s.pool.flips (flipKey memShim (slot * 8 + j))
      if parity f 65 then 0 else eccEncode (f % 2 ^ 64) 0
    let moved := (List.range 8).foldl (fun m j =>
      smapSet 0 m (flipKey (c' % 16) (c' * 8 + j))
        (smapGet 0 s.pool.flips (flipKey (c % 16) (c * 8 + j)) ^^^ seen j)) s3.pool.flips
    let zeros := s3.pool.zeroed.filterMap (fun a => if a / 8 = c then some (c' * 8 + a % 8) else none)
    let s4 := { s3 with pool := { s3.pool with
      flips := moved, zeroed := s3.pool.zeroed ++ zeros, shim := smapSet 0 s3.pool.shim slot 0
      repair := s3.pool.repair.map (fun (r : Repair) => { r with moved := r.moved + 1 }) } }
    let s5 := s4.relink c c'
    { s5 with pool := { s5.pool.cellFresh c with owner := smapSet 0 s5.pool.owner c 0 } }
  else s

/-- CELL_MIGRATE (R331, R333): a live cell of the bank under repair goes into the shim buffer, and the first cell there
goes on to another bank when R307 allows it. -/
def State.cellMigrate (s : State) : State :=
  match s.pool.repair with
  | none => s
  | some r =>
    let inShim (c : Nat) : Bool := (s.shimSlot c).isSome
    let next := s.pool.owner.find? (fun p => p.1 % 16 == r.bank && p.2 != 4097 && !inShim p.1)
    let s : State := match next with
      | none => s
      | some p => if s.pool.shim.length < 4096 then s.toShim p.1 else s
    let s : State := match s.pool.shim with
      | [] => s
      | (slot, c) :: _ => s.fromShim slot (c - 1)
    s.repairTest

def execCellMigrate (t : Nat) (s : State) : Host.Outcome State Fault Refusal := .next (s.at_ t).cellMigrate

/-- A repair whose migration has ended completed: DONE, or FAILED where no spare row was left or the pattern check
failed (R331). The answer is the repair and whether it is DONE. -/
def State.repairDone (s : State) (ok : Bool) : Option (Repair × Bool) × State :=
  match s.pool.repair with
  | none => (none, s)
  | some r =>
    if !r.testing then (none, s)
    else
      let good := r.action = 1 || (r.action = 0 && ok)
      let s := { s with pool := { s.pool with repair := none } }
      let s := s.setBank r.bank (r.action = 0 && good)
      let s := (s.repairShow r.bank (if good then 3 else 4)).memStick F.MEM_STATUS_REPAIR_DONE 3 r.bank
      (some (r, good), s)

/-- A repair cancelled (R410): while MIGRATING its bank returns to allocation, while TESTING to service. -/
def State.repairAbort (s : State) : State :=
  match s.pool.repair with
  | none => s
  | some r =>
    let s := { s with pool := { s.pool with repair := none, alloc := s.pool.alloc ||| 2 ^ r.bank } }
    (if r.testing then s.setBank r.bank true else s).repairShow r.bank 0

end Sys2Proof.Machine
end

