-- ==== Sys2Proof/Machine/HostIf.lean ====
section
/-! DEFINITION. The host interface's shared parts (14_host_rings.md): rings, reads and writes of host memory with their
way over the fabric, descriptors in execution and the completion engine. -/

namespace Sys2Proof.Machine

open Sys2Proof

/-! ### Rings -/

/-- The kinds of ring (RING_SEL.KIND). -/
def rkSub : Nat := 0
def rkComp : Nat := 1
def rkRec : Nat := 2
/-- Data that a descriptor of a submission ring writes, among the frames to the gateway. -/
def rkJob : Nat := 3

/-- A ring's number among all rings, which is the copy of its registers too. -/
def ringIx (k i : Nat) : Nat := k * 1024 + i

def State.ring (s : State) (k i : Nat) : Ring := smapGet {} s.rings (ringIx k i)
def State.setRing (s : State) (k i : Nat) (x : Ring) : State := { s with rings := smapSet {} s.rings (ringIx k i) x }

/-- The entries of a ring. -/
def State.ringSize (s : State) (k i : Nat) : Nat := 2 ^ s.rd F.RING_CFG_SIZE (ringIx k i)

/-- Host address of entry n of a ring. -/
def State.entryAddr (s : State) (k i n bytes : Nat) : Nat := s.rd F.RING_BASE_ADDR (ringIx k i) * 4096 + n * bytes

/-- Whether the host interface acts: after the memory fill (R327), on VT8 on the die that holds the PEG line alone (R31). -/
def State.hostIfOn (s : State) : Bool := !s.poAsserted && s.pool.ready && s.pegOpen

/-- Whether a ring is enabled and not halted, and its host interface acts. -/
def State.ringOn (s : State) (k i : Nat) : Bool :=
  s.hostIfOn && s.on F.RING_CFG_EN (ringIx k i) && !s.on F.RING_ERR_HALTED (ringIx k i)

/-- Entries between a ring's head and tail. -/
def State.ringCount (s : State) (k i : Nat) : Nat :=
  ((s.ring k i).tail + s.ringSize k i - (s.ring k i).head % s.ringSize k i) % s.ringSize k i

/-- Whether a ring is full (R389). -/
def State.ringFull (s : State) (k i : Nat) : Bool :=
  ((s.ring k i).tail + 1) % s.ringSize k i == (s.ring k i).head % s.ringSize k i

/-- The completion ring that entries of a submission or record ring go to. -/
def State.boundTo (s : State) (k i : Nat) : Nat := s.rd F.RING_CFG_BIND (ringIx k i)

/-- Whether a completion ring has no room for an entry now; one that is disabled holds its entries too (R405, R419). -/
def State.compBlocked (s : State) (cq : Nat) : Bool := !s.ringOn rkComp cq || s.ringFull rkComp cq

/-- A ring halted, with RING_ERR and HR_STATUS.HALT (R418, R420). -/
def State.haltRing (s : State) (k i cause : Nat) : State :=
  let s := (s.wr F.RING_ERR_HALTED (ringIx k i) 1).wr F.RING_ERR_CAUSE (ringIx k i) cause
  s.hrStick F.HR_STATUS_HALT 0 (k + i * 2 ^ 16)

/-! ### Tags and reads of host memory -/

/-- Whether a fabric exchange tag is in use. -/
def State.tagUsed (s : State) (g : Nat) : Bool :=
  s.fabReads.any (fun r => r.tag == g) || s.fabWrites.any (fun w => w.frame.tag == g)
    || s.jobs.any (fun j => j.tag == g + 1)
    || s.bells.any (fun b => match b.2.flight with | none => false | some (_, t, _, _) => t == g)

/-- The first tag from g on that is not in use; n bounds the search. -/
def State.freeTagFrom (s : State) (g : Nat) : Nat → Nat
  | 0 => g % 16384
  | n + 1 => if s.tagUsed (g % 16384) then s.freeTagFrom (g + 1) n else g % 16384

/-- A free exchange tag taken (R415). -/
def State.newTag (s : State) : Nat × State :=
  let g := s.freeTagFrom s.tagNext 16384
  (g, { s with tagNext := (g + 1) % 16384 })

/-- PCIe requests that may be outstanding (R387). -/
def pcieMax : Nat := 768

/-- PCIe tags in use. -/
def State.pcieOut (s : State) : Nat := (s.pcieReads.filter (fun r => r.tag.isSome)).length

/-- The lowest PCIe tag not in use. -/
def State.pcieTag (s : State) : Nat :=
  ((List.range pcieMax).find? (fun g => !s.pcieReads.any (fun r => r.tag == some g))).getD 0

/-- The oldest read that waits for a PCIe tag issued while one is free, of at most the size that the host has set (R387,
R416); n bounds them. -/
def State.pcieIssue (s : State) : Nat → State
  | 0 => s
  | n + 1 =>
    if s.pcieOut < pcieMax then
      match s.pcieReads.find? (fun r => r.tag.isNone) with
      | none => s
      | some r =>
        let g := s.pcieTag
        let w := min (r.words - r.asked) (s.pcieWords 0 6)
        let upd := s.pcieReads.map (fun x => if x = r then { x with tag := some g, asked := r.asked + w } else x)
        ({ s with pcieReads := upd }.send (.pcieRead g ((r.addr + r.asked * 8) % 2 ^ 64) (w * 8))).pcieIssue n
    else s

/-- Whether frames to a host address range wait under R466. -/
def State.heldAddr (s : State) (addr bytes : Nat) : Bool :=
  s.holds.any (fun h => h.page.isNone && decide (addr < h.addr + h.bytes) && decide (h.addr < addr + bytes)
    && decide (s.now < h.until_))

/-- One part of a read sent to the gateway. -/
def State.sendHostRd (s : State) (r : FabRead) : State :=
  s.originate {
    dest := s.rd F.HR_GW_GW_NODE 0, vc := 1, ty := frHostRd, tag := r.tag
    words := [r.addr, r.words * 8] }

/-- A read of n words of host memory started, in parts of at most 256 bytes through a gateway (R415) and of the host's maximum
read request size on this node's PCIe (R387). -/
def State.hostRead (s : State) (use : ReadUse) (addr n : Nat) : State :=
  let m := if s.ownGateway then s.pcieWords 0 6 else 32
  let parts := ceilDiv n m
  let g := s.nextGroup
  let s := { s with
    nextGroup := g + 1
    groups := s.groups ++ [{ id := g, use := use, parts := List.replicate parts none }] }
  (List.range parts).foldl (fun s k =>
    let a := (addr + k * m * 8) % 2 ^ 64
    let w := min m (n - k * m)
    if s.ownGateway then
      let r : PcieRead := { own := some (g, k), addr := a, words := w }
      { s with pcieReads := s.pcieReads ++ [r] }.pcieIssue 1
    else
      let (tag, s) := s.newTag
      let r : FabRead := { grp := g, part := k, addr := a, words := w, tag := tag, since := s.now }
      { s with fabReads := s.fabReads ++ [r] }.sendHostRd r) s

/-- A part of a read has arrived: the group's use and words once it is whole. -/
def State.readPart (s : State) (g k : Nat) (ws : List Nat) : Option (ReadUse × List Nat) × State :=
  match s.groups.find? (fun x => x.id == g) with
  | none => (none, s)
  | some x =>
    let x' := { x with parts := x.parts.set k (some ws) }
    if x'.parts.all Option.isSome then
      (some (x.use, x'.parts.flatMap (fun p => p.getD [])), { s with groups := s.groups.filter (fun y => y.id != g) })
    else (none, { s with groups := s.groups.map (fun y => if y.id = g then x' else y) })

/-- A part of a read has failed: the whole read fails, and answers to its other parts are discarded. -/
def State.readFailed (s : State) (g : Nat) : Option ReadUse × State :=
  match s.groups.find? (fun x => x.id == g) with
  | none => (none, s)
  | some x =>
    (some x.use, { s with
      groups := s.groups.filter (fun y => y.id != g)
      fabReads := s.fabReads.filter (fun y => y.grp != g)
      pcieReads := s.pcieReads.filter (fun y => !(y.tag.isNone && (y.own.map (·.1)) == some g)) })

/-- Every read of a descriptor forgotten. -/
def State.dropReads (s : State) (p : ReadUse → Bool) : State :=
  let gone := (s.groups.filter (fun x => p x.use)).map (·.id)
  { s with
    groups := s.groups.filter (fun x => !p x.use)
    fabReads := s.fabReads.filter (fun y => !gone.contains y.grp) }

/-! ### Writes to host memory -/

/-- An MSI-X vector of the gateway's table written (R414, R422). -/
def State.signal (s : State) (v : Nat) : State :=
  if s.ownGateway then s.writeVector v
  else s.originate { dest := s.rd F.HR_GW_GW_NODE 0, vc := 2, ty := frMsix, words := [v] }

/-- An entry written, here or in its frame to the gateway: its completion ring is signalled when that is due (R406). -/
def State.entrySignal (s : State) (e : CEntry) : State :=
  let x := s.ring rkComp e.cq
  let i := ringIx rkComp e.cq
  if !s.on F.RING_COAL_IRQ_EN i then s
  else if e.irq || s.rd F.RING_COAL_COUNT i ≤ x.unsig + 1 then
    (s.setRing rkComp e.cq { x with unsig := 0, firstAt := none }).signal (s.rd F.RING_CFG_VECTOR i)
  else s.setRing rkComp e.cq { x with
    unsig := x.unsig + 1, firstAt := match x.firstAt with | none => some s.now | some a => some a }

/-- The bytes of host memory that a write to the gateway covers: its first word is the address. -/
def FabWrite.bytes (w : FabWrite) : Nat := (w.frame.words.length - 1) * 8

/-- Whether a write to the gateway waits under R466: for its addresses, or an entry for its buffer. -/
def State.writeHeld (s : State) (w : FabWrite) : Bool :=
  s.heldAddr w.addr w.bytes
    || (w.entry.any (fun e => e.buffer) && s.holds.any (fun h => h.buffer == some (w.ring, w.slot) && decide (s.now < h.until_)))

/-- A write to the gateway leaves; where it is an entry that leaves for the first time, its signal goes with it (R406, R417). -/
def State.writeLeaves (s : State) (w : FabWrite) (first : Bool) : State :=
  let s := s.originate w.frame
  match w.entry with
  | some e => if first then s.entrySignal e else s
  | none => s

/-- A frame to the gateway that waits for HOST_ACK put on its way, unless it is held back (R417, R466). -/
def State.fabWrite (s : State) (w : FabWrite) (first : Bool) : State :=
  if s.writeHeld w then { s with fabWrites := s.fabWrites ++ [{ w with sent := false }] }
  else { s with fabWrites := s.fabWrites ++ [w] }.writeLeaves w first

/-- Data of at most 2,040 bytes for the gateway. -/
def State.hostWrFrames (s : State) (kind ring slot addr : Nat) (ws : List Nat) : Nat → State
  | 0 => s
  | n + 1 =>
    match ws with
    | [] => s
    | _ =>
      let (tag, s) := s.newTag
      let f : Frame := { dest := s.rd F.HR_GW_GW_NODE 0, vc := 3, ty := frHostWr, tag := tag, words := addr :: ws.take 255 }
      (s.fabWrite { frame := f, addr := addr, kind := kind, ring := ring, slot := slot, since := s.now } true).hostWrFrames
        kind ring slot ((addr + 2040) % 2 ^ 64) (ws.drop 255) n

/-- Words written to host memory for a ring's slot: on this node's PCIe, or through the gateway (R417). -/
def State.hostPut (s : State) (kind ring slot addr : Nat) (ws : List Nat) : State :=
  if ws = [] then s
  else if s.ownGateway then s.send (.hostWrite addr ws (kind == rkRec))
  else s.hostWrFrames kind ring slot addr ws ws.length

/-! ### Descriptors in execution -/

/-- Completion status codes (R407). -/
def stDone : Nat := 0x00
def stAborted : Nat := 0x01
def stAlreadyDone : Nat := 0x02
def stBadOpcode : Nat := 0x03
def stBusy : Nat := 0x04
def stFailed : Nat := 0x05
def stLate : Nat := 0x06
def stIgnored : Nat := 0x07
def stUncorrectable : Nat := 0x08
def stOutputFull : Nat := 0x09
def stBadCheck : Nat := 0x0A
def stIllegalCode : Nat := 0x0B
def stDistance : Nat := 0x0C
def stOverrun : Nat := 0x0D
def stBadBundle : Nat := 0x0E
def stDenied : Nat := 0x0F
def stNoReply : Nat := 0x10
def stHostError : Nat := 0x11

/-- Word k of a descriptor. -/
def Job.w (j : Job) (k : Nat) : Nat := j.words.getD k 0
/-- OPCODE, FENCE, IRQ and CID (R394). -/
def Job.op (j : Job) : Nat := bitsAt (j.w 0) 0 8
def Job.fence (j : Job) : Bool := bitAt (j.w 0) 8
def Job.irq (j : Job) : Bool := bitAt (j.w 0) 9
def Job.cid (j : Job) : Nat := bitsAt (j.w 0) 16 16

/-- The descriptor in execution with an id. -/
def State.job (s : State) (id : Nat) : Option Job := s.jobs.find? (fun j => j.id == id)

/-- A descriptor in execution changed. -/
def State.setJob (s : State) (j : Job) : State := { s with jobs := s.jobs.map (fun x => if x.id = j.id then j else x) }

/-- The descriptor of ring sq that may start next: the oldest not started, one with FENCE once every earlier one has
committed (R393). -/
def State.nextDesc (s : State) (sq : Nat) : Option Job :=
  match s.jobs.find? (fun j => j.sq == sq && !j.started) with
  | none => none
  | some j =>
    if j.fence && ((s.jobs.find? (fun x => x.sq == sq)).map (·.id) != some j.id) then none else some j

/-- A descriptor's commit point: its entry enters the completion engine (R405). -/
def State.commit (s : State) (j : Job) (status result : Nat) : State :=
  { s with
    jobs := s.jobs.filter (fun x => x.id != j.id)
    engine := s.engine ++ [{
      cq := j.cq, cid := j.cid, sq := j.sq, status := status
      sqHead := j.next, irq := j.irq, result := result % 2 ^ 64, slot := j.slot }] }

/-- A host address of a descriptor, rounded down to a multiple of 8 (R397). -/
def addr8 (a : Nat) : Nat := a / 8 * 8

/-- A scrub x of descriptor j cut short: how far it has come is open; its summary is written to SUMMARY and SCRUB_LAST, and the
words read are its progress (R396, R410). -/
def State.scrubCut (s : State) (j : Job) (x : Scrub) : Nat × State :=
  let n := Config.freeBits 32 s.free % (s.scrubCount x + 1)
  let (ws, s) := { s with free := s.free + 1 }.scrubEnd x n
  (n, if addr8 (j.w 4) = 0 then s else s.hostPut rkJob j.sq j.slot (addr8 (j.w 4)) ws)

/-- The next descriptor of ring sq started when its opcode is op: what it then does. -/
def State.startDesc (s : State) (sq op : Nat) (f : Job → State → State) : State :=
  match s.nextDesc sq with
  | none => s
  | some j =>
    if j.op = op then
      let j := { j with started := true, since := s.now }
      f j (s.setJob j)
    else s

/-- As startDesc, for a descriptor whose effect is an action that waits for the standby (R485). -/
def State.startAction (s : State) (sq op : Nat) (f : Job → State → State) : State :=
  s.startDesc sq op (fun j s => if s.journaling then s.journal (.run j.id) else f j s)

/-! ### The completion engine -/

/-- The two words of a completion entry (R403). -/
def CEntry.words (e : CEntry) (phase : Bool) : List Nat :=
  if e.buffer then [e.slot + e.rr * 2 ^ 16 + e.recs % 2 ^ 16 * 2 ^ 32 + 2 ^ 62 + b2n phase * 2 ^ 63, e.bytes]
  else [e.cid + e.sq * 2 ^ 16 + e.status * 2 ^ 24 + e.sqHead * 2 ^ 32 + b2n phase * 2 ^ 63, e.result]

/-- The packets of a buffer delivered (R413). -/
def State.deliverTakes (s : State) (l : List (Nat × Nat)) : State := l.foldl (fun s x => s.deliver x.1 x.2) s

/-- An entry of a completion ring written or, by a remote node, acknowledged: the ring's tail and PHASE move on, and a buffer's
packets are delivered (R404, R413, R417). -/
def State.entryWritten (s : State) (e : CEntry) : State :=
  let x := s.ring rkComp e.cq
  let n := (x.tail + 1) % s.ringSize rkComp e.cq
  (s.deliverTakes e.takes).setRing rkComp e.cq { x with
    tail := n, phase := if n = 0 then !x.phase else x.phase, busy := false }

/-- Whether entry e of the engine can be written now: it is the oldest of its ring, the ring has room and waits for no
acknowledgement, and every byte of the data that it reports has been taken (R388, R405, R417). -/
def State.entryReady (s : State) (e : CEntry) : Bool :=
  s.engine.find? (fun x => x.cq == e.cq) == some e && !s.compBlocked e.cq && !(s.ring rkComp e.cq).busy
    && !s.fabWrites.any (fun w => w.entry.isNone && w.slot == e.slot
      && (if e.buffer then w.kind == rkRec && w.ring == e.rr else w.kind == rkJob && w.ring == e.sq))

/-- The oldest entry that can be written is written where it is one of completion ring cq (R404, R405, R417). -/
def State.entryWrite (s : State) (cq : Nat) : State :=
  match s.engine.find? s.entryReady with
  | none => s
  | some e =>
    if e.cq ≠ cq then s
    else
      let x := s.ring rkComp cq
      let a := s.entryAddr rkComp cq x.tail 16
      let ws := e.words x.phase
      let s := { s with engine := s.engine.erase e }
      if s.ownGateway then ((s.send (.hostWrite a ws false)).entryWritten e).entrySignal e
      else
        let (tag, s) := s.newTag
        let f : Frame := { dest := s.rd F.HR_GW_GW_NODE 0, vc := 2, ty := frEntryWr, tag := tag, words := a :: ws }
        (s.setRing rkComp cq { x with busy := true }).fabWrite
          { frame := f, addr := a, kind := rkComp, ring := if e.buffer then e.rr else cq
            slot := e.slot, entry := some e, since := s.now } true

/-- COMPLETION_ENTRY_WRITE (R403 to R406). -/
def execCompletionEntryWrite (t : Nat) (ring : Fin 256) (s : State) : Host.Outcome State Fault Refusal :=
  .next ((s.at_ t).entryWrite ring.val)

/-- COMPLETION_IRQ_TIMER (R406): TIME µs after the first entry not yet signalled. -/
def execCompletionIrqTimer (t : Nat) (ring : Fin 256) (s : State) : Host.Outcome State Fault Refusal :=
  let s := s.at_ t
  let x := s.ring rkComp ring.val
  let i := ringIx rkComp ring.val
  .next (match x.firstAt with
  | none => s
  | some a =>
    if s.on F.RING_COAL_IRQ_EN i && decide (a + s.rd F.RING_COAL_TIME i * usF ≤ s.now) then
      (s.setRing rkComp ring.val { x with unsig := 0, firstAt := none }).signal (s.rd F.RING_CFG_VECTOR i)
    else s)

end Sys2Proof.Machine
end

