-- ==== Sys2Proof/Machine/SeifCode.lean ====
section
/-! DEFINITION. The Seif block format (R338 to R346): CRC-32C, prediction, tokens, match selection, and the decoder with
the checks of R357. -/

namespace Sys2Proof.Machine

open Sys2Proof

/-- The eight bytes of a word, little-endian (R4). -/
def wordBytes (w : Nat) : List Nat := (List.range 8).map (fun j => w / 2 ^ (8 * j) % 256)

/-- The bytes of a list of words. -/
def bytesOf (ws : List Nat) : List Nat := ws.flatMap wordBytes

/-- The words of a list of bytes, the last one padded with zero bytes; n bounds them. -/
def wordsOfN (b : List Nat) : Nat → List Nat
  | 0 => []
  | n + 1 =>
    match b with
    | [] => []
    | _ => ((List.range 8).map (fun j => b.getD j 0 * 2 ^ (8 * j))).sum :: wordsOfN (b.drop 8) n
def wordsOf (b : List Nat) : List Nat := wordsOfN b b.length

/-- The CRC-32C register after eight steps on its low bits (R339). -/
def crcStep (c : Nat) : Nat → Nat
  | 0 => c
  | n + 1 => crcStep (if c % 2 = 1 then c / 2 ^^^ 0x82F63B78 else c / 2) n

/-- CRC-32C of bytes (R339). -/
def crc32c (b : List Nat) : Nat := (b.foldl (fun c x => crcStep (c ^^^ x) 8) 0xFFFFFFFF) ^^^ 0xFFFFFFFF

/-! ### Prediction (R341) -/

/-- The four sample fields of a quad word. -/
def samplesOf (w : Nat) : List Nat := (List.range 4).map (fun j => bitsAt w (14 * j) 14)

/-- A quad word with its sample fields replaced; bits [63:56] pass. -/
def withSamples (w : Nat) (l : List Nat) : Nat :=
  ((List.range 4).map (fun j => l.getD j 0 % 2 ^ 14 * 2 ^ (14 * j))).sum + w / 2 ^ 56 * 2 ^ 56

/-- The prediction of a sample from the two before it. -/
def predOf (pred x1 x2 : Nat) : Nat :=
  if pred = 1 then x1 else if pred = 2 then (2 * x1 + 2 ^ 14 - x2) % 2 ^ 14 else 0

/-- Residuals of samples. -/
def residuals (pred : Nat) : Nat → Nat → List Nat → List Nat × Nat × Nat
  | x1, x2, [] => ([], x1, x2)
  | x1, x2, x :: l =>
    let (r, y1, y2) := residuals pred x x1 l
    ((x + 2 ^ 14 - predOf pred x1 x2) % 2 ^ 14 :: r, y1, y2)

/-- Samples restored from residuals. -/
def restored (pred : Nat) : Nat → Nat → List Nat → List Nat × Nat × Nat
  | x1, x2, [] => ([], x1, x2)
  | x1, x2, r :: l =>
    let x := (r + predOf pred x1 x2) % 2 ^ 14
    let (o, y1, y2) := restored pred x x1 l
    (x :: o, y1, y2)

/-- A step over the words of a block with the two samples before them. -/
def overWords (f : Nat → Nat → List Nat → List Nat × Nat × Nat) : Nat → Nat → List Nat → List Nat
  | _, _, [] => []
  | x1, x2, w :: l =>
    let (o, y1, y2) := f x1 x2 (samplesOf w)
    withSamples w o :: overWords f y1 y2 l

/-- The words of a block with residuals for samples. -/
def predictWords (pred : Nat) (ws : List Nat) : List Nat :=
  if pred = 0 then ws else overWords (residuals pred) 0 0 ws

/-- The words of a block with its samples restored. -/
def restoreWords (pred : Nat) (ws : List Nat) : List Nat :=
  if pred = 0 then ws else overWords (restored pred) 0 0 ws

/-! ### Coding (R342 to R345) -/

/-- The low n bits of v, most significant first. -/
def bitsMsb (v : Nat) : Nat → List Bool
  | 0 => []
  | n + 1 => v.testBit n :: bitsMsb v n

/-- Token bits. -/
def byteToken (x : Nat) : List Bool := if x = 0 then [false] else [true, false] ++ bitsMsb x 8
def distBits (d : Nat) : List Bool := let k := Nat.log2 d; bitsMsb k 4 ++ bitsMsb (d - 2 ^ k) k
def matchToken (len d : Nat) : List Bool :=
  (if len ≤ 10 then [true, true, false] ++ bitsMsb (len - 3) 3
    else [true, true, true, false] ++ bitsMsb (len - 11) 8) ++ distBits d
def endToken : List Bool := [true, true, true, true, false]

/-- The length, from len on, over which bytes i + len and c + len agree; n bounds it. -/
def matchLen (b : Array Nat) (i c len : Nat) : Nat → Nat
  | 0 => len
  | n + 1 => if b.getD (i + len) 256 = b.getD (c + len) 257 then matchLen b i c (len + 1) n else len

/-- The position in a match table at h: one more than the position held, 0 while empty. -/
abbrev MatchTab := List (Nat × Nat)
def tabGet (m : MatchTab) (h : Nat) : Nat := match m.find? (fun p => p.1 == h) with | none => 0 | some p => p.2
def tabSet (m : MatchTab) (h p : Nat) : MatchTab := (h, p) :: m.filter (fun x => x.1 != h)

/-- The tokens of a block from position i on (R344), their bits in reverse order before those of acc; n bounds the
tokens. -/
def codeFrom (b : Array Nat) (i : Nat) (m : MatchTab) (acc : List Bool) : Nat → List Bool
  | 0 => acc
  | n + 1 =>
    if b.size ≤ i then acc
    else
      let x := b.getD i 0
      if b.size < i + 3 then codeFrom b (i + 1) m ((byteToken x).reverse ++ acc) n
      else
        let h := ((x * 16) ^^^ (b.getD (i + 1) 0 * 4) ^^^ b.getD (i + 2) 0) % 4096
        let c := tabGet m h
        let m := tabSet m h (i + 1)
        let len := if c = 0 then 0 else matchLen b i (c - 1) 0 (min 266 (b.size - i))
        if len < 3 then codeFrom b (i + 1) m ((byteToken x).reverse ++ acc) n
        else codeFrom b (i + len) m ((matchToken len (i - (c - 1))).reverse ++ acc) n

/-- Bits packed into bytes, bit 7 of a byte first (R340); n bounds the bytes. -/
def packBits (l : List Bool) : Nat → List Nat
  | 0 => []
  | n + 1 =>
    match l with
    | [] => []
    | _ => ((List.range 8).map (fun j => b2n (l.getD j false) * 2 ^ (7 - j))).sum :: packBits (l.drop 8) n

/-- Zero bytes up to a multiple of 8. -/
def pad8 (b : List Nat) : List Nat := b ++ List.replicate ((8 - b.length % 8) % 8) 0

/-- The largest input of a block (SIZE). -/
def seifMax (size : Nat) : Nat := if size = 1 then 16384 else if size = 2 then 65536 else 4096

/-- The header word of a block (R338). -/
def seifHeader (size pred stored inLen payLen : Nat) : Nat :=
  0xA7 + size * 2 ^ 8 + pred * 2 ^ 10 + stored * 2 ^ 12 + inLen * 2 ^ 16 + payLen * 2 ^ 33

/-- The Seif block of input words (R338 to R345), as words. -/
def seifBlock (size pred : Nat) (ws : List Nat) : List Nat :=
  let input := bytesOf ws
  let n := input.length
  let bits := (endToken.reverse ++ codeFrom (bytesOf (predictWords pred ws)).toArray 0 [] [] n).reverse
  let pay := packBits bits (bits.length / 8 + 1)
  let coded := decide (pay.length ≤ n)
  let h := if coded then seifHeader size pred 0 n pay.length else seifHeader size 0 1 n n
  let body := if coded then wordsOf (pad8 pay) else ws
  [h] ++ body ++ [crc32c (wordBytes h ++ input)]

/-! ### Decoding (R346, R357) -/

/-- The faults of R357, as completion codes. -/
def sfIllegal : Nat := 0x0B
def sfDistance : Nat := 0x0C
def sfOverrun : Nat := 0x0D
def sfBadCheck : Nat := 0x0A
def sfOutputFull : Nat := 0x09

/-- What the decoder makes of a block: its restored words and the words it took, or a fault with the payload bit offset
of its token. -/
inductive SeifRes where
  | ok (out : List Nat) (used : Nat)
  | bad (status off : Nat)
  deriving DecidableEq, Repr

/-- n bits from bit k, most significant first. -/
def takeBits (b : Array Bool) (k : Nat) : Nat → Nat
  | 0 => 0
  | n + 1 => b2n (b.getD k false) * 2 ^ n + takeBits b (k + 1) n

/-- A token read at bit k: its kind (0 byte, 1 match, 2 end, 3 illegal), bits used, the byte or length, the distance. -/
def readToken (b : Array Bool) (k : Nat) : Nat × Nat × Nat × Nat :=
  let dist (p : Nat) : Nat × Nat := let c := takeBits b p 4; (4 + c, 2 ^ c + takeBits b (p + 4) c)
  if takeBits b k 1 = 0 then (0, 1, 0, 0)
  else if takeBits b k 2 = 2 then (0, 10, takeBits b (k + 2) 8, 0)
  else if takeBits b k 3 = 6 then let (u, d) := dist (k + 6); (1, 6 + u, 3 + takeBits b (k + 3) 3, d)
  else if takeBits b k 4 = 14 then let (u, d) := dist (k + 12); (1, 12 + u, 11 + takeBits b (k + 4) 8, d)
  else if takeBits b k 5 = 30 then (2, 5, 0, 0)
  else (3, 5, 0, 0)

/-- L bytes copied one at a time from D positions back (R343). -/
def copyBack (o : Array Nat) (d : Nat) : Nat → Array Nat
  | 0 => o
  | n + 1 => copyBack (o.push (o.getD (o.size - d) 0)) d n

/-- A token with its bit offset: its byte, or its match length and distance. -/
structure Token where
  off : Nat
  copy : Bool
  val : Nat
  dist : Nat
  deriving DecidableEq, Repr

/-- The bytes a token gives. -/
def Token.len (x : Token) : Nat := if x.copy then x.val else 1

/-- The tokens of a payload from bit k on, with the offsets of the end-of-block token and of the bit after it, or the offset of
an illegal prefix or of a token that runs past the payload. n bounds the tokens. -/
def tokensFrom (b : Array Bool) (k : Nat) : Nat → Except Nat (List Token × Nat × Nat)
  | 0 => .error k
  | n + 1 =>
    let (kind, used, v, d) := readToken b k
    if kind = 3 || b.size < k + used then .error k
    else if kind = 2 then .ok ([], k, k + used)
    else
      match tokensFrom b (k + used) n with
      | .error e => .error e
      | .ok (l, e) => .ok ({ off := k, copy := kind == 1, val := v, dist := d } :: l, e)

/-- The first token whose distance exceeds the n bytes restored before it. -/
def tooFar (n : Nat) : List Token → Option Nat
  | [] => none
  | x :: l => if x.copy && n < x.dist then some x.off else tooFar (n + x.len) l

/-- The first token that would take the output of n bytes so far beyond inLen, or the end of a block that comes before it. -/
def tooLong (inLen n stop : Nat) : List Token → Option Nat
  | [] => if n < inLen then some stop else none
  | x :: l => if inLen < n + x.len then some x.off else tooLong inLen (n + x.len) stop l

/-- The bytes that tokens restore. -/
def restoreBytes (o : Array Nat) : List Token → Array Nat
  | [] => o
  | x :: l => restoreBytes (if x.copy then copyBack o x.dist x.val else o.push x.val) l

/-- Whether the header of a block breaks R338 or R340. -/
def headerBad (h : Nat) : Bool :=
  let size := bitsAt h 8 2
  let inLen := bitsAt h 16 17
  let pay := bitsAt h 33 17
  let stored := bitAt h 12
  bitsAt h 0 8 != 0xA7 || size == 3 || bitsAt h 10 2 == 3 || bitsAt h 13 3 != 0 || bitsAt h 50 14 != 0
    || inLen % 8 != 0 || inLen == 0 || decide (seifMax size < inLen)
    || (if stored then pay != inLen || bitsAt h 10 2 != 0 else decide (inLen < pay))

/-- Words of a block behind its header, from the header. -/
def blockRest (h : Nat) : Nat := ceilDiv (bitsAt h 33 17) 8 + 1

/-- A block decoded from words, with cap bytes of room left; the checks are made in the order of R357's table. A source that
ends inside the block is taken as a payload that its tokens run past. -/
def seifDecode (ws : List Nat) (cap : Nat) : SeifRes :=
  match ws with
  | [] => .bad sfIllegal 0
  | h :: l =>
    if headerBad h || l.length < blockRest h then .bad sfIllegal 0
    else
      let inLen := bitsAt h 16 17
      let pay := bitsAt h 33 17
      let body := l.take (ceilDiv pay 8)
      let trailer := l.getD (ceilDiv pay 8) 0
      let all := bytesOf body
      let fin (out : List Nat) : SeifRes :=
        if trailer ≠ crc32c (wordBytes h ++ bytesOf out) then .bad sfBadCheck 0
        else if cap < inLen then .bad sfOutputFull 0
        else .ok out (1 + blockRest h)
      if trailer / 2 ^ 32 ≠ 0 then .bad sfIllegal 0
      else if bitAt h 12 then fin body
      else
        let bits := ((all.take pay).flatMap (fun x => bitsMsb x 8)).toArray
        match tokensFrom bits 0 (bits.size + 1) with
        | .error off => .bad sfIllegal off
        | .ok (l, k, e) =>
          if (List.range (bits.size - e)).any (fun j => bits.getD (e + j) false) || (all.drop pay).any (fun x => x != 0) then
            .bad sfIllegal k
          else
            match tooFar 0 l with
            | some off => .bad sfDistance off
            | none =>
              match tooLong inLen 0 k l with
              | some off => .bad sfOverrun off
              | none => fin (restoreWords (bitsAt h 10 2) (wordsOf (restoreBytes #[] l).toList))

end Sys2Proof.Machine
end

