-- ==== Sys2Proof/Machine/Seif.lean ====
section
/-! DEFINITION. The Seif engines (12_seif_compression.md): queue mode, compression and decompression jobs. -/

namespace Sys2Proof.Machine

open Sys2Proof

def State.seifEng (s : State) (e : Nat) : SeifEng := smapGet {} s.seif e
def State.setSeif (s : State) (e : Nat) (x : SeifEng) : State := { s with seif := smapSet {} s.seif e x }

/-- A sticky bit of SEIF_STATUS set by engine e; event source 44 (R360). -/
def State.seifStick (s : State) (f : Fld) (bit e : Nat) : State :=
  s.stick f 0 (bitAt (s.rd F.SEIF_EVENT_EN_EV_MASK 0) bit) 44 e

/-- Bytes counted by a compression engine. -/
def State.seifCount (s : State) (e inB outB : Nat) : State :=
  (s.wr F.SEIF_CNT_IN_BYTES e (s.rd F.SEIF_CNT_IN_BYTES e + inB)).wr F.SEIF_CNT_OUT_BYTES e
    (s.rd F.SEIF_CNT_OUT_BYTES e + outB)

/-- The job an engine serves. -/
def State.seifJob (s : State) (e : Nat) : Option Job := ((s.seifEng e).jobs.head?).bind s.job

/-- Stage of a Seif job whose data lie in the engine. -/
def sjReady : Nat := 4

/-- Whether the job at the head of an engine's list has its data. -/
def State.seifReady (s : State) (e : Nat) : Bool :=
  match s.seifJob e with
  | none => false
  | some j => j.stage == sjReady

/-- A job leaves its engine. -/
def State.seifDrop (s : State) (id : Nat) : State :=
  (List.range 3).foldl (fun s e =>
    let x := s.seifEng e
    s.setSeif e { x with jobs := x.jobs.filter (fun k => k != id) }) s

/-! ### Queue mode (R348 to R351) -/

/-- The predictor for a record's blocks (R349). -/
def State.seifPred (s : State) (e : Nat) (r : Rec) : Nat := if r.ty = tyFast then s.rd F.SEIF_CTRL_PRED e else 0

/-- SEIF_RECORD_TAKE (R348, R353): a compression engine takes a record from one of its queues. -/
def State.seifTake (s : State) (e : Nat) : State :=
  let x := s.seifEng e
  if !s.on F.SEIF_CTRL_EN e || x.work.isSome || (!x.lastJob && s.seifReady e) then s
  else
    match s.readerPick 3 e with
    | none => s
    | some q =>
      let (r, s) := s.takePkt q
      let s := s.readerTook 3 e q
      match r with
      | none => s
      | some (r, ws) =>
        s.setSeif e { x with
          lastJob := false
          work := some { queue := q, rec_ := { r with flags := bitsAt (ws.headD 0) 8 8, body := ws.drop 4 } } }

def execSeifRecordTake (t : Nat) (engine : Fin 2) (s : State) : Host.Outcome State Fault Refusal :=
  .next ((s.at_ t).seifTake engine.val)

/-- The producer of an engine's records. -/
def seifProd (e : Nat) : Nat := prSeif0 + e

/-- The engine's output record, once it is closed, reports its input packet delivered (R348). -/
def State.seifSettle (s : State) (e : Nat) : State :=
  let x := s.seifEng e
  match x.work with
  | none => s
  | some w => if w.output && (s.prod (seifProd e)).waiting == [] then (s.setSeif e { x with work := none }).deliver w.queue 1
    else s

/-- A block of the record in engine e coded, and after the last block the output record written (R349, R350). -/
def State.seifRecordBlock (s : State) (e : Nat) (w : SeifWork) : State :=
  let x := s.seifEng e
  let size := s.rd F.SEIF_CTRL_SIZE e
  let part := (w.rec_.body.drop w.done).take (seifMax size / 8)
  let w := if part = [] then w else
    { w with done := w.done + part.length, blocks := w.blocks ++ seifBlock size (s.seifPred e w.rec_) part }
  if w.done < w.rec_.body.length then s.setSeif e { x with work := some w }
  else
    let packed := decide (w.blocks.length < w.rec_.body.length)
    let r := if packed then { w.rec_ with ty := w.rec_.ty % 128 + 128, body := w.blocks } else w.rec_
    let s := s.seifCount e (w.rec_.len * 8) (r.len * 8)
    let s := if packed then s.countUp F.SEIF_CNT_PACKED e 1 (2 ^ 32 - 1) else s.countUp F.SEIF_CNT_PASSED e 1 (2 ^ 31 - 1)
    ((s.setSeif e { x with work := some { w with output := true } }).putRec (seifProd e)
      (s.rd F.SEIF_CTRL_OUT_QUEUE e) r).seifSettle e

/-! ### Compression jobs (R352 to R354) -/

/-- SIZE and PRED of a SEIF_COMPRESS descriptor (R395). -/
def Job.seifSize (j : Job) : Nat := if bitsAt (j.w 1) 4 2 = 3 then 0 else bitsAt (j.w 1) 4 2
def Job.seifPred (j : Job) : Nat := if bitsAt (j.w 1) 8 2 = 3 then 0 else bitsAt (j.w 1) 8 2
/-- The source length of a SEIF_COMPRESS descriptor (R352). -/
def Job.srcLen (j : Job) : Nat := clampN 8 4294967288 (bitsAt (j.w 3) 0 32 / 8 * 8)

/-- The next block's input read from host memory. -/
def State.seifFetch (s : State) (j : Job) : State :=
  let n := min (seifMax j.seifSize) (j.srcLen - j.prog)
  (s.setJob { j with stage := 1 }).hostRead (.job j.id) ((addr8 (j.w 2) + j.prog) % 2 ^ 64) (n / 8)

/-- SEIF_COMPRESS: a compression job joins its engine's list. -/
def execSeifCompress (t : Nat) (sq : Fin 256) (s : State) : Host.Outcome State Fault Refusal :=
  .next ((s.at_ t).startDesc sq.val 0x30 (fun j s =>
    let e := bitsAt (j.w 1) 0 1
    let x := s.seifEng e
    (s.setSeif e { x with jobs := x.jobs ++ [j.id] }).seifFetch j))

/-- A block of the job at engine e coded and written (R352, R354). -/
def State.seifJobBlock (s : State) (e : Nat) (j : Job) : State :=
  let x := s.seifEng e
  let s := s.setSeif e { x with lastJob := true }
  let blk := seifBlock j.seifSize j.seifPred j.acc
  let n := j.acc.length * 8
  if bitsAt (j.w 5) 0 32 < j.pos + blk.length * 8 then
    ((s.seifDrop j.id).commit j stOutputFull 0).seifStick F.SEIF_STATUS_OUTPUT_FULL 0 e
  else
    let s := s.hostPut rkJob j.sq j.slot ((addr8 (j.w 4) + j.pos) % 2 ^ 64) blk
    let s := s.seifCount e n (blk.length * 8)
    let j := { j with prog := j.prog + n, pos := j.pos + blk.length * 8, acc := [] }
    if j.prog < j.srcLen then s.seifFetch j else (s.seifDrop j.id).commit j stDone j.pos

/-! ### Decompression jobs (R355 to R359) -/

/-- Fields of a SEIF_DECOMPRESS descriptor (R397, R401). -/
def Job.classB (j : Job) : Bool := bitAt (j.w 1) 0
def Job.toQueue (j : Job) : Bool := j.classB && bitAt (j.w 1) 1
def Job.srcWords (j : Job) : Nat := bitsAt (j.w 3) 0 32 / 8

/-- The next header of a decompression job's source read; aux counts the blocks done, prog the source words taken. -/
def State.unseifRead (s : State) (j : Job) : State :=
  (s.setJob { j with stage := 1, acc := [] }).hostRead (.job j.id) ((addr8 (j.w 2) + j.prog * 8) % 2 ^ 64)
    (min (if j.toQueue then 4 else 1) (j.srcWords - j.prog))

/-- The jobs at the head of the decompression engine's list begin, n of them at most; one whose source holds no word is done at
once (R355). -/
def State.unseifBegin (s : State) : Nat → State
  | 0 => s
  | n + 1 =>
    match s.seifJob 2 with
    | none => s
    | some j =>
      if j.stage ≠ 0 then s
      else if j.srcWords = 0 then ((s.seifDrop j.id).commit j stDone 0).unseifBegin n
      else s.unseifRead j

/-- The decompression engine's next job begins (R355). -/
def State.unseifNext (s : State) : State := s.unseifBegin (s.seifEng 2).jobs.length

/-- A decompression job goes on; one whose source is used up completes, and the next begins. -/
def State.unseifFetch (s : State) (j : Job) : State :=
  if j.srcWords ≤ j.prog then ((s.seifDrop j.id).commit j stDone j.pos).unseifNext else s.unseifRead j

/-- SEIF_DECOMPRESS: a decompression job joins the engine's list. -/
def execSeifDecompress (t : Nat) (sq : Fin 256) (s : State) : Host.Outcome State Fault Refusal :=
  .next ((s.at_ t).startDesc sq.val 0x31 (fun j s =>
    let x := s.seifEng 2
    (s.setSeif 2 { x with jobs := x.jobs ++ [j.id] }).unseifNext))

/-- The words that follow a header in the source: of a block, or of a record, whose LENGTH is from 4 to 1,024 (R276). -/
def Job.restLen (j : Job) (hdr : List Nat) : Option Nat :=
  let h := hdr.headD 0
  if j.toQueue then
    if hdr.length < 4 || bitsAt h 16 16 < 4 || 1024 < bitsAt h 16 16 then none else some (bitsAt h 16 16 - 4)
  else if headerBad h then none else some (blockRest h)

/-- Data of a Seif job arrive from host memory. -/
def State.seifData (s : State) (j : Job) (ws : List Nat) : State :=
  if j.op = 0x30 then s.setJob { j with acc := ws, stage := sjReady }
  else if j.stage = 1 then
    match j.restLen ws with
    | none => s.setJob { j with acc := ws, stage := sjReady }
    | some n =>
      let left := j.srcWords - j.prog - ws.length
      if n = 0 || left < n then s.setJob { j with acc := ws, stage := sjReady }
      else (s.setJob { j with acc := ws, stage := 2 }).hostRead (.job j.id)
        ((addr8 (j.w 2) + (j.prog + ws.length) * 8) % 2 ^ 64) n
  else s.setJob { j with acc := j.acc ++ ws, stage := sjReady }

/-- A fault's counter (R359). -/
def State.seifFault (s : State) (st : Nat) : State :=
  if st = sfIllegal then s.countUp F.SEIF_DFAULT_ILLEGAL 0 1 65535
  else if st = sfDistance then s.countUp F.SEIF_DFAULT_DISTANCE 0 1 65535
  else if st = sfOverrun then s.countUp F.SEIF_DFAULT_OVERRUN 0 1 65535
  else if st = sfBadCheck then s.countUp F.SEIF_DFAULT_BADCHK 0 1 32767
  else s

/-- A decompression job ended at a fault (R356, R357, R401). -/
def State.unseifFail (s : State) (j : Job) (st off : Nat) : State :=
  let s := s.seifDrop j.id
  let full (s : State) : State := if st = sfOutputFull then s.seifStick F.SEIF_STATUS_OUTPUT_FULL 0 2 else s
  if j.classB then
    let s := (full (s.seifFault st)).seifStick F.SEIF_STATUS_FAULT_B 2 2
    let rep := addr8 (j.w 6)
    let s := if rep = 0 then s else
      s.hostPut rkJob j.sq j.slot rep [st + j.aux % 2 ^ 32 * 2 ^ 32, off + j.pos % 2 ^ 32 * 2 ^ 32]
    (s.commit j st j.pos).unseifNext
  else
    let s := if st = sfOutputFull then s else s.seifFault sfBadCheck
    (((full s).seifStick F.SEIF_STATUS_FAULT_A 1 2).commit j (if st = sfOutputFull then stOutputFull else stBadCheck)
      0).unseifNext

/-- The blocks of a compressed body decoded, n of them at most, with cap bytes of room in the record: the words, or the fault,
and how many blocks came before it. -/
def seifBlocks (ws : List Nat) (cap : Nat) : Nat → SeifRes × Nat
  | 0 => (.ok [] 0, 0)
  | n + 1 =>
    match ws with
    | [] => (.ok [] 0, 0)
    | _ =>
      match seifDecode ws cap with
      | .bad st off => (.bad st off, 0)
      | .ok o u =>
        match seifBlocks (ws.drop u) (cap - 8 * o.length) n with
        | (.bad st off, k) => (.bad st off, k + 1)
        | (.ok o' u', k) => (.ok (o ++ o') (u + u'), k + 1)

/-- A job with its destination queue goes on once its record is closed (R358). -/
def State.unseifSettle (s : State) : State :=
  match s.seifJob 2 with
  | none => s
  | some j => if j.stage = 5 && (s.prod prDecomp).waiting == [] then s.unseifFetch j else s

/-- A block, or a record, leaves the decompression engine. -/
def State.unseifBlock (s : State) (j : Job) : State :=
  if j.toQueue then
    let h := j.acc.headD 0
    if j.restLen (j.acc.take 4) ≠ some (j.acc.length - 4) || j.acc.length < 4 then s.unseifFail j sfIllegal 0
    else
      let r := recOfWords j.acc
      -- a record holds 8,192 bytes at most (R277)
      let (res, k) := if bitAt h 7 then seifBlocks r.body (8192 - 32) r.body.length else (.ok r.body 0, 0)
      match res with
      | .bad st off => s.unseifFail { j with aux := j.aux + k } st off
      | .ok body _ =>
        let r' := { r with ty := r.ty % 128, body := body }
        let j := { j with
          stage := 5, prog := j.prog + j.acc.length, pos := j.pos + r'.len * 8, aux := j.aux + k, acc := [] }
        ((s.setJob j).putRec prDecomp (bitsAt (j.w 1) 16 12) r').unseifSettle
  else
    match seifDecode j.acc (bitsAt (j.w 5) 0 32 - j.pos) with
    | .bad st off => s.unseifFail j st off
    | .ok o u =>
      let s := s.hostPut rkJob j.sq j.slot ((addr8 (j.w 4) + j.pos) % 2 ^ 64) o
      s.unseifFetch { j with prog := j.prog + u, pos := j.pos + o.length * 8, aux := j.aux + 1 }

/-- SEIF_BLOCK_DONE: a block leaves engine e; a compression engine serves jobs and its queues in turn (R353). -/
def State.seifBlockDone (s : State) (e : Nat) : State :=
  let x := s.seifEng e
  if e = 2 then
    match s.seifJob 2 with
    | none => s
    | some j => if j.stage = sjReady then s.unseifBlock j else s
  else
    match x.work with
    | some w => if w.output then s.seifSettle e else s.seifRecordBlock e w
    | none =>
      let queueTurn := x.lastJob && s.on F.SEIF_CTRL_EN e && (s.readerPick 3 e).isSome
      match s.seifJob e with
      | none => s
      | some j => if j.stage = sjReady && !queueTurn then s.seifJobBlock e j else s

def execSeifBlockDone (t : Nat) (engine : Fin 3) (s : State) : Host.Outcome State Fault Refusal :=
  .next ((s.at_ t).seifBlockDone engine.val)

/-- A Seif job's read of host memory failed (R402). -/
def State.seifHostError (s : State) (j : Job) : State := ((s.seifDrop j.id).commit j stHostError j.pos).unseifNext

/-- SEIF_CNT_CLR: a write of 1 to SEIF_CNT.CLR. -/
def execSeifCntClr (engine : Fin 2) (s : State) : Host.Outcome State Fault Refusal :=
  let e := engine.val
  .next ((((s.wr F.SEIF_CNT_IN_BYTES e 0).wr F.SEIF_CNT_OUT_BYTES e 0).wr F.SEIF_CNT_PACKED e 0).wr F.SEIF_CNT_PASSED e 0)

/-- SEIF_DFAULT_CLR: a write of 1 to SEIF_DFAULT.CLR. -/
def execSeifDfaultClr (s : State) : Host.Outcome State Fault Refusal :=
  .next ((((s.wr F.SEIF_DFAULT_ILLEGAL 0 0).wr F.SEIF_DFAULT_DISTANCE 0 0).wr F.SEIF_DFAULT_OVERRUN 0 0).wr
    F.SEIF_DFAULT_BADCHK 0 0)

end Sys2Proof.Machine
end

