-- ==== Sys2Proof/Machine/Zillo.lean ====
section
/-! DEFINITION. The Zillo cores (13_zillo_cores.md): their memory, instructions, queue access, interrupts, traps, watchdog
and halting. A command named after an instruction is its execution at a core's pc, and acts where the word there spells
that instruction. -/

namespace Sys2Proof.Machine

open Sys2Proof

def State.zcore (s : State) (z : Nat) : ZCore := smapGet {} s.zcores z
def State.setZcore (s : State) (z : Nat) (x : ZCore) : State := { s with zcores := smapSet {} s.zcores z x }

/-- Values of ZC_STATUS.STATE. -/
def zEmpty : Nat := 0
def zRunning : Nat := 1
def zWaiting : Nat := 2
def zHalting : Nat := 3
def zHalted : Nat := 4
def zTrapped : Nat := 5
def zLoading : Nat := 6

/-- Fine units of a core cycle: 1.25 ns. -/
def zCycle : Nat := 1024

/-- A core's STATE. -/
def State.zState (s : State) (z : Nat) : Nat := s.rd F.ZC_STATUS_STATE z

/-- Cycles in STATE RUNNING up to now (ZC_CYCLES.COUNT). -/
def State.zCount (s : State) (z : Nat) : Nat :=
  (s.rd F.ZC_CYCLES_COUNT z + (if s.zState z = zRunning then (s.now - (s.zcore z).runFrom) / zCycle else 0)) % 2 ^ 63

/-- A core put into a STATE; its cycles in RUNNING are counted. -/
def State.zSetState (s : State) (z st : Nat) : State :=
  let s := s.wr F.ZC_CYCLES_COUNT z (s.zCount z)
  (s.setZcore z { s.zcore z with runFrom := s.now }).wr F.ZC_STATUS_STATE z st

/-- A sticky bit of ZC_STATUS set; event source 48 + z (R385). -/
def State.zStick (s : State) (f : Fld) (bit z : Nat) : State :=
  s.stick f z (bitAt (s.rd F.ZC_EVENT_EN_EV_MASK z) bit) (48 + z) (z + s.rd F.ZC_TRAP_CAUSE z * 16)

/-! ### Banks and registers -/

/-- The register bank in use. -/
def ZCore.cur (c : ZCore) : ZBank := if c.bank then c.shadow else c.main
def ZCore.setCur (c : ZCore) (b : ZBank) : ZCore := if c.bank then { c with shadow := b } else { c with main := b }

def ZCore.g (c : ZCore) (i : Fin 16) : BitVec 32 := smapGet 0 c.cur.g i.val
def ZCore.setG (c : ZCore) (i : Fin 16) (v : BitVec 32) : ZCore :=
  c.setCur { c.cur with g := smapSet 0 c.cur.g i.val v }
def ZCore.a (c : ZCore) (n : Fin 8) : BitVec 19 := smapGet 0 c.cur.a n.val
def ZCore.setA (c : ZCore) (n : Fin 8) (v : BitVec 19) : ZCore :=
  c.setCur { c.cur with a := smapSet 0 c.cur.a n.val v }
def ZCore.c (c : ZCore) (n : Fin 8) : BitVec 20 := smapGet 0 c.cur.c n.val
def ZCore.st (c : ZCore) (n : Fin 8) : BitVec 16 := smapGet 0 c.cur.st n.val
def ZCore.acc (c : ZCore) (k : Fin 4) : Int × Int := smapGet (0, 0) c.cur.acc k.val
def ZCore.setAcc (c : ZCore) (k : Fin 4) (v : Int × Int) : ZCore :=
  c.setCur { c.cur with acc := smapSet (0, 0) c.cur.acc k.val v }

/-- The odd register of a pair. -/
def pairOf (d : Fin 16) : Fin 16 := d + 1

/-- The low k bits of v in reverse order. -/
def revBits (v : Nat) : Nat → Nat
  | 0 => 0
  | k + 1 => b2n (v.testBit 0) * 2 ^ k + revBits (v / 2) k

/-- The least k with len ≤ 2^k. -/
def log2Up (len : Nat) : Nat := if len ≤ 1 then 0 else Nat.log2 (len - 1) + 1

/-- The address a moved by delta in a buffer of len bytes (R367). -/
def zPost (a : Nat) (len : Nat) (br : Bool) (delta : Int) : Nat :=
  if len = 0 then ofSigned 19 ((a : Int) + delta)
  else
    let k := log2Up len
    let rel := a % 2 ^ k
    let base := a - rel
    if br then base + revBits ((revBits rel k + revBits (ofSigned k delta) k) % 2 ^ k) k
    else base + (((rel : Int) + delta) % (len : Int)).toNat

/-- post(a_n, delta) (R367). -/
def ZCore.post (c : ZCore) (n : Fin 8) (delta : Int) : BitVec 19 :=
  let b := (c.c n).toNat
  BitVec.ofNat 19 (zPost (c.a n).toNat (b % 2 ^ 19) (b.testBit 19) delta)

/-- The effective address of the M format and the core with a_n updated (R366); z is the access size. -/
def ZCore.ea (c : ZCore) (n am : Fin 8) (off : BitVec 16) (z : Nat) : Nat × ZCore :=
  match am.val with
  | 0 => ((c.post n (off.toInt * z)).toNat, c)
  | 1 => ((c.a n).toNat, c.setA n (c.post n (off.toInt * z)))
  | 2 => ((c.a n).toNat, c.setA n (c.post n (c.st n).toInt))
  | _ => (off.toNat * z % 2 ^ 19, c)

/-! ### Core memory -/

def State.zword (s : State) (z a : Nat) : Nat := smapGet 0 s.zmem (z * 65536 + a)

/-- Word a of core memory written. -/
def State.zput (s : State) (z a v : Nat) : State :=
  { s with zmem := smapSet 0 s.zmem (z * 65536 + a) (v % 2 ^ 64) }.memWritten (memZillo z) a

/-- The 64-bit word that holds byte address b, read with correction. -/
def State.zread (s : State) (z b : Nat) : Nat × Bool × State := s.memRead (memZillo z) (b / 8) (s.zword z (b / 8))

/-- A 32-bit word stored at byte address b: the other half of its 64-bit word is kept as read. -/
def State.zputHalf (s : State) (z b v : Nat) : State :=
  let (w, ok, s) := s.zread z b
  let lo := if b / 4 % 2 = 1 then 32 else 0
  if ok then s.zput z (b / 8) (setBitsAt w lo 32 v)
  else { s with zmem := smapSet 0 s.zmem (z * 65536 + b / 8) (setBitsAt (s.zword z (b / 8)) lo 32 v) }

/-- The half of a 64-bit word that byte address b names. -/
def halfAt (w b : Nat) : Nat := bitsAt w (if b / 4 % 2 = 1 then 32 else 0) 32

/-- The instruction word at byte address b, from the 64-bit word held or one fetched, and whether the core can use it (R364). -/
def State.zfetch (s : State) (z b : Nat) : Nat × Bool × State :=
  match (s.zcore z).fetched.filter (fun x => x.1 == b / 8) with
  | some x => (halfAt x.2 b, true, s)
  | none =>
    let (w, ok, s) := s.zread z b
    (halfAt w b, ok, s.setZcore z { s.zcore z with fetched := if ok then some (b / 8, w) else none })

/-! ### Open records and packets, traps, halting -/

/-- The producer of a core's records. -/
def zProd (z : Nat) : Nat := prZillo0 + z

/-- A core's open output record discarded: its cells are freed and no number is consumed (R379). -/
def State.zDiscard (s : State) (z : Nat) : State :=
  match (s.zcore z).outp with
  | none => s
  | some o =>
    let x := s.prod (zProd z)
    let q := s.queue o.queue
    let s := s.setZcore z { s.zcore z with outp := none }
    ((s.setProd (zProd z) { x with cells := [] }).setQueue o.queue
      { q with openCells := q.openCells - x.cells.length }).freeCellsOf x.cells

/-- A core's open packet closed undelivered: it stays at the head of its queue. -/
def State.zUnopen (s : State) (z : Nat) : State :=
  match (s.zcore z).inp with
  | none => s
  | some (q, _) =>
    (s.setZcore z { s.zcore z with inp := none }).setQueue q { s.queue q with taken := (s.queue q).taken - 1 }

/-- A core trapped (R380). -/
def State.zTrap (s : State) (z cause addr : Nat) : State :=
  let pc := (s.zcore z).pc.toNat
  let s := (s.zDiscard z).zUnopen z
  let s := s.setZcore z { s.zcore z with rpt := none, haltAt := none, fetched := none }
  let s := ((s.wr F.ZC_TRAP_CAUSE z cause).wr F.ZC_TRAP_ADDR z addr).wr F.ZC_TRAP_PC z pc
  (s.zSetState z zTrapped).zStick F.ZC_STATUS_TRAP 0 z

/-- A core halted; its open packet stays at the head of its queue (R382). -/
def State.zHalt (s : State) (z : Nat) : State :=
  let s := (s.zDiscard z).zUnopen z
  (s.setZcore z { s.zcore z with rpt := none, haltAt := none, fetched := none }).zSetState z zHalted

/-- A halt that is due carried out at an instruction boundary outside an RPT with no output record open. -/
def State.zBoundary (s : State) (z : Nat) : State :=
  let c := s.zcore z
  if c.haltAt.isSome && c.rpt.isNone && c.outp.isNone then s.zHalt z else s

/-- A halt requested (R382). -/
def State.zHaltReq (s : State) (z : Nat) : State :=
  if s.zState z = zWaiting then s.zHalt z
  else if s.zState z = zRunning then
    ((s.setZcore z { s.zcore z with haltAt := some s.now }).zSetState z zHalting).zBoundary z
  else s

/-- A core with its registers cleared, its counts from now on. -/
def zFresh (now : Nat) : ZCore := { cycleFrom := now, runFrom := now, wdFrom := now }

/-- A core started at 0x0_0000 with its registers cleared. -/
def State.zStart (s : State) (z : Nat) : State := (s.setZcore z (zFresh s.now)).zSetState z zRunning

/-- Whether a core may run: its Mortise's memories are filled and it is in service. -/
def State.zPowered (s : State) (z : Nat) : Bool := s.pool.ready && !s.isolated kCore z

/-- Whether a core executes instructions. -/
def State.zRuns (s : State) (z : Nat) : Bool := s.zPowered z && (s.zState z == zRunning || s.zState z == zHalting)

/-! ### Executing an instruction -/

/-- What an instruction comes to: done, at a new pc, still to be completed, a trap with its cause and address, or a trap with
DATA after a read of core memory that was counted (R321). -/
inductive ZRes where
  | done (s : State)
  | jump (pc : BitVec 19) (s : State)
  | wait (s : State)
  | trap (cause addr : Nat)
  | bad (addr : Nat) (s : State)
  deriving DecidableEq, Repr

/-- The step past an executed instruction: the next repetition of an RPT, or the next instruction (R370). -/
def State.zNext (s : State) (z : Nat) : State :=
  let c := s.zcore z
  let c' := match c.rpt with
    | some (left, n) => if 1 < left then { c with rpt := some (left - 1, n + 1) } else { c with rpt := none, pc := c.pc + 4 }
    | none => { c with pc := c.pc + 4 }
  (s.setZcore z c').zBoundary z

/-- An instruction that h takes executed by core z at instant t. -/
def State.zillo (s : State) (t z : Nat) (h : ZOp → Option (State → ZRes)) : State :=
  let s := s.at_ t
  if !s.zRuns z then s
  else
    let (w, ok, s1) := s.zfetch z (s.zcore z).pc.toNat
    if !ok then s1.zTrap z 2 0
    else
      match (zDecode w).bind h with
      | none => s
      | some f =>
        match f s1 with
        | .done s2 => s2.zNext z
        | .jump pc s2 => (s2.setZcore z { s2.zcore z with
            pc := pc, fetched := if pc = (s2.zcore z).pc + 4 then (s2.zcore z).fetched else none }).zBoundary z
        | .wait s2 => s2.zBoundary z
        | .trap c a => s1.zTrap z c a
        | .bad a s2 => s2.zTrap z 3 a

/-- An instruction that only changes the core's registers. -/
def zReg (z : Nat) (f : ZCore → ZCore) (s : State) : ZRes := .done (s.setZcore z (f (s.zcore z)))

/-- g_d := f(g_a, g_b). -/
def zAlu (z : Nat) (d a b : Fin 16) (f : BitVec 32 → BitVec 32 → BitVec 32) : State → ZRes :=
  zReg z (fun c => c.setG d (f (c.g a) (c.g b)))

/-- g_d := f(g_a). -/
def zImm (z : Nat) (d a : Fin 16) (f : BitVec 32 → BitVec 32) : State → ZRes := zReg z (fun c => c.setG d (f (c.g a)))

/-- An aligned read of core memory, or its trap (R363, R380). -/
def zLoad (z b align : Nat) (s : State) (k : Nat → State → ZRes) : ZRes :=
  if b % align ≠ 0 then .trap 4 b
  else
    let (w, ok, s) := s.zread z b
    if ok then k w s else .bad b s

/-- MAXM and MINM (R369). -/
def zSearch (z : Nat) (d : Fin 16) (n am : Fin 8) (off : BitVec 16) (better : Int → Int → Bool) (s : State) : ZRes :=
  let b := ((s.zcore z).ea n am off 4).1
  zLoad z b 4 s (fun w s =>
    let v := BitVec.ofNat 32 (halfAt w b)
    let c := s.zcore z
    let c2 := (c.ea n am off 4).2
    let ix := match c.rpt with | some (_, n) => n | none => 0
    .done (s.setZcore z
      (if better v.toInt (c.g d).toInt then (c2.setG d v).setG (pairOf d) (BitVec.ofNat 32 ix) else c2)))

/-- sat(v, w), and whether it clamps. -/
def satF (v : Int) (w : Nat) : Int × Bool := (satS v w, satS v w != v)

/-- A complex product added to an accumulator (R368). -/
def ZCore.mac (c : ZCore) (k : Fin 4) (x y : BitVec 32) (cj sub : Bool) : ZCore :=
  let xr := toSigned 16 (x.toNat % 2 ^ 16)
  let xi := toSigned 16 (x.toNat / 2 ^ 16)
  let yr := toSigned 16 (y.toNat % 2 ^ 16)
  let yi0 := toSigned 16 (y.toNat / 2 ^ 16)
  let yi := if cj then -yi0 else yi0
  let pr0 := xr * yr - xi * yi
  let pi0 := xr * yi + xi * yr
  let pr := if sub then -pr0 else pr0
  let pi := if sub then -pi0 else pi0
  let (re, b1) := satF ((c.acc k).1 + pr) 40
  let (im, b2) := satF ((c.acc k).2 + pi) 40
  { c.setAcc k (re, im) with sat := c.sat || b1 || b2 }

/-- A branch by a displacement in words (R386). -/
def zBranch (z : Nat) (disp : Int) (s : State) : ZRes :=
  .jump (BitVec.ofInt 19 (((s.zcore z).pc.toNat : Int) + 4 * disp)) s

/-- RPT and RPTR: n executions of the next instruction, which must be marked R (R370). -/
def zRepeat (z n : Nat) (s : State) : ZRes :=
  let c := s.zcore z
  let (w, ok, _) := s.zread z (c.pc + 4).toNat
  let marked := match zDecode (halfAt w (c.pc + 4).toNat) with | some i => i.repeatable | none => false
  if ok && !marked then .trap 1 0
  else .jump (c.pc + 4) (s.setZcore z { c with rpt := some (n, 0) })

/-- The lines pending at a core: line 0 while a packet is available to QOPEN (R371). -/
def State.zPending (s : State) (z : Nat) : BitVec 8 :=
  ((s.zcore z).latched &&& 0xFE) ||| (if (s.readerPick 2 z).isSome then 1 else 0)

/-- IPEND AND IEN is not 0. -/
def State.zIrq (s : State) (z : Nat) : Bool := s.zPending z &&& (s.zcore z).ien != 0

/-- A line latched at core z (R371). -/
def State.zLatch (s : State) (z line : Nat) : State :=
  s.setZcore z { s.zcore z with latched := (s.zcore z).latched ||| BitVec.ofNat 8 (2 ^ line) }

/-- Core cycles until TIMER reaches 0. -/
def State.zTimer (s : State) (z : Nat) : Nat :=
  match (s.zcore z).timerAt with
  | none => 0
  | some a => ceilDiv (a - s.now) zCycle

/-- A control register read (R361). -/
def State.zMfc (s : State) (z creg : Nat) : BitVec 32 × State :=
  let c := s.zcore z
  if creg = 0 then (BitVec.ofNat 32 (b2n c.bank + b2n c.sat * 2 + b2n c.qbad * 4 + b2n c.inp.isSome * 8
    + b2n c.outp.isSome * 16), s)
  else if creg = 1 then (c.ien.setWidth 32, s)
  else if creg = 2 then ((s.zPending z).setWidth 32, s)
  else if creg = 3 then (c.epc.setWidth 32, s)
  else if creg = 4 then (BitVec.ofNat 32 (s.zTimer z), s)
  else if creg = 5 then (0, s)
  else if creg < 10 then (BitVec.ofNat 32 (s.rd F.ZC_MBOX_IN_DATA (z * 4 + (creg - 6))), s)
  else if creg < 14 then (BitVec.ofNat 32 (s.rd F.ZC_MBOX_OUT_DATA (z * 4 + (creg - 10))), s)
  else if creg = 14 then
    let p := plumbWord s.plumbNow
    let frac := p % 2 ^ 40
    (BitVec.ofNat 32 (p / 2 ^ 40), s.setZcore z { c with
      psub := BitVec.ofNat 32 (frac / tickF), pfine := BitVec.ofNat 32 (frac % tickF) })
  else if creg = 15 then (c.psub, s)
  else if creg = 16 then (c.pfine, s)
  else if creg = 17 then (BitVec.ofNat 32 ((s.now - c.cycleFrom) / zCycle), s)
  else if creg < 22 then (BitVec.ofNat 32 (smapGet 0 c.esel (creg - 18)), s)
  else (BitVec.ofNat 32 z, s)

/-- A control register written (R361); a write to a read-only one has no effect. -/
def State.zMtc (s : State) (z creg : Nat) (v : BitVec 32) : State :=
  let c := s.zcore z
  if creg = 0 then s.setZcore z { c with sat := c.sat && v.toNat.testBit 1, qbad := c.qbad && v.toNat.testBit 2 }
  else if creg = 1 then s.setZcore z { c with ien := v.setWidth 8 }
  else if creg = 2 then s.setZcore z { c with latched := c.latched &&& ~~~(v.setWidth 8) }
  else if creg = 3 then s.setZcore z { c with epc := v.setWidth 19 &&& 0x7FFFC }
  else if creg = 4 then s.setZcore z { c with timerAt := if v = 0 then none else some (s.now + v.toNat * zCycle) }
  else if creg = 5 then s.setZcore z { c with wdFrom := s.now }
  else if 10 ≤ creg ∧ creg < 14 then
    let s := s.wr F.ZC_MBOX_OUT_DATA (z * 4 + (creg - 10)) v.toNat
    if creg = 13 then s.zStick F.ZC_STATUS_MBOX 3 z else s
  else if 18 ≤ creg ∧ creg < 22 then
    s.setZcore z { c with esel := smapSet 0 c.esel (creg - 18) (min 287 (v.toNat % 512)) }
  else s

/-! ### Queues -/

/-- The packet a core has open, with the place in it of the next word. -/
def State.zOpen (s : State) (z : Nat) : Option (Nat × Nat × Pkt) :=
  match (s.zcore z).inp with
  | none => none
  | some (q, pos) => ((s.queue q).pkts[(s.queue q).taken - 1]?).map (fun p => (q, pos, p))

/-- The next word of the open packet, none at its end. A word that cannot be used reads as zero, the packet closes
undelivered, QBAD is set and the queue halts (R377). -/
def State.zWord (s : State) (z : Nat) : Option Nat × State :=
  match s.zOpen z with
  | none => (none, s)
  | some (q, pos, p) =>
    let ws := p.rec_.words (s.rd F.FAB_NODE_ID 0)
    if ws.length ≤ pos then (none, s)
    else
      let c := p.cells.getD (pos / 8) 0
      let (_, okL, s) := if pos % 8 = 0 then s.memRead memLink c (s.linkEntry c) else (0, true, s)
      let (w, ok, _, s) := s.cellWord c (pos % 8) (ws.getD pos 0)
      let v := if pos = 0 && s.shimFails p.cells then w ||| flPoison * 2 ^ 8 else w
      if okL && ok then (some v, s.setZcore z { s.zcore z with inp := some (q, pos + 1) })
      else
        let s := s.zUnopen z
        (some 0, (s.setZcore z { s.zcore z with qbad := true }).haltQueue q)

/-- The words left in the open packet. -/
def State.zLeft (s : State) (z : Nat) : Nat :=
  match s.zOpen z with
  | none => 0
  | some (_, pos, p) => p.rec_.len - pos

/-- QBLK: n words moved from the open packet to core memory (R376). -/
def zBlkIn (z : Nat) (a : Fin 16) (n : Fin 8) (s : State) : Nat → ZRes
  | 0 => .done s
  | k + 1 =>
    let c := s.zcore z
    if c.g a = 0 then .done s
    else
      let b := (c.a n).toNat
      if b % 8 ≠ 0 then .trap 4 b
      else
        match s.zWord z with
        | (none, s) => .done s
        | (some v, s) =>
          let s := s.zput z (b / 8) v
          let c := s.zcore z
          zBlkIn z a n (s.setZcore z ((c.setA n (c.post n 8)).setG a (c.g a - 1))) k

/-- A word appended to the open output record, taking a cell where it begins one: the record grown, or the wait for a cell
(R311, R378); a record beyond 8,192 bytes traps. -/
def zAppend (z : Nat) (v : Nat) (s : State) : ZRes :=
  match (s.zcore z).outp with
  | none => .trap 6 0
  | some o =>
    if 1024 ≤ o.words.length then .trap 6 0
    else
      let grown (s : State) : State := s.setZcore z { s.zcore z with outp := some { o with words := o.words ++ [v] } }
      if o.words.length % 8 ≠ 0 then .done (grown s)
      else if s.mayTake o.queue 1 then
        let (cs, s) := s.takeCells (zProd z) o.queue 1
        let x := s.prod (zProd z)
        .done (grown ((s.noteHigh o.queue).setProd (zProd z) { x with cells := x.cells ++ cs }))
      else .wait s

/-- QPBLK: g_a words from core memory appended (R378); a wait keeps the progress in a_n and g_a (R373). -/
def zBlkOut (z : Nat) (a : Fin 16) (n : Fin 8) (s : State) : Nat → ZRes
  | 0 => .wait s
  | k + 1 =>
    let c := s.zcore z
    if c.g a = 0 then .done s
    else
      let b := (c.a n).toNat
      zLoad z b 8 s (fun w s =>
        match zAppend z w s with
        | .done s =>
          let c := s.zcore z
          zBlkOut z a n (s.setZcore z ((c.setA n (c.post n 8)).setG a (c.g a - 1))) k
        | r => r)

/-- QCLOSE with X at 0: the record closed with LENGTH, STREAM, NODE, DIE, TYPE bit 7 and SEQ written by the Mortise, and
RESTART on the first record after a restart (R285, R379). -/
def State.zClose (s : State) (z : Nat) (o : ZOut) : State :=
  let st := s.stream o.stream
  let r := recOfWords o.words
  let r := { r with
    ty := r.ty % 128, stream := o.stream, die := 7, node := none, seq := st.seq
    flags := r.flags ||| (if st.restart then flRestart else 0) }
  let s := s.setStream o.stream { st with seq := (st.seq + 1) % 2 ^ 32, restart := false }
  let x := s.prod (zProd z)
  ((s.setProd (zProd z) { x with cells := [] }).setZcore z { s.zcore z with outp := none }).closePacket o.queue r x.cells

/-- Both banks, the accumulators and the control registers of a core cleared, and its fields that WD resets; it starts
again while RUN is 1 (R381). -/
def State.zWdReset (s : State) (z : Nat) : State :=
  let s := (s.zDiscard z).zUnopen z
  let s := s.wr F.ZC_CYCLES_COUNT z (s.zCount z)
  let s := s.setZcore z (zFresh s.now)
  let s := (List.range 4).foldl (fun s i => s.wr F.ZC_MBOX_OUT_DATA (z * 4 + i) 0) s
  let s := ((s.wr F.ZC_TRAP_CAUSE z 0).wr F.ZC_TRAP_ADDR z 0).wr F.ZC_TRAP_PC z 0
  let s := s.wr F.ZC_STATUS_STATE z (if s.on F.ZC_CTRL_RUN z then zRunning else zHalted)
  s.zStick F.ZC_STATUS_WDOG 1 z

/-! ### The instructions -/

/-- NOP (R386). -/
def execNop (t : Nat) (core : Fin 4) (s : State) : Host.Outcome State Fault Refusal :=
  .next (s.zillo t core.val fun i => match i with
    | .nop => some (zReg core.val id)
    | _ => none)

/-- ADD (R386). -/
def execAdd (t : Nat) (core : Fin 4) (s : State) : Host.Outcome State Fault Refusal :=
  .next (s.zillo t core.val fun i => match i with
    | .add d a b => some (zAlu core.val d a b (· + ·))
    | _ => none)

/-- SUB (R386). -/
def execSub (t : Nat) (core : Fin 4) (s : State) : Host.Outcome State Fault Refusal :=
  .next (s.zillo t core.val fun i => match i with
    | .sub d a b => some (zAlu core.val d a b (· - ·))
    | _ => none)

/-- AND (R386). -/
def execAnd (t : Nat) (core : Fin 4) (s : State) : Host.Outcome State Fault Refusal :=
  .next (s.zillo t core.val fun i => match i with
    | .and d a b => some (zAlu core.val d a b (· &&& ·))
    | _ => none)

/-- OR (R386). -/
def execOr (t : Nat) (core : Fin 4) (s : State) : Host.Outcome State Fault Refusal :=
  .next (s.zillo t core.val fun i => match i with
    | .or d a b => some (zAlu core.val d a b (· ||| ·))
    | _ => none)

/-- XOR (R386). -/
def execXor (t : Nat) (core : Fin 4) (s : State) : Host.Outcome State Fault Refusal :=
  .next (s.zillo t core.val fun i => match i with
    | .xor d a b => some (zAlu core.val d a b (· ^^^ ·))
    | _ => none)

/-- SHL (R386). -/
def execShl (t : Nat) (core : Fin 4) (s : State) : Host.Outcome State Fault Refusal :=
  .next (s.zillo t core.val fun i => match i with
    | .shl d a b => some (zAlu core.val d a b (fun x y => x <<< (y.toNat % 32)))
    | _ => none)

/-- SHR (R386). -/
def execShr (t : Nat) (core : Fin 4) (s : State) : Host.Outcome State Fault Refusal :=
  .next (s.zillo t core.val fun i => match i with
    | .shr d a b => some (zAlu core.val d a b (fun x y => x >>> (y.toNat % 32)))
    | _ => none)

/-- SAR (R386). -/
def execSar (t : Nat) (core : Fin 4) (s : State) : Host.Outcome State Fault Refusal :=
  .next (s.zillo t core.val fun i => match i with
    | .sar d a b => some (zAlu core.val d a b (fun x y => x.sshiftRight (y.toNat % 32)))
    | _ => none)

/-- MUL (R386). -/
def execMul (t : Nat) (core : Fin 4) (s : State) : Host.Outcome State Fault Refusal :=
  .next (s.zillo t core.val fun i => match i with
    | .mul d a b => some (zAlu core.val d a b (· * ·))
    | _ => none)

/-- CLT (R386). -/
def execClt (t : Nat) (core : Fin 4) (s : State) : Host.Outcome State Fault Refusal :=
  .next (s.zillo t core.val fun i => match i with
    | .clt d a b => some (zAlu core.val d a b (fun x y => if x.slt y then 1 else 0))
    | _ => none)

/-- ADDI (R386). -/
def execAddi (t : Nat) (core : Fin 4) (s : State) : Host.Outcome State Fault Refusal :=
  .next (s.zillo t core.val fun i => match i with
    | .addi d a imm => some (zImm core.val d a (fun x => x + imm.signExtend 32))
    | _ => none)

/-- ANDI (R386). -/
def execAndi (t : Nat) (core : Fin 4) (s : State) : Host.Outcome State Fault Refusal :=
  .next (s.zillo t core.val fun i => match i with
    | .andi d a imm => some (zImm core.val d a (fun x => x &&& imm.setWidth 32))
    | _ => none)

/-- SHLI (R386). -/
def execShli (t : Nat) (core : Fin 4) (s : State) : Host.Outcome State Fault Refusal :=
  .next (s.zillo t core.val fun i => match i with
    | .shli d a imm => some (zImm core.val d a (fun x => x <<< (imm.toNat % 32)))
    | _ => none)

/-- SHRI (R386). -/
def execShri (t : Nat) (core : Fin 4) (s : State) : Host.Outcome State Fault Refusal :=
  .next (s.zillo t core.val fun i => match i with
    | .shri d a imm => some (zImm core.val d a (fun x => x >>> (imm.toNat % 32)))
    | _ => none)

/-- MOVI (R386). -/
def execMovi (t : Nat) (core : Fin 4) (s : State) : Host.Outcome State Fault Refusal :=
  .next (s.zillo t core.val fun i => match i with
    | .movi d imm => some (zImm core.val d d (fun _ => imm.signExtend 32))
    | _ => none)

/-- MOVH (R386). -/
def execMovh (t : Nat) (core : Fin 4) (s : State) : Host.Outcome State Fault Refusal :=
  .next (s.zillo t core.val fun i => match i with
    | .movh d imm => some (zImm core.val d d (fun x => imm ++ x.setWidth 16))
    | _ => none)

/-- LDW (R366). -/
def execLdw (t : Nat) (core : Fin 4) (s : State) : Host.Outcome State Fault Refusal :=
  .next (s.zillo t core.val fun i => match i with
    | .ldw d n am off => some (fun s =>
      let b := ((s.zcore core.val).ea n am off 4).1
      zLoad core.val b 4 s (fun w s => .done (s.setZcore core.val
        (((s.zcore core.val).ea n am off 4).2.setG d (BitVec.ofNat 32 (halfAt w b))))))
    | _ => none)

/-- STW (R366). -/
def execStw (t : Nat) (core : Fin 4) (s : State) : Host.Outcome State Fault Refusal :=
  .next (s.zillo t core.val fun i => match i with
    | .stw d n am off => some (fun s =>
      let (b, c) := (s.zcore core.val).ea n am off 4
      if b % 4 ≠ 0 then .trap 4 b
      else .done ((s.setZcore core.val c).zputHalf core.val b ((s.zcore core.val).g d).toNat))
    | _ => none)

/-- LDD (R366). -/
def execLdd (t : Nat) (core : Fin 4) (s : State) : Host.Outcome State Fault Refusal :=
  .next (s.zillo t core.val fun i => match i with
    | .ldd d n am off => some (fun s =>
      let b := ((s.zcore core.val).ea n am off 8).1
      zLoad core.val b 8 s (fun w s => .done (s.setZcore core.val
        ((((s.zcore core.val).ea n am off 8).2.setG d (BitVec.ofNat 32 w)).setG (pairOf d) (BitVec.ofNat 32 (w / 2 ^ 32))))))
    | _ => none)

/-- STD (R366). -/
def execStd (t : Nat) (core : Fin 4) (s : State) : Host.Outcome State Fault Refusal :=
  .next (s.zillo t core.val fun i => match i with
    | .std d n am off => some (fun s =>
      let c0 := s.zcore core.val
      let (b, c) := c0.ea n am off 8
      if b % 8 ≠ 0 then .trap 4 b
      else .done ((s.setZcore core.val c).zput core.val (b / 8) ((c0.g d).toNat + (c0.g (pairOf d)).toNat * 2 ^ 32)))
    | _ => none)

/-- MAXM (R369). -/
def execMaxm (t : Nat) (core : Fin 4) (s : State) : Host.Outcome State Fault Refusal :=
  .next (s.zillo t core.val fun i => match i with
    | .maxm d n am off => some (zSearch core.val d n am off (fun w g => decide (g < w)))
    | _ => none)

/-- MINM (R369). -/
def execMinm (t : Nat) (core : Fin 4) (s : State) : Host.Outcome State Fault Refusal :=
  .next (s.zillo t core.val fun i => match i with
    | .minm d n am off => some (zSearch core.val d n am off (fun w g => decide (w < g)))
    | _ => none)

/-- SETA (R386). -/
def execSeta (t : Nat) (core : Fin 4) (s : State) : Host.Outcome State Fault Refusal :=
  .next (s.zillo t core.val fun i => match i with
    | .seta n a => some (zReg core.val (fun c => c.setA n ((c.g a).setWidth 19)))
    | _ => none)

/-- SETC (R386). -/
def execSetc (t : Nat) (core : Fin 4) (s : State) : Host.Outcome State Fault Refusal :=
  .next (s.zillo t core.val fun i => match i with
    | .setc n a b => some (zReg core.val (fun c => c.setCur { c.cur with
      c := smapSet 0 c.cur.c n.val ((c.g a).setWidth 20)
      st := smapSet 0 c.cur.st n.val ((c.g b).setWidth 16) }))
    | _ => none)

/-- GETA (R386). -/
def execGeta (t : Nat) (core : Fin 4) (s : State) : Host.Outcome State Fault Refusal :=
  .next (s.zillo t core.val fun i => match i with
    | .geta d n => some (zReg core.val (fun c => c.setG d ((c.a n).setWidth 32)))
    | _ => none)

/-- ADDA (R367). -/
def execAdda (t : Nat) (core : Fin 4) (s : State) : Host.Outcome State Fault Refusal :=
  .next (s.zillo t core.val fun i => match i with
    | .adda n off => some (zReg core.val (fun c => c.setA n (c.post n off.toInt)))
    | _ => none)

/-- CMAC (R368). -/
def execCmac (t : Nat) (core : Fin 4) (s : State) : Host.Outcome State Fault Refusal :=
  .next (s.zillo t core.val fun i => match i with
    | .cmac k n m cj px py sub => some (fun s =>
      let c0 := s.zcore core.val
      let x := (c0.a n).toNat
      let y := (c0.a m).toNat
      zLoad core.val x 4 s (fun wx s => zLoad core.val y 4 s (fun wy s =>
        let c1 := (s.zcore core.val).mac k (BitVec.ofNat 32 (halfAt wx x)) (BitVec.ofNat 32 (halfAt wy y)) cj sub
        let c2 := if px then c1.setA n (c1.post n (c1.st n).toInt) else c1
        let c3 := if py then c2.setA m (c2.post m (c2.st m).toInt) else c2
        .done (s.setZcore core.val c3))))
    | _ => none)

/-- CMACR (R368). -/
def execCmacr (t : Nat) (core : Fin 4) (s : State) : Host.Outcome State Fault Refusal :=
  .next (s.zillo t core.val fun i => match i with
    | .cmacr k a b cj sub => some (zReg core.val (fun c => c.mac k (c.g a) (c.g b) cj sub))
    | _ => none)

/-- CLRA (R386). -/
def execClra (t : Nat) (core : Fin 4) (s : State) : Host.Outcome State Fault Refusal :=
  .next (s.zillo t core.val fun i => match i with
    | .clra k => some (zReg core.val (fun c => c.setAcc k (0, 0)))
    | _ => none)

/-- EXTC (R368). -/
def execExtc (t : Nat) (core : Fin 4) (s : State) : Host.Outcome State Fault Refusal :=
  .next (s.zillo t core.val fun i => match i with
    | .extc d k sh => some (zReg core.val (fun c =>
      let (re, b1) := satF (rhu (c.acc k).1 sh.val) 16
      let (im, b2) := satF (rhu (c.acc k).2 sh.val) 16
      { c.setG d (BitVec.ofNat 32 (ofSigned 16 im * 2 ^ 16 + ofSigned 16 re)) with sat := c.sat || b1 || b2 }))
    | _ => none)

/-- EXTR (R368). -/
def execExtr (t : Nat) (core : Fin 4) (s : State) : Host.Outcome State Fault Refusal :=
  .next (s.zillo t core.val fun i => match i with
    | .extr d k im sh => some (zReg core.val (fun c =>
      let (v, b1) := satF (rhu (if im then (c.acc k).2 else (c.acc k).1) sh.val) 32
      { c.setG d (BitVec.ofInt 32 v) with sat := c.sat || b1 }))
    | _ => none)

/-- B (R386). -/
def execB (t : Nat) (core : Fin 4) (s : State) : Host.Outcome State Fault Refusal :=
  .next (s.zillo t core.val fun i => match i with
    | .b disp => some (zBranch core.val disp.toInt)
    | _ => none)

/-- BZ (R386). -/
def execBz (t : Nat) (core : Fin 4) (s : State) : Host.Outcome State Fault Refusal :=
  .next (s.zillo t core.val fun i => match i with
    | .bz a disp => some (fun s => if (s.zcore core.val).g a = 0 then zBranch core.val disp.toInt s else .done s)
    | _ => none)

/-- BNZ (R386). -/
def execBnz (t : Nat) (core : Fin 4) (s : State) : Host.Outcome State Fault Refusal :=
  .next (s.zillo t core.val fun i => match i with
    | .bnz a disp => some (fun s => if (s.zcore core.val).g a ≠ 0 then zBranch core.val disp.toInt s else .done s)
    | _ => none)

/-- BLT (R386). -/
def execBlt (t : Nat) (core : Fin 4) (s : State) : Host.Outcome State Fault Refusal :=
  .next (s.zillo t core.val fun i => match i with
    | .blt a b disp => some (fun s =>
      if ((s.zcore core.val).g a).slt ((s.zcore core.val).g b) then zBranch core.val disp.toInt s else .done s)
    | _ => none)

/-- CALL (R386). -/
def execCall (t : Nat) (core : Fin 4) (s : State) : Host.Outcome State Fault Refusal :=
  .next (s.zillo t core.val fun i => match i with
    | .call disp => some (fun s =>
      zBranch core.val disp.toInt (s.setZcore core.val ((s.zcore core.val).setG 15 (((s.zcore core.val).pc + 4).setWidth 32))))
    | _ => none)

/-- JR (R386). -/
def execJr (t : Nat) (core : Fin 4) (s : State) : Host.Outcome State Fault Refusal :=
  .next (s.zillo t core.val fun i => match i with
    | .jr a => some (fun s =>
      let b := ((s.zcore core.val).g a).setWidth 19
      if b.toNat % 4 ≠ 0 then .trap 4 b.toNat else .jump b s)
    | _ => none)

/-- RPT (R370). -/
def execRpt (t : Nat) (core : Fin 4) (s : State) : Host.Outcome State Fault Refusal :=
  .next (s.zillo t core.val fun i => match i with
    | .rpt cnt => some (zRepeat core.val (cnt.toNat + 1))
    | _ => none)

/-- RPTR (R370). -/
def execRptr (t : Nat) (core : Fin 4) (s : State) : Host.Outcome State Fault Refusal :=
  .next (s.zillo t core.val fun i => match i with
    | .rptr a => some (fun s => zRepeat core.val (clampN 1 65536 ((s.zcore core.val).g a).toNat) s)
    | _ => none)

/-- WAIT (R374); a core with a halt pending that would wait halts, as a waiting core does (R382; log entry 108). -/
def execWait (t : Nat) (core : Fin 4) (s : State) : Host.Outcome State Fault Refusal :=
  .next (s.zillo t core.val fun i => match i with
    | .wait => some (fun s =>
      if s.zIrq core.val then .done s
      else .jump ((s.zcore core.val).pc + 4)
        (if s.zState core.val = zRunning then s.zSetState core.val zWaiting else s.zDiscard core.val))
    | _ => none)

/-- RETI (R372). -/
def execReti (t : Nat) (core : Fin 4) (s : State) : Host.Outcome State Fault Refusal :=
  .next (s.zillo t core.val fun i => match i with
    | .reti => some (fun s => .jump (s.zcore core.val).epc (s.setZcore core.val { s.zcore core.val with bank := false }))
    | _ => none)

/-- MFC (R361). -/
def execMfc (t : Nat) (core : Fin 4) (s : State) : Host.Outcome State Fault Refusal :=
  .next (s.zillo t core.val fun i => match i with
    | .mfc d creg => some (fun s =>
      let (v, s) := s.zMfc core.val creg.val
      .done (s.setZcore core.val ((s.zcore core.val).setG d v)))
    | _ => none)

/-- MTC (R361). -/
def execMtc (t : Nat) (core : Fin 4) (s : State) : Host.Outcome State Fault Refusal :=
  .next (s.zillo t core.val fun i => match i with
    | .mtc a creg => some (fun s => .done (s.zMtc core.val creg.val ((s.zcore core.val).g a)))
    | _ => none)

/-- SIG (R371). -/
def execSig (t : Nat) (core : Fin 4) (s : State) : Host.Outcome State Fault Refusal :=
  .next (s.zillo t core.val fun i => match i with
    | .sig z => some (fun s => .done (s.zLatch z.val 3))
    | _ => none)

/-- HALT (R382). -/
def execHalt (t : Nat) (core : Fin 4) (s : State) : Host.Outcome State Fault Refusal :=
  .next (s.zillo t core.val fun i => match i with
    | .halt => some (fun s =>
      let c := s.zcore core.val
      let s := s.setZcore core.val { c with haltAt := some (c.haltAt.getD s.now) }
      .done ((if s.zState core.val = zRunning then s.zSetState core.val zHalting else s).zStick F.ZC_STATUS_FW_HALT 2 core.val))
    | _ => none)

/-- QOPEN (R376). -/
def execQopen (t : Nat) (core : Fin 4) (s : State) : Host.Outcome State Fault Refusal :=
  .next (s.zillo t core.val fun i => match i with
    | .qopen d => some (fun s =>
      if (s.zcore core.val).inp.isSome then .trap 5 0
      else
        match s.readerPick 2 core.val with
        | none => .done (s.setZcore core.val ((s.zcore core.val).setG d 0))
        | some q =>
          let len := match s.nextPkt q with | none => 0 | some p => p.rec_.len * 8
          let s := (s.readerTook 2 core.val q).setQueue q { s.queue q with taken := (s.queue q).taken + 1 }
          .done (s.setZcore core.val ({ s.zcore core.val with inp := some (q, 0) }.setG d (BitVec.ofNat 32 len))))
    | _ => none)

/-- QRDD (R376). -/
def execQrdd (t : Nat) (core : Fin 4) (s : State) : Host.Outcome State Fault Refusal :=
  .next (s.zillo t core.val fun i => match i with
    | .qrdd d => some (fun s =>
      if (s.zcore core.val).inp.isNone then .trap 5 0
      else
        match s.zWord core.val with
        | (none, _) => .trap 5 0
        | (some v, s) => .done (s.setZcore core.val
            (((s.zcore core.val).setG d (BitVec.ofNat 32 v)).setG (pairOf d) (BitVec.ofNat 32 (v / 2 ^ 32)))))
    | _ => none)

/-- QBLK (R376). -/
def execQblk (t : Nat) (core : Fin 4) (s : State) : Host.Outcome State Fault Refusal :=
  .next (s.zillo t core.val fun i => match i with
    | .qblk a n => some (fun s =>
      if (s.zcore core.val).inp.isNone then .trap 5 0 else zBlkIn core.val a n s (s.zLeft core.val))
    | _ => none)

/-- QDONE (R376). -/
def execQdone (t : Nat) (core : Fin 4) (s : State) : Host.Outcome State Fault Refusal :=
  .next (s.zillo t core.val fun i => match i with
    | .qdone => some (fun s =>
      match (s.zcore core.val).inp with
      | none => .trap 5 0
      | some (q, _) => .done ((s.setZcore core.val { s.zcore core.val with inp := none }).deliver q 1))
    | _ => none)

/-- QNEW (R378). -/
def execQnew (t : Nat) (core : Fin 4) (s : State) : Host.Outcome State Fault Refusal :=
  .next (s.zillo t core.val fun i => match i with
    | .qnew a => some (fun s =>
      let c := s.zcore core.val
      if c.outp.isSome then .trap 6 0
      else
        let sid := streamId 14 7 (32 * core.val + (c.g a).toNat % 32)
        .done (s.setZcore core.val { c with outp := some { stream := sid, queue := s.queueOf sid } }))
    | _ => none)

/-- QWRD (R378). -/
def execQwrd (t : Nat) (core : Fin 4) (s : State) : Host.Outcome State Fault Refusal :=
  .next (s.zillo t core.val fun i => match i with
    | .qwrd a => some (fun s =>
      let c := s.zcore core.val
      zAppend core.val ((c.g a).toNat + (c.g (pairOf a)).toNat * 2 ^ 32) s)
    | _ => none)

/-- QPBLK (R378). -/
def execQpblk (t : Nat) (core : Fin 4) (s : State) : Host.Outcome State Fault Refusal :=
  .next (s.zillo t core.val fun i => match i with
    | .qpblk a n => some (fun s =>
      if (s.zcore core.val).outp.isNone then .trap 6 0 else zBlkOut core.val a n s 1026)
    | _ => none)

/-- QCLOSE (R379). -/
def execQclose (t : Nat) (core : Fin 4) (s : State) : Host.Outcome State Fault Refusal :=
  .next (s.zillo t core.val fun i => match i with
    | .qclose x => some (fun s =>
      match (s.zcore core.val).outp with
      | none => .trap 6 0
      | some o =>
        if o.words.length < 4 then .trap 6 0
        else if x then .done (s.zDiscard core.val)
        else .done (s.zClose core.val o))
    | _ => none)

/-! ### Traps, interrupts and events of a core -/

/-- ILLEGAL_OPCODE (R380): the word at pc spells no instruction. -/
def execIllegalOpcode (t : Nat) (core : Fin 4) (s : State) : Host.Outcome State Fault Refusal :=
  let s := s.at_ t
  let z := core.val
  .next (
    if !s.zRuns z then s
    else
      let (w, ok, s1) := s.zfetch z (s.zcore z).pc.toNat
      if !ok then s1.zTrap z 2 0
      else match zDecode w with
        | none => s1.zTrap z 1 0
        | some _ => s)

/-- An interrupt taken at an instruction boundary (R372, R374); a core that waits in its shadow bank only goes on. -/
def State.zInterrupt (s : State) (z : Nat) : State :=
  let c := s.zcore z
  let waiting := s.zState z == zWaiting
  if !s.zPowered z || !(s.zRuns z || waiting) || c.rpt.isSome || !s.zIrq z then s
  else
    let s := if waiting then s.zSetState z zRunning else s
    if c.bank then s
    else s.setZcore z { s.zcore z with epc := c.pc, bank := true, pc := 0x20, fetched := none }

/-- INTERRUPT_TAKE (R372). -/
def execInterruptTake (t : Nat) (core : Fin 4) (s : State) : Host.Outcome State Fault Refusal :=
  .next ((s.at_ t).zInterrupt core.val)

/-- CORE_TIMER_EXPIRY (R371): TIMER has reached 0 and stops there. -/
def execCoreTimerExpiry (t : Nat) (core : Fin 4) (s : State) : Host.Outcome State Fault Refusal :=
  let s := s.at_ t
  .next (match (s.zcore core.val).timerAt with
  | none => s
  | some a =>
    if a ≤ s.now then (s.setZcore core.val { s.zcore core.val with timerAt := none }).zLatch core.val 2 else s)

/-- MBOX_IN_WRITE (R371): the host writes ZC_MBOX_IN word 3. -/
def execMboxInWrite (core : Fin 4) (value : BitVec 32) (s : State) : Host.Outcome State Fault Refusal :=
  .next ((s.wr F.ZC_MBOX_IN_DATA (core.val * 4 + 3) value.toNat).zLatch core.val 1)

/-- WATCHDOG_EXPIRY (R381): PERIOD µs without a write to WDK. -/
def execWatchdogExpiry (t : Nat) (core : Fin 4) (s : State) : Host.Outcome State Fault Refusal :=
  let s := s.at_ t
  let z := core.val
  .next (
    if (s.zRuns z || (s.zPowered z && s.zState z == zWaiting)) && s.on F.ZC_CTRL_WD_EN z
        && decide ((s.zcore z).wdFrom + s.rd F.ZC_WDOG_PERIOD z * usF ≤ s.now) then s.zWdReset z
    else s)

/-- RUN written as 1 (R382): a halted or trapped core starts. -/
def State.zRun (s : State) (z : Nat) : State :=
  let s := s.wr F.ZC_CTRL_RUN z 1
  if s.zPowered z && (s.zState z == zHalted || s.zState z == zTrapped) then s.zStart z else s

/-- RUN written as 0 (R382). -/
def State.zStop (s : State) (z : Nat) : State := (s.wr F.ZC_CTRL_RUN z 0).zHaltReq z

/-- CORE_RUN (R382). -/
def execCoreRun (t : Nat) (core : Fin 4) (s : State) : Host.Outcome State Fault Refusal :=
  .next ((s.at_ t).zRun core.val)

/-- CORE_HALT_REQUEST (R382). -/
def execCoreHaltRequest (t : Nat) (core : Fin 4) (s : State) : Host.Outcome State Fault Refusal :=
  .next ((s.at_ t).zStop core.val)

/-- CORE_HALT_TIMEOUT (R382): 1 ms after the request the open output record is discarded and the core halts. -/
def execCoreHaltTimeout (t : Nat) (core : Fin 4) (s : State) : Host.Outcome State Fault Refusal :=
  let s := s.at_ t
  .next (match (s.zcore core.val).haltAt with
  | none => s
  | some a => if a + msF ≤ s.now && (s.zcore core.val).rpt.isNone then s.zHalt core.val else s)

/-- ZC_CYCLES_CLR: a write of 1 to ZC_CYCLES.CLR. -/
def execZcCyclesClr (t : Nat) (core : Fin 4) (s : State) : Host.Outcome State Fault Refusal :=
  let s := s.at_ t
  .next ((s.setZcore core.val { s.zcore core.val with runFrom := s.now }).wr F.ZC_CYCLES_COUNT core.val 0)

end Sys2Proof.Machine
end

