-- ==== Sys2Proof/Machine/Security.lean ====
section
/-! DEFINITION. Identity, bundles and debug (19_security.md): the fuses of a security island, the requests it serves in
order, the verification of bundles, attestation, the operations of the SECURITY descriptor. -/

namespace Sys2Proof.Machine

open Sys2Proof

/-! ### Fuses and keys (R534, R535) -/

def State.sec (s : State) (d : Nat) : Sec := smapGet {} s.secs d
def State.setSec (s : State) (d : Nat) (x : Sec) : State := { s with secs := smapSet {} s.secs d x }

/-- The state and seed of identity slot i of die d: 0 BLANK, 1 LIVE, 2 ERASED. Factory test enrols slot 0. -/
def State.idSlot (s : State) (d i : Nat) : Nat × Nat :=
  match smapGet none (s.sec d).ids i with
  | some x => x
  | none => if i = 0 then (1, Config.otp 1 d % 2 ^ 456) else (0, 0)

/-- The identity slot in use: the lowest LIVE one. -/
def State.idInUse (s : State) (d : Nat) : Option Nat := (List.range 4).find? (fun i => (s.idSlot d i).1 == 1)

/-- The private key seed in use. -/
def State.idSeed (s : State) (d : Nat) : Option (List Nat) := (s.idInUse d).map (fun i => leBytes (s.idSlot d i).2 57)

/-- The public key in use. -/
def State.idKey (s : State) (d : Nat) : Option (List Nat) := (s.idSeed d).map edPublic

/-- ID_TAG of a die (R535). -/
def State.idTag (s : State) (d : Nat) : Nat :=
  match s.idKey d with
  | none => 0
  | some k => leNat (shake256 k 8)

/-- The state of an owner slot, 0 BLANK, 1 LIVE, 2 REVOKED, and its key. -/
def State.ownerSlot (s : State) (d i : Nat) : Nat × List Nat := smapGet (0, []) (s.sec d).owners i

/-- Whether an owner slot is LIVE. -/
def State.ownerLive (s : State) (d i : Nat) : Bool := (s.ownerSlot d i).1 == 1

/-- Whether any owner slot is LIVE. -/
def State.anyOwner (s : State) (d : Nat) : Bool := s.ownerLive d 0 || s.ownerLive d 1

/-- The Bergarno root public key, in mask ROM. -/
def rootKey : List Nat := leBytes (Config.otp 0 0 % 2 ^ 456) 57

/-- The public key that KEY of a bundle or block names. -/
def State.keyOf (s : State) (d key : Nat) : List Nat := if key = 0 then rootKey else (s.ownerSlot d (key - 1)).2

/-- The last valid boot entry that names core z governs it (R540). -/
def State.governing (s : State) (d z : Nat) : Option BootEntry :=
  ((s.sec d).boot.filter (fun e => e.core == z)).getLast?

/-- A random number of w bits drawn. -/
def State.random (s : State) (w : Nat) : Nat × State := (Config.randomBits w s.free % 2 ^ w, { s with free := s.free + 1 })

/-- SEC_NONCE drawn again (R544). -/
def State.newNonce (s : State) (d : Nat) : State :=
  let (n, s) := s.random 64
  s.wr F.SEC_NONCE_NONCE d n

/-- A sticky bit of SEC_STATUS set; event source 60 (R551). -/
def State.secStick (s : State) (f : Fld) (bit d op : Nat) : State :=
  s.stick f d (bitAt (s.rd F.SEC_EVENT_EN_EV_MASK d) bit) 60 op

/-- The code of PART: 0 VT2, 1 VT4, 2 VT8. -/
def Part.code : Part → Nat
  | .vt2 => 0
  | .vt4 => 1
  | .vt8 => 2

/-! ### Bundles (R537 to R539) -/

/-- A section of a bundle: TYPE, COMP, DEST, the stored words' place and length, LEN, DIGEST, its restored words. -/
structure Section where
  ty : Nat
  comp : Bool
  dest : Nat
  off : Nat
  stored : Nat
  len : Nat
  digest : List Nat
  words : List Nat
  deriving DecidableEq, Repr

/-- Section i of a bundle's table. -/
def sectionAt (ws : List Nat) (i : Nat) : Section :=
  let w (k : Nat) : Nat := ws.getD (4 + 8 * i + k) 0
  { ty := bitsAt (w 0) 0 8
    comp := bitAt (w 0) 8
    dest := bitsAt (w 0) 32 32
    off := bitsAt (w 1) 0 32
    stored := bitsAt (w 1) 32 32
    len := bitsAt (w 2) 0 32
    digest := bytesOf ((List.range 4).map (fun k => w (4 + k)))
    words := [] }

/-- Whether the bits that R538 does not list are zero in section i of the table, and TYPE is one of its three. -/
def sectionZeros (ws : List Nat) (i : Nat) : Bool :=
  let w (k : Nat) : Nat := ws.getD (4 + 8 * i + k) 0
  bitsAt (w 0) 9 23 == 0 && bitsAt (w 2) 32 32 == 0 && w 3 == 0
    && decide (1 ≤ bitsAt (w 0) 0 8) && decide (bitsAt (w 0) 0 8 ≤ 3)

/-- Whether the ranges, by start and length, do not overlap. -/
def apart (l : List (Nat × Nat)) : Bool :=
  match l with
  | [] => true
  | x :: l => l.all (fun y => decide (x.1 + x.2 ≤ y.1) || decide (y.1 + y.2 ≤ x.1) || x.2 == 0 || y.2 == 0) && apart l

/-- Check 1 of R539, for a bundle of which len bytes are at hand. -/
def bundleForm (ws : List Nat) (len : Nat) : Bool :=
  let h := ws.headD 0
  let n := bitsAt h 40 5
  let total := bitsAt (ws.getD 1 0) 0 32
  let start := 32 + 64 * n + 120
  let l := (List.range n).map (sectionAt ws)
  bitsAt h 0 32 == 0xC217A001 && bitsAt h 32 8 == 1 && decide (1 ≤ n) && decide (n ≤ 16)
    && bitsAt h 45 3 == 0 && bitsAt h 50 2 == 0 && bitsAt h 55 1 == 0 && bitsAt h 63 1 == 0
    && bitsAt (ws.getD 1 0) 32 32 == 0 && decide (total ≤ len) && decide (start ≤ total)
    && (List.range n).all (sectionZeros ws)
    && ((bytesOf ((ws.drop (4 + 8 * n)).take 15)).drop 114).all (fun b => b == 0)
    && l.all (fun x => x.off % 8 == 0 && decide (start ≤ x.off) && decide (x.off + x.stored ≤ total)
      && x.dest % 8 == 0 && x.len % 8 == 0 && (x.comp || x.stored == x.len))
    && apart (l.map (fun x => (x.off, x.stored)))

/-- A section with its restored words, none where check 7 fails. -/
def Section.restore (x : Section) (ws : List Nat) : Option Section :=
  let st := (ws.drop (x.off / 8)).take (ceilDiv x.stored 8)
  if x.comp then
    match (seifBlocks st (2 ^ 32) st.length).1 with
    | .bad _ _ => none
    | .ok o _ => if x.stored % 8 = 0 && o.length * 8 == x.len then some { x with words := o } else none
  else some { x with words := st }

/-- A bundle verified for die d: its sections, or the code of the first check that fails (R539). -/
def State.verifyBundle (s : State) (d : Nat) (ws : List Nat) (len : Nat) : Except Nat (List Section) :=
  let h := ws.headD 0
  let n := bitsAt h 40 5
  let key := bitsAt h 48 2
  let sig := (bytesOf ((ws.drop (4 + 8 * n)).take 15)).take 114
  if !bundleForm ws len then .error 1
  else if !bitAt h (52 + s.part.code) then .error 2
  else if ws.getD 2 0 ≠ 0 && ws.getD 2 0 ≠ s.idTag d then .error 3
  else if key = 3 || (key ≠ 0 && !s.ownerLive d (key - 1)) then .error 4
  else if bitsAt h 56 7 < (s.sec d).svn then .error 5
  else if !edVerify (s.keyOf d key) "Crita bundle" (bytesOf (ws.take (4 + 8 * n))) sig then .error 6
  else
    let l := (List.range n).map (fun i => (sectionAt ws i).restore ws)
    if !l.all Option.isSome then .error 7
    else
      let l := l.filterMap id
      let loaded := l.filter (fun x => x.ty != 3)
      if !l.all (fun x => digest (bytesOf x.words) == x.digest) then .error 8
      else if !loaded.all (fun x => decide (x.dest + x.len ≤ 0x80000))
          || !apart (loaded.map (fun x => (x.dest, x.len))) then .error 9
      else .ok l

/-- A failed verification noted: SEC_CNT.LAST_CODE and SEC_STATUS.BAD_BUNDLE. -/
def State.badBundle (s : State) (d code op : Nat) : State :=
  (s.wr F.SEC_CNT_LAST_CODE d code).secStick F.SEC_STATUS_BAD_BUNDLE 3 d op

/-- The words of memory of core z as a verified bundle leaves them: its sections, and zero elsewhere. -/
def sectionWords (z : Nat) (l : List Section) : List (Nat × Nat) :=
  (l.filter (fun x => x.ty != 3)).flatMap (fun x => (x.words.zipIdx (x.dest / 8)).map (fun p => (z * 65536 + p.2, p.1)))

/-- The memory of core z written anew. -/
def State.zFill (s : State) (z : Nat) (cells : List (Nat × Nat)) : State :=
  let lo := flipKey (memZillo z) 0
  let hit (k : Nat) : Bool := decide (lo ≤ k) && decide (k < lo + 2 ^ 24)
  { s with
    zmem := cells.foldl (fun m p => smapSet 0 m p.1 p.2) (smapDrop s.zmem (fun k => k / 65536 == z))
    pool := { s.pool with flips := smapDrop s.pool.flips hit, wb := s.pool.wb.filter (fun k => !hit k) } }

/-- The digests of a loaded bundle's sections of a type, digested (R542). -/
def sectionDigest (l : List Section) (ty : Nat) : List Nat := digest ((l.filter (fun x => x.ty == ty)).flatMap (·.digest))

/-- A verified bundle loaded into core z, which is left HALTED (R383). -/
def State.zLoaded (s : State) (d z : Nat) (l : List Section) : State :=
  let s := s.zFill z (sectionWords z l)
  let s := { s with zdigest := smapSet [] (smapSet [] s.zdigest (2 * z) (sectionDigest l 1)) (2 * z + 1) (sectionDigest l 2) }
  (s.countUp F.SEC_CNT_LOADS d 1 (2 ^ 32 - 1)).zSetState z zHalted

/-! ### The island's queue (R533) -/

/-- Bytes 0 to 399 of the attestation report (R542). -/
def State.report (s : State) (d : Nat) (nonce : List Nat) : List Nat :=
  let dig (z k : Nat) : List Nat :=
    if s.zState z = zEmpty || smapGet [] s.zdigest (2 * z + k) = [] then List.replicate 32 0
    else smapGet [] s.zdigest (2 * z + k)
  let pn := s.idKey d
  [0xA1, 1, s.part.code + d * 4 + (if pn.isNone then 8 else 0) + s.rd F.SEC_STATUS_DEBUG d * 16, (s.idInUse d).getD 7]
    ++ leBytes s.nodeId 2 ++ [0, 0] ++ nonce ++ leBytes (plumbWord s.plumbNow) 10 ++ [s.rd F.PLUMB_STATUS_STATE 0]
    ++ List.replicate 5 0 ++ [(s.sec d).opens, (s.sec d).svn]
    ++ leBytes (if s.part = .vt8 then s.rd F.DX_COUNT_SWITCHES d else 0) 2 ++ leBytes (s.rd F.SEC_CNT_LOADS d) 4
    ++ leBytes (s.idTag d) 8 ++ leBytes (if s.part = .vt8 then s.idTag (1 - d) else 0) 8
    ++ (List.range 4).flatMap (fun z => dig z 0) ++ (List.range 4).flatMap (fun z => dig z 1)
    ++ pn.getD (List.replicate 57 0) ++ List.replicate 7 0

/-- The operation at the head of the island's queue begins: an attestation report is built. -/
def State.secBegin (s : State) : State :=
  match s.secq.head? with
  | some (.job id) =>
    match s.job id with
    | none => s
    | some j =>
      if j.op = 0x50 then s.setJob { j with acc := s.report s.dx.die (bytesOf ((j.words.drop 2).take 4)) } else s
  | _ => s

/-- A request joins the island's queue. -/
def State.secAsk (s : State) (r : SecReq) : State :=
  let s := { s with secq := s.secq ++ [r] }
  if s.secq.length = 1 then s.secBegin else s

/-- The head of the island's queue is done with. -/
def State.secPop (s : State) : State := { s with secq := s.secq.drop 1 }.secBegin

/-- Whether a request is a descriptor's. -/
def SecReq.ofJob (r : SecReq) (id : Nat) : Bool :=
  match r with
  | .job i | .bundle i | .burn i _ _ => i == id
  | .fa _ _ _ _ => false

/-- A descriptor's requests leave the island's queue; a programming pass that has begun stays (R547). -/
def State.secDrop (s : State) (id : Nat) : State :=
  let begun : List SecReq :=
    match s.secq.head? with
    | some (.burn i op x) => [.burn i op x]
    | _ => []
  let l := begun ++ (s.secq.drop begun.length).filter (fun r => !r.ofJob id)
  if l.head? = s.secq.head? then { s with secq := l } else { s with secq := l }.secBegin

/-! ### SECURITY (R544 to R549) -/

/-- The effective OP of a SECURITY descriptor (R395). -/
def Job.secOp (j : Job) : Nat := if 8 ≤ bitsAt (j.w 1) 0 4 then 0 else bitsAt (j.w 1) 0 4

/-- Bytes written to OUT, as many as OUT_CAP takes; RESULT is their number. -/
def State.secOut (s : State) (j : Job) (b : List Nat) : State :=
  let b := if addr8 (j.w 4) = 0 then [] else b.take (bitsAt (j.w 5) 0 16)
  (s.hostPut rkJob j.sq j.slot (addr8 (j.w 4)) (wordsOf (pad8 b))).commit j stDone b.length

/-- A refusal with its reason (R546). -/
def State.secDeny (s : State) (j : Job) (reason : Nat) : State :=
  let d := s.dx.die
  let s := ((s.countUp F.SEC_CNT_AUTH_FAILS d 1 65535).secStick F.SEC_STATUS_DENIED 0 d j.secOp).newNonce d
  if 8 ≤ bitsAt (j.w 5) 0 16 && addr8 (j.w 4) ≠ 0 then
    (s.hostPut rkJob j.sq j.slot (addr8 (j.w 4)) [reason]).commit j stDenied 8
  else s.commit j stDenied 0

/-- The reason to refuse an authorisation block b for OP (R544 to R546), none where it stands. -/
def State.authBad (s : State) (d op : Nat) (b : List Nat) : Option Nat :=
  let g (i : Nat) : Nat := b.getD i 0
  let key := g 3
  if g 0 ≠ 0xC5 || g 1 ≠ 1 || g 2 ≠ op || ((b.drop 4).take 4).any (fun x => x != 0) || (b.drop 202).any (fun x => x != 0) then some 1
  else if leNat ((b.drop 8).take 8) ≠ s.rd F.SEC_NONCE_NONCE d || leNat ((b.drop 16).take 8) ≠ s.idTag d then some 2
  else if 2 < key || (if key = 0 then s.anyOwner d else !s.ownerLive d (key - 1)) then some 3
  else if !edVerify (s.keyOf d key) "Crita auth" (b.take 88) ((b.drop 88).take 114) then some 4
  else none

/-- What an authorised operation burns where its own condition holds (R546); STORE_BOOT reads its bundle first. -/
def State.secBurn (s : State) (d op : Nat) (b : List Nat) : Option Burn × State :=
  let arg := (b.drop 24).take 64
  let slot := arg.getD 57 0
  if op = 1 then
    match (List.range 4).find? (fun i => (s.idSlot d i).1 == 0), s.on F.SEC_STATUS_DEBUG d with
    | some i, false =>
      let (n, s) := s.random 456
      (some (.identity i n), s)
    | _, _ => (none, s)
  else if op = 2 then
    (if slot < 2 && (s.ownerSlot d slot).1 == 0 then some (.owner slot (arg.take 57)) else none, s)
  else if op = 3 then (if slot < 2 && s.ownerLive d slot && b.getD 3 0 ≠ slot + 1 then some (.revoke slot) else none, s)
  else if op = 5 then
    let v := min 64 (arg.getD 0 0)
    let low := (List.range 4).any (fun z => match s.governing d z with | none => false | some e => decide (e.svn < v))
    (if (s.sec d).svn < v && !low then some (.svn v) else none, s)
  else if op = 6 then (if (s.sec d).opens < 16 then some .opening else none, s)
  else (none, s)

/-- The length in bytes that STORE_BOOT gives. -/
def storeLen (b : List Nat) : Nat := leNat ((b.drop 32).take 4)

/-- The words of the bundle store. -/
def storeWords : Nat := 131072

/-- Whether the store and the table of die d have room for a bundle of n bytes. -/
def State.storeRoom (s : State) (d n : Nat) : Bool :=
  decide ((s.sec d).store.length + ceilDiv n 8 ≤ storeWords) && decide ((s.sec d).boot.length < 16)

/-- The authorisation block in a job's words judged. -/
def State.secJudge (s : State) (j : Job) : State :=
  let d := s.dx.die
  let b := bytesOf (j.acc.take 26)
  match s.authBad d j.secOp b with
  | some r => s.secDeny j r
  | none =>
    if j.secOp = 4 then
      let n := storeLen b
      if !s.storeRoom d n then s.secDeny j 5
      else
        let s := s.newNonce d
        let j := { j with stage := 3 }
        if n = 0 then (s.setJob j).secAsk (.bundle j.id)
        else (s.setJob j).hostRead (.job j.id) (addr8 (leNat ((b.drop 24).take 8))) (ceilDiv n 8)
    else
      match s.secBurn d j.secOp b with
      | (none, s) => s.secDeny j 5
      | (some x, s) => (s.newNonce d).secAsk (.burn j.id j.secOp x)

/-- Fuses burned. -/
def State.secBurned (s : State) (d : Nat) (x : Burn) : State :=
  let y := s.sec d
  match x with
  | .identity i n => s.setSec d { y with ids := smapSet none y.ids i (some (1, n)) }
  | .owner i k => s.setSec d { y with owners := smapSet (0, []) y.owners i (1, k) }
  | .revoke i => s.setSec d { y with owners := smapSet (0, []) y.owners i (2, (s.ownerSlot d i).2) }
  | .store e ws => s.setSec d { y with boot := y.boot ++ [e], store := y.store ++ ws }
  | .svn v => s.setSec d { y with svn := v }
  | .opening =>
    let ids := match s.idInUse d with | none => y.ids | some i => smapSet none y.ids i (some (2, 2 ^ 456 - 1))
    s.setSec d { y with ids := ids, opens := y.opens + 1 }

/-- A programming pass ends: what follows it, and the descriptor that asked for it where it is still in execution. -/
def State.secPass (s : State) (id op : Nat) (x : Burn) : State :=
  let d := s.dx.die
  let s := s.secBurned d x
  let s := match x with
    | .identity _ _ | .owner _ _ | .revoke _ => s.secStick F.SEC_STATUS_ENROLLED 2 d op
    | .opening => (s.wr F.SEC_STATUS_DEBUG d 1).secStick F.SEC_STATUS_OPENED 1 d op
    | _ => s
  match s.job id with
  | none => s
  | some j =>
    match x with
    | .identity i _ => s.secOut j (edPublic (leBytes (s.idSlot d i).2 57))
    | _ => s.commit j stDone 0

/-- The bundle of a STORE_BOOT verified. -/
def State.storeJudge (s : State) (j : Job) : State :=
  let d := s.dx.die
  let b := bytesOf (j.acc.take 26)
  let ws := j.acc.drop 26
  let h := ws.headD 0
  match s.verifyBundle d ws (storeLen b) with
  | .error c => (s.badBundle d c 4).secDeny j 5
  | .ok _ =>
    if digest (bytesOf (ws.take (4 + 8 * bitsAt h 40 5))) ≠ (b.drop 40).take 32 then s.secDeny j 5
    else if !s.storeRoom d (storeLen b) then s.secDeny j 5
    else
      let e : BootEntry := {
        core := b.getD 36 0 % 4
        autorun := bitAt (b.getD 36 0) 7
        svn := bitsAt h 56 7
        offset := (s.sec d).store.length * 8
        len := storeLen b
        digest := (b.drop 40).take 32 }
      s.secAsk (.burn j.id 4 (.store e ws))

/-- The bundle of a ZILLO_LOAD verified. -/
def State.loadJudge (s : State) (j : Job) : State :=
  let d := s.dx.die
  let z := bitsAt (j.w 1) 0 2
  match s.verifyBundle d j.acc (bitsAt (j.w 3) 0 32) with
  | .error c => ((s.badBundle d c 0).zSetState z (s.zcore z).loadFrom).commit j stBadBundle c
  | .ok l => (s.zLoaded d z l).commit j stDone 0

/-- The signed report of an ATTEST written as a record (R302, R542, R543). -/
def State.attestDone (s : State) (j : Job) : State :=
  let d := s.dx.die
  let rep := j.acc
  let sig := match s.idSeed d with | none => List.replicate 114 0 | some k => edSign k "Crita att" rep
  let sid := streamId 13 7 0
  let r : Rec := {
    ty := tyAttest, stream := sid, die := 7, time := plumbOfWord (leNat ((rep.drop 40).take 10))
    body := wordsOf (pad8 (rep ++ sig)) }
  let seq := (s.stream sid).seq
  (s.produce prAttest r).commit j stDone seq

/-! ### The rows -/

/-- A SECURITY descriptor with OP op started. -/
def State.secStart (s : State) (sq op : Nat) : State :=
  match s.nextDesc sq with
  | none => s
  | some j =>
    if j.secOp ≠ op then s
    else s.startDesc sq 0x51 (fun j s =>
      if bitsAt (j.w 3) 0 16 ≠ 208 then s.secDeny j 1
      else s.hostRead (.job j.id) (addr8 (j.w 2)) 26)

/-- Words of host memory have arrived for a descriptor of the island. -/
def State.secData (s : State) (j : Job) (ws : List Nat) : State :=
  let s := s.setJob { j with acc := j.acc ++ ws }
  if j.op = 0x40 || j.stage = 3 then s.secAsk (.bundle j.id) else s.secAsk (.job j.id)

/-- A read of host memory for such a descriptor failed (R402). -/
def State.secHostError (s : State) (j : Job) : State :=
  let z := bitsAt (j.w 1) 0 2
  let s := if j.op = 0x40 then s.zSetState z (s.zcore z).loadFrom else s
  s.commit j stHostError 0

/-- ZILLO_LOAD (R383): the bundle is staged. -/
def execZilloLoad (t : Nat) (sq : Fin 256) (s : State) : Host.Outcome State Fault Refusal :=
  .next ((s.at_ t).startDesc sq.val 0x40 (fun j s =>
    let z := bitsAt (j.w 1) 0 2
    let st := s.zState z
    if s.isolated kCore z then s.commit j stDone 0
    else if st ≠ zEmpty && st ≠ zHalted && st ≠ zTrapped then s.commit j stBusy 0
    else
      let s := (s.setZcore z { s.zcore z with loadFrom := st }).zSetState z zLoading
      let n := ceilDiv (bitsAt (j.w 3) 0 32) 8
      if n = 0 then s.secAsk (.bundle j.id) else s.hostRead (.job j.id) (addr8 (j.w 2)) n))

/-- BUNDLE_VERIFY_DONE (R539): the verification of a descriptor's bundle ends. -/
def execBundleVerifyDone (t : Nat) (s : State) : Host.Outcome State Fault Refusal :=
  let s := s.at_ t
  .next (match s.secq.head? with
  | some (.bundle id) =>
    let s := s.secPop
    match s.job id with
    | none => s
    | some j => if j.op = 0x40 then s.loadJudge j else s.storeJudge j
  | _ => s)

/-- ATTEST (R542). -/
def execAttest (t : Nat) (sq : Fin 256) (s : State) : Host.Outcome State Fault Refusal :=
  .next ((s.at_ t).startDesc sq.val 0x50 (fun j s => s.secAsk (.job j.id)))

/-- GET_ID (R546): both public keys and the peer's signature over this die's. -/
def execGetId (t : Nat) (sq : Fin 256) (s : State) : Host.Outcome State Fault Refusal :=
  let s := s.at_ t
  .next (match s.nextDesc sq.val with
  | none => s
  | some j =>
    if j.secOp ≠ 0 then s
    else s.startDesc sq.val 0x51 (fun j s =>
      let x := s.sec s.dx.die
      let fit (l : List Nat) (n : Nat) : List Nat := l ++ List.replicate (n - l.length) 0
      let own := (s.idKey s.dx.die).getD []
      s.secOut j (fit own 64 ++ fit x.peerKey 64 ++ fit (if own = [] then [] else x.xsig) 120)))

/-- ENROL_ID (R546). -/
def execEnrolId (t : Nat) (sq : Fin 256) (s : State) : Host.Outcome State Fault Refusal :=
  .next ((s.at_ t).secStart sq.val 1)

/-- ENROL_OWNER (R546). -/
def execEnrolOwner (t : Nat) (sq : Fin 256) (s : State) : Host.Outcome State Fault Refusal :=
  .next ((s.at_ t).secStart sq.val 2)

/-- REVOKE_OWNER (R546). -/
def execRevokeOwner (t : Nat) (sq : Fin 256) (s : State) : Host.Outcome State Fault Refusal :=
  .next ((s.at_ t).secStart sq.val 3)

/-- STORE_BOOT (R546). -/
def execStoreBoot (t : Nat) (sq : Fin 256) (s : State) : Host.Outcome State Fault Refusal :=
  .next ((s.at_ t).secStart sq.val 4)

/-- ADVANCE_SVN (R546). -/
def execAdvanceSvn (t : Nat) (sq : Fin 256) (s : State) : Host.Outcome State Fault Refusal :=
  .next ((s.at_ t).secStart sq.val 5)

/-- DEBUG_OPEN (R549). -/
def execDebugOpen (t : Nat) (sq : Fin 256) (s : State) : Host.Outcome State Fault Refusal :=
  .next ((s.at_ t).secStart sq.val 6)

/-- DEBUG_CLOSE (R550). -/
def execDebugClose (t : Nat) (sq : Fin 256) (s : State) : Host.Outcome State Fault Refusal :=
  let s := s.at_ t
  .next (match s.nextDesc sq.val with
  | none => s
  | some j =>
    if j.secOp ≠ 7 then s
    else s.startDesc sq.val 0x51 (fun j s => (s.wr F.SEC_STATUS_DEBUG s.dx.die 0).commit j stDone 0))

/-- CROSS_CERTIFY (R536): on VT8 each die with a LIVE identity signs the other's public key. -/
def execCrossCertify (t : Nat) (s : State) : Host.Outcome State Fault Refusal :=
  let s := s.at_ t
  .next (match s.part, s.idSeed 0, s.idSeed 1 with
  | .vt8, some a, some b =>
    let s := s.setSec 0 { s.sec 0 with peerKey := edPublic b, xsig := edSign b "Crita xcert" (edPublic a) }
    s.setSec 1 { s.sec 1 with peerKey := edPublic a, xsig := edSign a "Crita xcert" (edPublic b) }
  | _, _, _ => s)

end Sys2Proof.Machine
end

