-- ==== Sys2Proof/Machine/Rings.lean ====
section
/-! DEFINITION. Descriptor rings (14_host_rings.md): doorbells, descriptor fetch, the descriptors of the Tenons and the
memories, abort, record rings, ring enable and disable, host reset, MSI-X. -/

namespace Sys2Proof.Machine

open Sys2Proof

/-! ### Record buffers -/

/-- Packets that a reader had taken and has not delivered, back at the head of their queues. -/
def State.untake (s : State) (l : List (Nat × Nat)) : State :=
  l.foldl (fun s x => s.setQueue x.1 { s.queue x.1 with taken := (s.queue x.1).taken - x.2 }) s

/-- A record ring's open buffer abandoned: its packets stay in their queues. -/
def State.recAbandon (s : State) (i : Nat) : State :=
  let x := s.ring rkRec i
  let s := match x.buf with | none => s | some b => s.untake b.takes
  s.setRing rkRec i { s.ring rkRec i with buf := none, bufs := [], known := 0, busy := false }

/-- A record ring halted: its open buffer and the buffers whose data have not been acknowledged are given up, and their
packets stay in their queues (R418, R420). -/
def State.haltRec (s : State) (i cause : Nat) : State :=
  let mine (e : CEntry) : Bool := e.buffer && e.rr == i
  let gone := s.engine.filter mine
  let s := { s with
    engine := s.engine.filter (fun e => !mine e)
    fabWrites := s.fabWrites.filter (fun w => !(w.kind == rkRec && w.ring == i && w.entry.isNone)) }
  ((s.untake (gone.flatMap (·.takes))).recAbandon i).haltRing rkRec i cause

/-- A ring of any kind halted. -/
def State.haltAny (s : State) (k i cause : Nat) : State := if k = rkRec then s.haltRec i cause else s.haltRing k i cause

/-- Posted buffers of a record ring read from host memory, eight at most at a time. -/
def State.recFetch (s : State) (i : Nat) : State :=
  let x := s.ring rkRec i
  let size := s.ringSize rkRec i
  let at0 := (x.head + x.known) % size
  let n := min (min 8 (s.ringCount rkRec i - x.known)) (size - at0)
  if !s.ringOn rkRec i || x.busy || n = 0 then s
  else (s.setRing rkRec i { x with busy := true }).hostRead (.bufs i at0 n) (s.entryAddr rkRec i at0 16) (n * 2)

/-- Buffer entries of a record ring have arrived. -/
def State.recEntries (s : State) (i slot n : Nat) (ws : List Nat) : State :=
  let x := s.ring rkRec i
  if !s.ringOn rkRec i || !x.busy then s
  else
    let l := (List.range n).map (fun k => ((slot + k) % s.ringSize rkRec i, ws.getD (2 * k) 0 / 4096 * 4096))
    (s.setRing rkRec i { x with busy := false, known := x.known + n, bufs := x.bufs ++ l }).recFetch i

/-- The buffer at a record ring's head, opened when it is known. -/
def State.recOpen (s : State) (i : Nat) : State :=
  let x := s.ring rkRec i
  match x.buf, x.bufs with
  | none, (slot, a) :: rest => s.setRing rkRec i { x with buf := some { slot := slot, addr := a }, bufs := rest }
  | _, _ => s

/-- A buffer that holds records closed: its entry enters the completion engine and the ring's head moves on (R411). -/
def State.recClose (s : State) (i : Nat) : State :=
  let x := s.ring rkRec i
  match x.buf with
  | none => s
  | some b =>
    if b.recs = 0 then s
    else
      let e : CEntry := {
        cq := s.boundTo rkRec i, buffer := true, rr := i, slot := b.slot, recs := b.recs, bytes := b.used, takes := b.takes }
      let s := { s with engine := s.engine ++ [e] }
      s.setRing rkRec i { x with buf := none, head := (x.head + 1) % s.ringSize rkRec i, known := x.known - 1 }

/-- FLUSH µs after its first record the buffer at a record ring's head closes, unless the completion ring has no room (R405,
R411). -/
def State.recFlush (s : State) (i : Nat) : State :=
  match (s.ring rkRec i).buf with
  | none => s
  | some b =>
    if s.ringOn rkRec i && !s.compBlocked (s.boundTo rkRec i)
        && decide (b.since + s.rd F.RING_FLUSH_FLUSH (ringIx rkRec i) * usF ≤ s.now) then s.recClose i
    else s

/-- RECORD_RING_TAKE (R411, R412): the next packet placed in the buffer at the ring's head, or the buffer closed where it
does not fit. -/
def State.recTake (s : State) (i : Nat) : State :=
  if !s.ringOn rkRec i then s
  else
    let s := ((s.recFlush i).recFetch i).recOpen i
    match (s.ring rkRec i).buf, s.readerPick 1 i with
    | some b, some q =>
      let len := match s.nextPkt q with | none => 0 | some p => p.rec_.len * 8
      if 65536 < b.used + len then (if s.compBlocked (s.boundTo rkRec i) then s else s.recClose i)
      else
        let (r, s) := s.takePkt q
        let s := s.readerTook 1 i q
        match r with
        | none => s
        | some (_, ws) =>
          let s := s.hostPut rkRec i b.slot (b.addr + b.used) ws
          s.setRing rkRec i { s.ring rkRec i with buf := some { b with
            used := b.used + ws.length * 8, recs := b.recs + 1, takes := b.takes ++ [(q, 1)]
            since := if b.recs = 0 then s.now else b.since } }
    | _, _ => s

def execRecordRingTake (t : Nat) (ring : Fin 1024) (s : State) : Host.Outcome State Fault Refusal :=
  .next ((s.at_ t).recTake ring.val)

/-- RECORD_BUFFER_FLUSH (R411): FLUSH µs after the buffer's first record. -/
def execRecordBufferFlush (t : Nat) (ring : Fin 1024) (s : State) : Host.Outcome State Fault Refusal :=
  .next ((s.at_ t).recFlush ring.val)

/-! ### Doorbells (R390, R391, R421, R465) -/

/-- The index that the host sets of ring i of kind k: a submission or record ring's tail, a completion ring's head. -/
def State.setIndex (s : State) (k i v : Nat) : State :=
  if !s.on F.RING_CFG_EN (ringIx k i) then s
  else
    let v := min v (s.ringSize k i - 1)
    let x := s.ring k i
    if k = rkComp then s.setRing k i { x with head := v }
    else
      let s := s.setRing k i { x with tail := v }
      if k = rkRec then s.recFetch i else s

def State.bell (s : State) (p : Nat) : BellPage := smapGet {} s.bells p
def State.setBell (s : State) (p : Nat) (x : BellPage) : State := { s with bells := smapSet {} s.bells p x }

/-- Whether doorbells of W2 page p wait under R466. -/
def State.bellHeld (s : State) (p : Nat) : Bool := s.holds.any (fun h => h.page == some p && decide (s.now < h.until_))

/-- The next doorbell message of a W2 page sent, one at a time (R465). -/
def State.bellSend (s : State) (p : Nat) : State :=
  let x := s.bell p
  match x.flight, x.queue with
  | none, w :: rest =>
    if s.bellHeld p then s
    else
      let (tag, s) := s.newTag
      (s.setBell p { flight := some (w, tag, 0, s.now), queue := rest }).originate
        { dest := w % 2 ^ 16, vc := 1, ty := frDoorbell, tag := tag, words := [w] }
  | _, _ => s

/-- The index that a doorbell message sets (R421). -/
def State.bellIndex (s : State) (w : Nat) : State :=
  let k := bitsAt w 16 2
  let i := bitsAt w 18 10
  if k = 3 || (k < 2 && 256 ≤ i) then s else s.setIndex k i (bitsAt w 32 32)

/-- REMOTE_DB's 64 bits w taken on page p (R421). -/
def State.remoteDb (s : State) (p w : Nat) : State :=
  let node := w % 2 ^ 16
  if bitsAt w 16 2 = 3 then s
  else if node = 0 || node = s.nodeId then s.bellIndex w
  else
    let x := s.bell p
    (s.setBell p { x with queue := x.queue ++ [w] }).bellSend p

/-- A doorbell taken: off is its offset in W2; for REMOTE_DB half is 0 for a 64-bit write, 1 for the low half, 2 for the
high half, and otherwise 0. -/
def State.bellNow (s : State) (off half v : Nat) : State :=
  let p := off / 4096
  let o := off % 4096
  if o = 0 then s.setIndex rkSub p v
  else if o = 8 then s.setIndex rkComp p v
  else if o = 0x800 then
    if half = 1 then
      { s with held := smapSet none s.held (2 ^ 30 + p) (some (v % 2 ^ 32)), bellLow := smapSet 0 s.bellLow p (v % 2 ^ 32) }
    else
      let low := if half = 0 then v % 2 ^ 32 else (smapGet none s.held (2 ^ 30 + p)).getD (smapGet 0 s.bellLow p)
      let hi := if half = 0 then bitsAt v 32 32 else v % 2 ^ 32
      { s with held := smapSet none s.held (2 ^ 30 + p) none, bellLow := smapSet 0 s.bellLow p low }.remoteDb p
        (low + hi * 2 ^ 32)
  else s.setIndex rkRec (4 * p + (o - 0x10) / 8) v

/-- A write of W2: discarded where its byte enables be do not cover the 32-bit words it names; a change of a ring position
is an action of R485. -/
def State.bellWrite (s : State) (off half be v : Nat) : State :=
  if be ≠ (if off % 4096 = 0x800 && half = 0 then 255 else 15) then s.wr F.ID_STATUS_BAD_ACCESS 0 1
  else if !s.hostIfOn then s
  else if s.journaling then s.journal (.bell off half v)
  else s.bellNow off half v

/-- The 32-bit word at W2 offset off as a read returns it: a doorbell's index in use (R391), zero at a reserved offset (R6), and
an open value at REMOTE_DB, which has no index of this node. -/
def State.bellWord (s : State) (off : Nat) : Nat :=
  let p := off / 4096 % 256
  let o := off % 4096
  if o = 0 then (s.ring rkSub p).tail
  else if o = 8 then (s.ring rkComp p).head
  else if o = 0x800 || o = 0x804 then Config.openRead 2001 off s.now % 2 ^ 32
  else if 0x10 ≤ o && o < 0x30 && o % 8 = 0 then (s.ring rkRec (4 * p + (o - 0x10) / 8)).tail
  else 0

/-- What a read of len bytes at W2 offset off returns. -/
def State.bellRead (s : State) (off len : Nat) : Nat :=
  let w := (List.range (ceilDiv (off % 4 + len) 4)).foldl (fun v k => v + s.bellWord (off / 4 * 4 + 4 * k) * 2 ^ (32 * k)) 0
  bitsAt w (off % 4 * 8) (len * 8)

/-- SQ_TAIL (R390). -/
def execSqTail (t : Nat) (page : Fin 256) (be : BitVec 4) (value : BitVec 32) (s : State) :
    Host.Outcome State Fault Refusal :=
  .next ((s.at_ t).bellWrite (page.val * 4096) 0 be.toNat value.toNat)

/-- CQ_HEAD (R390). -/
def execCqHead (t : Nat) (page : Fin 256) (be : BitVec 4) (value : BitVec 32) (s : State) :
    Host.Outcome State Fault Refusal :=
  .next ((s.at_ t).bellWrite (page.val * 4096 + 8) 0 be.toNat value.toNat)

/-- RR_TAIL (R390): record ring 4p + j. -/
def execRrTail (t : Nat) (page : Fin 256) (j : Fin 4) (be : BitVec 4) (value : BitVec 32) (s : State) :
    Host.Outcome State Fault Refusal :=
  .next ((s.at_ t).bellWrite (page.val * 4096 + 0x10 + j.val * 8) 0 be.toNat value.toNat)

/-- REMOTE_DB (R421): a 64-bit write (half 0), or a 32-bit write of the low (1) or high (2) half. -/
def execRemoteDb (t : Nat) (page : Fin 256) (half : Fin 3) (be : BitVec 8) (value : BitVec 64) (s : State) :
    Host.Outcome State Fault Refusal :=
  .next ((s.at_ t).bellWrite (page.val * 4096 + 0x800) half.val be.toNat value.toNat)

/-- DOORBELL_RESEND_TIMEOUT (R465): after PROXY_TIMEOUT the doorbell of a page is sent again, at most twice, and then given
up with HALT. -/
def execDoorbellResendTimeout (t : Nat) (page : Fin 256) (s : State) : Host.Outcome State Fault Refusal :=
  let s := s.at_ t
  let p := page.val
  let x := s.bell p
  let limit := s.rd F.HR_GW_PROXY_TIMEOUT 0 * usF
  .next (match x.flight with
  | none => s
  | some (w, tag, tries, since) =>
    if s.now < since + limit then s
    else if tries < 2 then
      let h : Hold := { addr := 0, bytes := 0, page := some p, until_ := s.now + limit }
      let s := { s with holds := s.holds ++ [h] }
      (s.setBell p { x with flight := some (w, tag, tries + 1, s.now) }).originate
        { dest := w % 2 ^ 16, vc := 1, ty := frDoorbell, tag := tag, words := [w] }
    else ((s.setBell p { x with flight := none }).hrStick F.HR_STATUS_HALT 0 (3 + p * 2 ^ 16)).bellSend p)

/-! ### Descriptor fetch (R392) -/

/-- Descriptors of one ring that may be in execution. -/
def maxJobs : Nat := 64

/-- The descriptors that a fetch from submission ring i would bring now: the ring is enabled and not empty, its completion
ring is neither full nor disabled, fewer than 64 of its descriptors are in execution, and no fetch is under way. -/
def State.fetchable (s : State) (i : Nat) : Nat :=
  let x := s.ring rkSub i
  let size := s.ringSize rkSub i
  let n := min (min 8 (s.ringCount rkSub i)) (min (maxJobs - (s.jobs.filter (fun j => j.sq == i)).length) (size - x.head))
  if s.ringOn rkSub i && !x.busy && !s.compBlocked (s.boundTo rkSub i) then n else 0

/-- A fetch of n descriptors from ring i started. -/
def State.descFetch (s : State) (i n : Nat) : State :=
  if n = 0 then s
  else
    let x := s.ring rkSub i
    let s := { s with lastSq := i + 1 }
    (s.setRing rkSub i { x with busy := true }).hostRead (.descs i x.head n) (s.entryAddr rkSub i x.head 64) (n * 8)

/-- The submission ring that is fetched from next: the highest PRIO, equal PRIO round-robin. -/
def State.fetchPick (s : State) : Option Nat :=
  let rs := ((s.rings.map (·.1)).filter (fun k => k < 256)).filter (fun i => decide (0 < s.fetchable i))
  let top := rs.foldl (fun m i => max m (s.rd F.RING_CFG_PRIO (ringIx rkSub i))) 0
  let best := rs.filter (fun i => s.rd F.RING_CFG_PRIO (ringIx rkSub i) == top)
  match best.find? (fun i => decide (s.lastSq ≤ i)) with
  | some i => some i
  | none => best.head?

/-- DESCRIPTOR_FETCH (R392). -/
def execDescriptorFetch (t : Nat) (s : State) : Host.Outcome State Fault Refusal :=
  let s := s.at_ t
  .next (
    if s.poAsserted then s
    else match s.fetchPick with
      | none => s
      | some i => s.descFetch i (s.fetchable i))

/-- n descriptors of ring i, from a slot on, have arrived. An ABORT notes how many descriptors of its target's ring still lie
between that ring's head and its tail (R408); those it waits for are counted off as they come. -/
def State.descsArrived (s : State) (i slot n : Nat) (ws : List Nat) : State :=
  let x := s.ring rkSub i
  let s := s.setRing rkSub i { x with busy := false, head := (slot + n) % s.ringSize rkSub i }
  let s := { s with jobs := s.jobs.map (fun j =>
    if j.op = 0x01 && bitsAt (j.w 1) 0 8 = i then { j with aux := j.aux - n } else j) }
  (List.range n).foldl (fun s k =>
    let ws8 := (ws.drop (8 * k)).take 8
    let j : Job := {
      id := s.nextJob, sq := i, slot := (slot + k) % s.ringSize rkSub i, words := ws8
      cq := s.boundTo rkSub i, next := (slot + k + 1) % s.ringSize rkSub i }
    let j := if j.op = 0x01 then { j with aux := s.ringCount rkSub (bitsAt (j.w 1) 0 8) } else j
    { s with jobs := s.jobs ++ [j], nextJob := s.nextJob + 1 }) s

/-! ### Cancelling (R410) -/

/-- A descriptor's work stopped where it stands; the progress that it reports. -/
def State.cancelWork (s : State) (j : Job) : Nat × State :=
  let s := s.dropReads (fun u => u == .job j.id)
  let keep (l : List Act) : List Act := l.filter (fun a => a != .run j.id)
  let s := { s with dx := { s.dx with
    acts := keep s.dx.acts, due := keep s.dx.due
    cycles := s.dx.cycles.map (fun (c : Cycle) => { c with acts := keep c.acts }) } }
  if !j.started then (0, s)
  else if j.op = 0x12 then
    (j.prog, { s with caps := s.caps.map (fun p => (p.1, { p.2 with
      reads := p.2.reads.filter (fun x => x.1 != j.id)
      segs := if p.2.reads.any (fun x => x.1 == j.id) then p.2.segs.map (fun g => { g with sent := 0 }) else p.2.segs })) })
  else if j.op = 0x20 then
    match s.pool.scrubs.find? (fun x => x.job == j.id) with
    | none => (0, s)
    | some x => s.scrubCut j x
  else if j.op = 0x21 then
    match s.pool.repair with
    | none => (0, s)
    | some r => if r.job = j.id then (r.moved, s.repairAbort) else (0, s)
  else if j.op = 0x30 then (j.prog, s.seifDrop j.id)
  else if j.op = 0x31 then (j.pos, (s.seifDrop j.id).unseifNext)
  else if j.op = 0x40 then
    let z := bitsAt (j.w 1) 0 2
    -- how much of a bundle whose verification is under way has been verified is open; one that waits has had none
    let n := if s.secq.head? = some (.bundle j.id) then Config.freeBits 32 s.free % (bitsAt (j.w 3) 0 32 + 1) else 0
    let s := { s.secDrop j.id with free := s.free + 1 }
    (n, if s.zState z = zLoading then s.zSetState z (s.zcore z).loadFrom else s)
  else (0, s.secDrop j.id)

/-- A target cancelled: it completes with ABORTED and its progress. -/
def State.cancel (s : State) (j : Job) : State :=
  let (n, s) := s.cancelWork j
  s.commit j stAborted n

/-- The descriptors that a fetch for an ABORT brings of the aux it still waits for: the ring's, up to the tail noted, however
many are in execution and whether or not the completion ring is full (R408). -/
def State.abortFetchable (s : State) (k aux : Nat) : Nat :=
  if s.ringOn rkSub k && !(s.ring rkSub k).busy then
    min (min 8 aux) (min (s.ringCount rkSub k) (s.ringSize rkSub k - (s.ring rkSub k).head))
  else 0

/-- ABORT (R408, R409): judged once its target's ring has been fetched up to the tail noted. -/
def State.abort (s : State) (j : Job) : State :=
  let k := bitsAt (j.w 1) 0 8
  let n := s.abortFetchable k j.aux
  if 0 < j.aux && (0 < n || (s.ring rkSub k).busy) then s.descFetch k n
  else
    match s.jobs.find? (fun x => x.sq == k && x.cid == bitsAt (j.w 1) 16 16 && x.id != j.id) with
    | none => s.commit j stAlreadyDone 0
    | some x => if x.op = 0x01 then s.commit j stAlreadyDone 0 else (s.cancel x).commit j stDone 0

/-- ABORT: the next descriptor of ring sq, or one that has waited for its target's ring. -/
def execAbort (t : Nat) (sq : Fin 256) (s : State) : Host.Outcome State Fault Refusal :=
  let s := s.at_ t
  .next (match s.jobs.find? (fun j => j.sq == sq.val && j.started && j.op == 0x01) with
  | some j => s.abort j
  | none => s.startDesc sq.val 0x01 (fun j s => s.abort j))

/-! ### Descriptors without an engine of their own -/

/-- NOP_DESCRIPTOR (R397). -/
def execNopDescriptor (t : Nat) (sq : Fin 256) (s : State) : Host.Outcome State Fault Refusal :=
  .next ((s.at_ t).startDesc sq.val 0x00 (fun j s => s.commit j stDone 0))

/-- The opcodes of R397. -/
def opcodes : List Nat :=
  [0x00, 0x01, 0x02, 0x03, 0x10, 0x11, 0x12, 0x13, 0x14, 0x15, 0x20, 0x21, 0x30, 0x31, 0x40, 0x50, 0x51, 0x60, 0x61]

/-- BAD_OPCODE (R395). -/
def execBadOpcode (t : Nat) (sq : Fin 256) (s : State) : Host.Outcome State Fault Refusal :=
  let s := s.at_ t
  .next (match s.nextDesc sq.val with
  | none => s
  | some j => if opcodes.contains j.op then s else s.commit j stBadOpcode 0)

/-! ### Descriptors of the Tenons (R396, R397) -/

/-- The Plumb time in words 2 and 3 of a descriptor. -/
def Job.time (j : Job) : Nat := j.w 2 % 2 ^ 64 + bitsAt (j.w 3) 0 16 * 2 ^ 64

/-- The channels that words 2 and 3 of a descriptor name. -/
def Job.channels (j : Job) : List Nat :=
  (List.range 128).filter (fun c => (j.w (2 + c / 64)).testBit (c % 64))

/-- A CAPTURE_READ whose named segments are all done with completes; segments that no longer exist are passed over
(R158). -/
def State.readSettle (s : State) (i : Nat) : State :=
  let k := s.cap i
  let reads := k.reads.filter (fun x => k.segs.any (fun g => g.num == x.2))
  let s := if reads = k.reads then s else s.setCap i { k with reads := reads }
  let done := s.jobs.filter (fun j => j.started && j.op == 0x12 && j.stage == 1
    && chIx (bitsAt (j.w 1) 0 3) (bitsAt (j.w 1) 8 7) == i && !reads.any (fun x => x.1 == j.id))
  done.foldl (fun s j => s.commit j stDone j.prog) s

/-- The CAPTURE_READs of a Tenon whose named segments are gone complete (R158). -/
def State.readsSettle (s : State) (t : Nat) : State := (List.range 128).foldl (fun s c => s.readSettle (chIx t c)) s

/-- ALLOTMENT_CHANGE: PAGES and AVG written, AVG in SETUP alone (R134, R137, R138, R158). -/
def execAllotmentChange (t : Nat) (tenon : Fin 6) (ch : Fin 128) (pages : BitVec 12) (avg : BitVec 4) (s : State) :
    Host.Outcome State Fault Refusal :=
  let s := s.at_ t
  .next (
    if s.reachable tenon.val && s.mode == mSetup then (s.setAllot tenon.val ch.val pages.toNat avg.toNat).readsSettle tenon.val
    else s)

/-- What CAPTURE_ARM does once it may (R154). -/
def Job.runArm (j : Job) (s : State) : State :=
  let tn := bitsAt (j.w 1) 0 3
  if !s.reachable tn then s.commit j stDone 0
  else
    let cs := j.channels.filter (fun c => s.rd F.CAP_PAGES_PAGES (chIx tn c) != 0)
    (cs.foldl (fun s c => (s.capArm tn c).readSettle (chIx tn c)) s).commit j stDone cs.length

/-- CAPTURE_ARM (R154). -/
def execCaptureArm (t : Nat) (sq : Fin 256) (s : State) : Host.Outcome State Fault Refusal :=
  .next ((s.at_ t).startAction sq.val 0x10 Job.runArm)

/-- What CAPTURE_STOP does once it may (R157). -/
def Job.runStop (j : Job) (s : State) : State :=
  let tn := bitsAt (j.w 1) 0 3
  if !s.reachable tn then s.commit j stDone 0
  else
    let n := (j.channels.filter (fun c => s.capState (chIx tn c) != csStopped)).length
    (j.channels.foldl (fun s c => s.capStop tn c) s).commit j stDone n

/-- CAPTURE_STOP (R157). -/
def execCaptureStop (t : Nat) (sq : Fin 256) (s : State) : Host.Outcome State Fault Refusal :=
  .next ((s.at_ t).startAction sq.val 0x11 Job.runStop)

/-- What CAPTURE_READ does once it may (R158). -/
def Job.runRead (j : Job) (s : State) : State :=
  let tn := bitsAt (j.w 1) 0 3
  let c := bitsAt (j.w 1) 8 7
  let i := chIx tn c
  if !s.reachable tn || s.rd F.CAP_CTRL_MODE i = 1 then s.commit j stDone 0
  else
    let first := bitsAt (j.w 1) 16 10
    let n := clampN 1 1024 (bitsAt (j.w 1) 32 11)
    let k := s.cap i
    let nums := ((List.range n).map (first + ·)).filter (fun m => k.segs.any (fun g => g.num == m))
    let s := s.setJob { j with stage := 1 }
    (s.setCap i { k with reads := k.reads ++ nums.map (fun m => (j.id, m)) }).readSettle i

/-- CAPTURE_READ (R158): the named segments of a channel in HOLD mode wait for the transmit FIFO. -/
def execCaptureRead (t : Nat) (sq : Fin 256) (s : State) : Host.Outcome State Fault Refusal :=
  .next ((s.at_ t).startAction sq.val 0x12 Job.runRead)

/-- SEGMENT_RECORD_ENQUEUE (R160, R161): a segment record goes into the transmit FIFO, and its CAPTURE_READ goes on. -/
def execSegmentRecordEnqueue (t : Nat) (tenon : Fin 6) (ch : Fin 128) (s : State) : Host.Outcome State Fault Refusal :=
  let s := s.at_ t
  let i := chIx tenon.val ch.val
  .next (
    let (r, s) := (s.readSettle i).segStep tenon.val ch.val
    match r with
    | none => s
    | some (id, done, bad) =>
      match s.job id with
      | none => s.readSettle i
      | some j =>
        if bad then s.commit j stUncorrectable j.prog
        else ((if done then s.setJob { j with prog := j.prog + 1 } else s)).readSettle i)

/-- A broadcast that this node originates, on every available port (R467). -/
def State.broadcast (s : State) (aux : Nat) (ws : List Nat) : State :=
  if s.nodeId = 0xFFFF then s
  else
    let tag := s.bcastTag
    let own : Seen := { src := s.nodeId, tag := tag, at_ := s.now }
    let s := { s with
      bcastTag := (tag + 1) % 16384
      seen := (s.seen ++ [own]).drop ((s.seen.length + 1) - 64) }
    let f : Frame := { dest := 0xFFFF, src := s.nodeId, vc := 0, ty := frBcast, tag := tag, aux := aux, words := ws }
    (List.range 8).foldl (fun s k =>
      let p := s.portBase + k
      if s.available p then s.portPut p f none else s) s

/-- A Plumb-timed trigger handed to the Tenons of a mask (R142), in commands that are actions of R485. -/
def State.triggerMask (s : State) (mask time : Nat) : State :=
  if s.journaling then s.journal (.trig mask time)
  else
    (List.range 6).foldl (fun s t =>
      if bitAt mask t && s.reachable t then s.fabTrig t (plumbOfWord time) else s) s

/-- What TRIGGER_AT does once it may. -/
def Job.runTrigger (j : Job) (s : State) : State :=
  let mask := bitsAt (j.w 1) 0 6
  let s := s.triggerMask mask j.time
  let s := if bitAt (j.w 1) 8 then s.broadcast 1 [j.time % 2 ^ 64, j.time / 2 ^ 64 + mask * 2 ^ 16] else s
  s.commit j stDone 0

/-- TRIGGER_AT (R142, R398). -/
def execTriggerAt (t : Nat) (sq : Fin 256) (s : State) : Host.Outcome State Fault Refusal :=
  .next ((s.at_ t).startAction sq.val 0x13 Job.runTrigger)

/-- What PULSE_AT does once it may (R399). -/
def Job.runPulse (j : Job) (s : State) : State :=
  let tn := bitsAt (j.w 1) 0 3
  let c := bitsAt (j.w 1) 8 7
  let x := plumbOfWord j.time
  if !s.reachable tn then s.commit j stDone 0
  else if s.rd F.CH_PULSER_MODE (chIx tn c) ≠ 2 then s.commit j stIgnored 0
  else if x ≤ s.plumbOfTenon tn (s.now : Int) then s.commit j stLate 0
  else (s.setTenon tn { s.tenon tn with pulses := (s.tenon tn).pulses ++ [(c, x)] }).commit j stDone 0

/-- PULSE_AT (R399): the channel's pulser will fire at T. -/
def execPulseAt (t : Nat) (sq : Fin 256) (s : State) : Host.Outcome State Fault Refusal :=
  .next ((s.at_ t).startAction sq.val 0x14 Job.runPulse)

/-- PULSE_AT_FIRE (R399): Plumb time has reached the T of an accepted PULSE_AT. -/
def execPulseAtFire (t : Nat) (tenon : Fin 6) (ch : Fin 128) (s : State) : Host.Outcome State Fault Refusal :=
  let s := s.at_ t
  let tn := tenon.val
  let x := s.tenon tn
  let due (p : Nat × Int) : Bool := p.1 == ch.val && decide (p.2 ≤ s.plumbOfTenon tn (s.now : Int))
  .next (
    if x.pulses.any due then (s.setTenon tn { x with pulses := x.pulses.filter (fun p => !due p) }).firePulser tn ch.val
    else s)

/-- What SYNC_AT does once it may (R399). -/
def Job.runSync (j : Job) (s : State) : State :=
  let sec := bitsAt (j.w 2) 0 40
  let (ok, s) := s.syncCommand sec
  let s := if bitAt (j.w 1) 8 then s.broadcast 2 [sec] else s
  s.commit j (if ok then stDone else stLate) 0

/-- SYNC_AT (R123, R398, R400). -/
def execSyncAt (t : Nat) (sq : Fin 256) (s : State) : Host.Outcome State Fault Refusal :=
  .next ((s.at_ t).startAction sq.val 0x15 Job.runSync)

/-! ### Scrub and bank repair descriptors (R325, R330, R331) -/

/-- Whether a memory can be reached: a Tenon's only while commands reach the Tenon. -/
def State.memReach (s : State) (m : Nat) : Bool := decide (0 < s.memSize m) && (m < 32 || s.reachable (m - 32))

/-- SCRUB (R325). -/
def execScrub (t : Nat) (sq : Fin 256) (s : State) : Host.Outcome State Fault Refusal :=
  .next ((s.at_ t).startDesc sq.val 0x20 (fun j s =>
    let m := bitsAt (j.w 1) 0 8
    if !s.memReach m then s.commit j stDone 0
    else
      let x : Scrub := { job := j.id, mem := m, first := bitsAt (j.w 2) 0 23, count := bitsAt (j.w 3) 0 32 }
      { s with pool := { s.pool with scrubs := s.pool.scrubs ++ [x] } }))

/-- SCRUB_DONE (R325): the oldest scrub of ring sq has read its range. -/
def execScrubDone (t : Nat) (sq : Fin 256) (s : State) : Host.Outcome State Fault Refusal :=
  let s := s.at_ t
  .next (match s.pool.scrubs.find? (fun x => (s.job x.job).any (fun j => j.sq == sq.val)) with
  | none => s
  | some x =>
    match s.job x.job with
    | none => s
    | some j =>
      let (ws, s) := s.scrubEnd x (s.scrubCount x)
      let s := if addr8 (j.w 4) = 0 then s else s.hostPut rkJob j.sq j.slot (addr8 (j.w 4)) ws
      s.commit j stDone (ws.getD 1 0 / 2 ^ 32))

/-- BANK_REPAIR (R330). -/
def execBankRepair (t : Nat) (sq : Fin 256) (s : State) : Host.Outcome State Fault Refusal :=
  .next ((s.at_ t).startDesc sq.val 0x21 (fun j s =>
    let bank := bitsAt (j.w 1) 0 4
    let act := if bitsAt (j.w 1) 8 2 = 3 then 0 else bitsAt (j.w 1) 8 2
    let (ok, s) := s.repairStart j.id bank act (bitsAt (j.w 1) 16 9)
    if !ok then s.commit j stBusy (s.sparesUsed bank)
    else if act = 2 then s.commit j stDone (s.sparesUsed bank)
    else s))

/-- BANK_REPAIR_DONE (R331): the migration and the pattern check have ended, ok telling what the check found. -/
def execBankRepairDone (t : Nat) (ok : Bool) (s : State) : Host.Outcome State Fault Refusal :=
  let s := s.at_ t
  .next (match s.repairDone ok with
  | (none, s) => s
  | (some (r, good), s) =>
    match s.job r.job with
    | none => s
    | some j => s.commit j (if good then stDone else stFailed) (s.sparesUsed r.bank))

/-! ### Enabling and disabling rings (R419) -/

/-- Whether a read serves ring i of kind k itself: its descriptors or its buffers. -/
def ReadUse.ofRing (u : ReadUse) (k i : Nat) : Bool :=
  match u with
  | .descs q _ _ => k == rkSub && q == i
  | .bufs q _ _ => k == rkRec && q == i
  | .job _ => false

/-- The entries of completion ring i that its gateway has not acknowledged, back at the head of the engine: they are among
those that the ring, once enabled again, writes from slot 0 (R417, R419). -/
def State.entriesBack (s : State) (i : Nat) : State :=
  let mine (w : FabWrite) : Bool := w.entry.any (fun e => e.cq == i)
  { s with
    engine := (s.fabWrites.filter mine).filterMap (·.entry) ++ s.engine
    fabWrites := s.fabWrites.filter (fun w => !mine w) }

/-- RING_CFG.EN of a ring from 0 to 1: head and tail 0, PHASE 1, RING_ERR clear. -/
def State.ringEnable (s : State) (k i : Nat) : State :=
  let r := ringIx k i
  if s.on F.RING_CFG_EN r then s
  else
    -- a read started before the ring was disabled is forgotten
    let s := s.dropReads (fun u => u.ofRing k i)
    let s := if k = rkComp then s.entriesBack i else s
    (((s.setRing k i {}).wr F.RING_CFG_EN r 1).wr F.RING_ERR_HALTED r 0).wr F.RING_ERR_CAUSE r 0

/-- RING_CFG.EN of a ring from 1 to 0: nothing is cancelled. -/
def State.ringDisable (s : State) (k i : Nat) : State :=
  let r := ringIx k i
  if !s.on F.RING_CFG_EN r then s
  else
    let s := if k = rkRec then
        let s := s.recClose i
        s.setRing k i { s.ring k i with buf := none, bufs := [], known := 0, busy := false }
      else s
    s.wr F.RING_CFG_EN r 0

/-- Whether a ring of kind k has number i. -/
def ringExists (k i : Nat) : Bool := k == rkRec || decide (i < 256)

/-- RING_ENABLE (R419). -/
def execRingEnable (t : Nat) (kind : Fin 3) (ring : Fin 1024) (s : State) : Host.Outcome State Fault Refusal :=
  let s := s.at_ t
  .next (if ringExists kind.val ring.val then s.ringEnable kind.val ring.val else s)

/-- RING_DISABLE (R419). -/
def execRingDisable (t : Nat) (kind : Fin 3) (ring : Fin 1024) (s : State) : Host.Outcome State Fault Refusal :=
  let s := s.at_ t
  .next (if ringExists kind.val ring.val then s.ringDisable kind.val ring.val else s)

/-! ### MSI-X (R414) -/

/-- Word 3 of an MSI-X entry written: a pending vector that is unmasked is sent. -/
def State.msixUnmask (s : State) (v : Nat) : State :=
  if smapGet 0 s.pba v = 1 then { s with pba := smapSet 0 s.pba v 0 }.writeVector v else s

/-- MSIX_UNMASK (R414). -/
def execMsixUnmask (t : Nat) (vector : Fin 2048) (s : State) : Host.Outcome State Fault Refusal :=
  let s := s.at_ t
  let v := vector.val
  let w := s.msixWord v 3
  .next ((s.setMsix v 3 (w - w % 2)).msixUnmask v)

/-! ### Resending to the gateway (R417, R466) -/

/-- A write to the gateway that fails: its ring halts with a cause; a completion entry waits in the engine again. -/
def State.writeFailed (s : State) (w : FabWrite) (cause : Nat) : State :=
  let s := { s with fabWrites := s.fabWrites.filter (fun x => x != w) }
  match w.entry with
  | some e =>
    let x := s.ring rkComp e.cq
    (({ s with engine := e :: s.engine }).setRing rkComp e.cq { x with busy := false }).haltRing rkComp e.cq cause
  | none => s.haltAny (if w.kind = rkJob then rkSub else w.kind) w.ring cause

/-- One write that has waited PROXY_TIMEOUT for its acknowledgement: sent again, at most twice. -/
def State.writeRetry (s : State) (w : FabWrite) : State :=
  let limit := s.rd F.HR_GW_PROXY_TIMEOUT 0 * usF
  if !s.fabWrites.contains w || !w.sent || s.now < w.since + limit then s
  else if 2 ≤ w.tries then s.writeFailed w 3
  else
    let w' := { w with tries := w.tries + 1, since := s.now }
    let h : Hold := {
      addr := w.addr, bytes := w.bytes, until_ := s.now + limit
      buffer := if w.kind = rkRec then some (w.ring, w.slot) else none }
    let s := { s with
      fabWrites := s.fabWrites.map (fun x => if x = w then w' else x)
      holds := s.holds ++ [h] }
    (s.hrStick F.HR_STATUS_RETRY 1 0).originate w.frame

/-- HOST_WRITE_RESEND (R417). -/
def execHostWriteResend (t : Nat) (s : State) : Host.Outcome State Fault Refusal :=
  let s := s.at_ t
  .next (s.fabWrites.foldl (fun s w => s.writeRetry w) s)

/-- Writes that waited for a hold sent once none covers them; n bounds them. -/
def State.heldSend (s : State) : Nat → State
  | 0 => s
  | n + 1 =>
    match s.fabWrites.find? (fun w => !w.sent && !s.writeHeld w) with
    | none => s
    | some w =>
      let upd := s.fabWrites.map (fun x => if x = w then { w with sent := true, since := s.now } else x)
      ({ s with fabWrites := upd }.writeLeaves w true).heldSend n

/-- RESEND_HOLD_EXPIRY (R466). -/
def execResendHoldExpiry (t : Nat) (s : State) : Host.Outcome State Fault Refusal :=
  let s := s.at_ t
  let due := s.holds.filter (fun h => decide (h.until_ ≤ s.now))
  let s := { s with holds := s.holds.filter (fun h => decide (s.now < h.until_)) }
  let s := s.heldSend s.fabWrites.length
  .next (due.foldl (fun s h => match h.page with | none => s | some p => s.bellSend p) s)

/-! ### Host reset (R423, R424) -/

/-- The fields of a list that a reset does not keep, back at their Reset values. -/
def State.resetFields (s : State) (bit : Nat) (fs : List Fld) : State :=
  let gone := (fs.filter (fun f => f.kept ≠ 0 && !bitAt f.kept bit)).map (·.id)
  { s with regs := s.regs.filter (fun p => !gone.contains (p.1 / 2 ^ 20)) }

/-- The stored values of Mortise fields with a dash in their Kept by column, which every reset of the node returns to their
Reset values (R10). -/
def State.dashReset (s : State) : State :=
  let gone := [F.LANE_BERT_BITS.id, F.LANE_BERT_ERRORS.id, F.DX_SCARF_USED.id]
  { s with regs := s.regs.filter (fun p => !gone.contains (p.1 / 2 ^ 20)) }

/-- HO of the node: every descriptor cancelled without an entry, entries not yet written discarded, open buffers abandoned,
every ring field and EV_MAP at its Reset value. -/
def State.hostReset (s : State) : State :=
  let s := s.jobs.foldl (fun s j => (s.cancelWork j).2) s
  let bufs := s.engine.flatMap (fun e => if e.buffer then e.takes else [])
  let flying := s.fabWrites.flatMap (fun w => match w.entry with | none => [] | some e => if e.buffer then e.takes else [])
  let s := s.untake (bufs ++ flying)
  let s := (s.rings.filter (fun p => 2048 ≤ p.1)).foldl (fun s p => s.recAbandon (p.1 - 2048)) s
  let s := { s with
    jobs := [], engine := [], rings := [], groups := [], fabReads := [], fabWrites := []
    pcieReads := s.pcieReads.filter (fun r => r.own.isNone), lastSq := 0 }
  (s.resetFields 2 (F.ofBlk .rings ++ F.ofBlk .evmap)).dashReset

/-- HOST_RESET (R423, R526): a hot reset or function-level reset at the endpoint of a die; at the endpoint of the die that does
not hold the PEG line it resets only that endpoint's configuration space. -/
def execHostReset (t : Nat) (die : Bool) (s : State) : Host.Outcome State Fault Refusal :=
  let s := s.at_ t
  .next (if b2n die = s.dx.die then s.hostReset else s)

/-- HR_PROXY_CLR: a write of 1 to HR_PROXY.CLR. -/
def execHrProxyClr (s : State) : Host.Outcome State Fault Refusal := .next (s.wr F.HR_PROXY_HIGH_WATER 0 0)

/-- PROXY_PCIE_ISSUE (R416). -/
def execProxyPcieIssue (t : Nat) (s : State) : Host.Outcome State Fault Refusal := .next ((s.at_ t).pcieIssue 1)

end Sys2Proof.Machine
end

