-- ==== Sys2Proof/Machine/Exchange.lean ====
section
/-! DEFINITION. Exchanges over the fabric (14_host_rings.md, 16_woreg_fabric.md): proxied reads and writes of host memory,
remote doorbells, broadcasts, probes, fabric resets, forwarded records, and what the security island has finished. -/

namespace Sys2Proof.Machine

open Sys2Proof

/-! ### Frames delivered here -/

/-- A routed frame for this node, with n payload words on VC vc, taken from port p in order: what f makes of it. Its
credits return unless it has them withheld. -/
def State.rxFor (s : State) (p lseq vc n : Nat) (f : State → State) : State :=
  if s.nodeId = 0xFFFF || !s.ownDie p then s
  else
    let (ok, s) := s.rxTake p lseq
    if ok then f (s.giveCredits p vc (ceilDiv (n * 8 + 20) 64)) else s

/-- A node's answer on VC2 to a frame from node src that arrived on port p. -/
def State.reply (s : State) (p src ty tag aux : Nat) (ws : List Nat) : State :=
  s.answer p { dest := src, vc := 2, ty := ty, tag := tag, aux := aux, words := ws }

/-! ### Reads of host memory -/

/-- Words read from host memory reach what asked for them. A FABRIC_RESET's authenticator goes to the node it names. -/
def State.faSend (s : State) (j : Job) (ws : List Nat) : State :=
  let node := bitsAt (j.w 1) 0 16
  let len := bitsAt (j.w 3) 0 16
  let ws := if len = 136 || ws.length ≠ 17 then ws else ws.take 16
  if node = 0 || node = s.nodeId then (s.setJob { j with acc := ws }).secAsk (.job j.id)
  else
    let (tag, s) := s.newTag
    (s.setJob { j with tag := tag + 1, since := s.now }).originate { dest := node, vc := 0, ty := frFaReq, tag := tag, words := ws }

/-- A whole read that has arrived. -/
def State.readDone (s : State) (u : ReadUse) (ws : List Nat) : State :=
  match u with
  | .descs q slot n => s.descsArrived q slot n ws
  | .bufs r slot n => s.recEntries r slot n ws
  | .job id =>
    match s.job id with
    | none => s
    | some j =>
      if j.op = 0x30 || j.op = 0x31 then s.seifData j ws
      else if j.op = 0x40 || j.op = 0x51 then s.secData j ws
      else if j.op = 0x61 then s.faSend j ws
      else s

/-- A job whose read of host memory failed (R402). -/
def State.jobReadFailed (s : State) (id : Nat) : State :=
  match s.job id with
  | none => s
  | some j =>
    if j.op = 0x30 || j.op = 0x31 then s.seifHostError j
    else if j.op = 0x40 || j.op = 0x51 then s.secHostError j
    else s.commit j stHostError 0

/-- A read that failed: its ring halted with a cause, or its job in error (R402, R418, R420). -/
def State.readBroken (s : State) (u : ReadUse) (cause : Nat) : State :=
  match u with
  | .descs q _ _ => (s.setRing rkSub q { s.ring rkSub q with busy := false }).haltRing rkSub q cause
  | .bufs r _ _ => s.haltRec r cause
  | .job id =>
    let q := (s.job id).map (·.sq)
    let s := s.jobReadFailed id
    match q with
    | some q => if cause = 2 then s.haltRing rkSub q cause else s
    | none => s

/-- Part k of read g has arrived. -/
def State.partDone (s : State) (g k : Nat) (ws : List Nat) : State :=
  match s.readPart g k ws with
  | (some (u, ws), s) => s.readDone u ws
  | (none, s) => s

/-- A part of read g has failed. -/
def State.partFailed (s : State) (g cause : Nat) : State :=
  match s.readFailed g with
  | (some u, s) => s.readBroken u cause
  | (none, s) => s

/-! ### The gateway's side (R416, R417, R420) -/

/-- Requests that a gateway holds in flight for other nodes. -/
def proxyMax : Nat := 16384

/-- Proxied reads in flight (HR_PROXY.IN_FLIGHT). -/
def State.proxied (s : State) : Nat := (s.pcieReads.filter (fun r => r.own.isNone)).length

/-- Credits withheld on a VC returned, as many as n frames hold. -/
def State.release (s : State) (vc : Nat) : Nat → State
  | 0 => s
  | n + 1 =>
    match s.withheld.find? (fun x => x.2.1 == vc) with
    | none => s
    | some x => ({ s with withheld := s.withheld.erase x }.giveCredits x.1 vc x.2.2).release vc n

/-- HOST_RD (R416): a proxied read enters the table, or is answered with GW_DOWN while the endpoint cannot be used. -/
def execHostRd (t : Nat) (port : Fin 16) (lseq : BitVec 12) (src : BitVec 16) (tag : BitVec 14) (addr : BitVec 64)
    (bytes : BitVec 9) (usable : Bool) (s : State) : Host.Outcome State Fault Refusal :=
  let s := s.at_ t
  let p := port.val
  let cr := ceilDiv (2 * 8 + 20) 64
  .next (
    if s.nodeId = 0xFFFF || !s.ownDie p then s
    else
      let (ok, s) := s.rxTake p lseq.toNat
      if !ok then s
      else if !usable then (s.giveCredits p 1 cr).reply p src.toNat frHostRdData tag.toNat Config.gwDownAux []
      else
        let r : PcieRead := {
          own := none, node := src.toNat, ftag := tag.toNat, inPort := p, addr := addr.toNat
          words := ceilDiv (clampN 8 256 bytes.toNat) 8 }
        let s := { s with pcieReads := s.pcieReads ++ [r] }
        let s := if proxyMax ≤ s.proxied then { s with withheld := s.withheld ++ [(p, 1, cr)] } else s.giveCredits p 1 cr
        (s.wr F.HR_PROXY_HIGH_WATER 0 (max (s.rd F.HR_PROXY_HIGH_WATER 0) (min proxyMax s.proxied))).pcieIssue 1)

/-- PCIE_READ_COMPLETION (R416): data or an error for a PCIe tag: the next piece of the read is asked for, this node's own
read goes on, or the node that asked is answered. -/
def execPcieReadCompletion (t : Nat) (tag : BitVec 10) (err : Bool) (data : List (BitVec 64)) (s : State) :
    Host.Outcome State Fault Refusal :=
  let s := s.at_ t
  let ws := data.map BitVec.toNat
  .next (match s.pcieReads.find? (fun r => r.tag == some tag.toNat) with
  | none => s
  | some r =>
    let got := r.got ++ ws.take (r.asked - r.got.length)
    if !err && r.asked < r.words then
      { s with pcieReads := s.pcieReads.map (fun x => if x = r then { r with tag := none, got := got } else x) }.pcieIssue 1
    else
      let s := { s with pcieReads := s.pcieReads.filter (fun x => x != r) }.pcieIssue 1
      match r.own with
      | none =>
        let s := s.release 1 1
        if err then s.reply r.inPort r.node frHostRdData r.ftag 1 [] else s.reply r.inPort r.node frHostRdData r.ftag 0 got
      | some (g, k) => if err then s.partFailed g 1 else s.partDone g k got)

/-- A write from another node issued on PCIe and acknowledged, or answered with GW_DOWN; HOST_WR carries record-buffer data. -/
def State.proxyWrite (s : State) (p src tag addr : Nat) (usable : Bool) (ws : List Nat) (data : Bool) : State :=
  if usable then (s.send (.hostWrite addr ws data)).reply p src frHostAck tag 0 []
  else s.reply p src frHostAck tag Config.gwDownAux []

/-- ENTRY_WR (R417). -/
def execEntryWr (t : Nat) (port : Fin 16) (lseq : BitVec 12) (src : BitVec 16) (tag : BitVec 14) (addr w1 w2 : BitVec 64)
    (usable : Bool) (s : State) : Host.Outcome State Fault Refusal :=
  .next ((s.at_ t).rxFor port.val lseq.toNat 2 3 (fun s =>
    s.proxyWrite port.val src.toNat tag.toNat addr.toNat usable [w1.toNat, w2.toNat] false))

/-- HOST_WR (R417). -/
def execHostWr (t : Nat) (port : Fin 16) (lseq : BitVec 12) (src : BitVec 16) (tag : BitVec 14) (addr : BitVec 64)
    (data : List (BitVec 64)) (usable : Bool) (s : State) : Host.Outcome State Fault Refusal :=
  .next ((s.at_ t).rxFor port.val lseq.toNat 3 (data.length + 1) (fun s =>
    s.proxyWrite port.val src.toNat tag.toNat addr.toNat usable (data.map BitVec.toNat) true))

/-- MSIX (R422): the gateway writes the vector. -/
def execMsix (t : Nat) (port : Fin 16) (lseq : BitVec 12) (vector : BitVec 11) (usable : Bool) (s : State) :
    Host.Outcome State Fault Refusal :=
  .next ((s.at_ t).rxFor port.val lseq.toNat 2 1 (fun s => if usable then s.writeVector vector.toNat else s))

/-- EVENT (R422): the gateway writes the vector, and its own event stream records nothing. -/
def execEvent (t : Nat) (port : Fin 16) (lseq : BitVec 12) (body : BitVec 64) (vector : BitVec 11) (usable : Bool)
    (s : State) : Host.Outcome State Fault Refusal :=
  let _ := body
  .next ((s.at_ t).rxFor port.val lseq.toNat 0 2 (fun s => if usable then s.writeVector vector.toNat else s))

/-! ### The requester's side (R415, R417, R420, R465) -/

/-- HOST_RD_DATA (R415): data, or a PCIe error, for a live tag; an answer to a retired tag is discarded. -/
def execHostRdData (t : Nat) (port : Fin 16) (lseq : BitVec 12) (tag : BitVec 14) (err : Bool) (data : List (BitVec 64))
    (s : State) : Host.Outcome State Fault Refusal :=
  .next ((s.at_ t).rxFor port.val lseq.toNat 2 data.length (fun s =>
    match s.fabReads.find? (fun r => r.tag == tag.toNat) with
    | none => s
    | some r =>
      let s := { s with fabReads := s.fabReads.filter (fun x => x.tag != r.tag) }
      if err then s.partFailed r.grp 1 else s.partDone r.grp r.part ((data.map BitVec.toNat).take r.words)))

/-- HOST_ACK (R417, R465): a buffer's data, an entry or a doorbell has been taken. -/
def execHostAck (t : Nat) (port : Fin 16) (lseq : BitVec 12) (tag : BitVec 14) (s : State) :
    Host.Outcome State Fault Refusal :=
  .next ((s.at_ t).rxFor port.val lseq.toNat 2 0 (fun s =>
    match s.fabWrites.find? (fun w => w.sent && w.frame.tag == tag.toNat) with
    | some w =>
      let s := { s with fabWrites := s.fabWrites.filter (fun x => x != w) }
      match w.entry with
      | none => s
      | some e => s.entryWritten e
    | none =>
      match s.bells.find? (fun b => (b.2.flight.map (fun f => f.2.1)) == some tag.toNat) with
      | none => s
      | some b => (s.setBell b.1 { s.bell b.1 with flight := none }).bellSend b.1))

/-- GW_DOWN_ANSWER (R420): the ring concerned halts with CAUSE GATEWAY, without a retry. -/
def execGwDownAnswer (t : Nat) (port : Fin 16) (lseq : BitVec 12) (tag : BitVec 14) (s : State) :
    Host.Outcome State Fault Refusal :=
  .next ((s.at_ t).rxFor port.val lseq.toNat 2 0 (fun s =>
    let down (s : State) : State := s.hrStick F.HR_STATUS_GW_DOWN 2 0
    match s.fabReads.find? (fun r => r.tag == tag.toNat) with
    | some r => down ({ s with fabReads := s.fabReads.filter (fun x => x.tag != r.tag) }.partFailed r.grp 2)
    | none =>
      match s.fabWrites.find? (fun w => w.sent && w.frame.tag == tag.toNat) with
      | some w => down (s.writeFailed w 2)
      | none => s))

/-- One proxied read that has waited PROXY_TIMEOUT: issued again with a new tag, at most twice (R415). -/
def State.readRetry (s : State) (r : FabRead) : State :=
  let limit := s.rd F.HR_GW_PROXY_TIMEOUT 0 * usF
  if !s.fabReads.contains r || s.now < r.since + limit then s
  else if 2 ≤ r.tries then { s with fabReads := s.fabReads.filter (fun x => x != r) }.partFailed r.grp 1
  else
    let (tag, s) := s.newTag
    let r' := { r with tag := tag, tries := r.tries + 1, since := s.now }
    let s := { s with fabReads := s.fabReads.map (fun x => if x = r then r' else x) }
    (s.hrStick F.HR_STATUS_RETRY 1 0).sendHostRd r'

/-- PROXY_TIMEOUT_RETRY (R415); a register access, a probe or a fabric reset without an answer completes NO_REPLY (R464). -/
def execProxyTimeoutRetry (t : Nat) (s : State) : Host.Outcome State Fault Refusal :=
  let s := s.at_ t
  let limit := s.rd F.HR_GW_PROXY_TIMEOUT 0 * usF
  let s := s.fabReads.foldl (fun s r => s.readRetry r) s
  .next ((s.jobs.filter (fun j => j.tag != 0 && decide (j.since + limit ≤ s.now))).foldl
    (fun s j => s.commit j stNoReply 0) s)

/-- DOORBELL (R421): the index is set, an action of R485, and the doorbell acknowledged. -/
def execDoorbell (t : Nat) (port : Fin 16) (lseq : BitVec 12) (src : BitVec 16) (tag : BitVec 14) (value : BitVec 64)
    (s : State) : Host.Outcome State Fault Refusal :=
  .next ((s.at_ t).rxFor port.val lseq.toNat 1 1 (fun s =>
    let w := value.toNat
    let s := if s.journaling then s.journal (.bell 0x800 0 (w - w % 2 ^ 16)) else s.bellIndex w
    s.reply port.val src.toNat frHostAck tag.toNat 0 []))

/-! ### Broadcasts (R467) -/

/-- BCAST: acted on once, and sent on. -/
def execBcast (t : Nat) (port : Fin 16) (lseq : BitVec 12) (src : BitVec 16) (tag : BitVec 14) (hops : BitVec 6)
    (aux : BitVec 32) (w0 w1 : BitVec 64) (s : State) : Host.Outcome State Fault Refusal :=
  let s := s.at_ t
  let p := port.val
  let kind := aux.toNat % 256
  let ws := if kind = 2 then [w0.toNat] else [w0.toNat, w1.toNat]
  .next (
    if !s.ownDie p then s
    else
      let (ok, s) := s.rxTake p lseq.toNat
      if !ok then s
      else
        let s := s.giveCredits p 0 (ceilDiv (ws.length * 8 + 20) 64)
        let live := s.seen.filter (fun x => decide (s.now < x.at_ + 10 * msF))
        if live.any (fun x => x.src == src.toNat && x.tag == tag.toNat) then { s with seen := live }
        else
          let new : Seen := { src := src.toNat, tag := tag.toNat, at_ := s.now }
          let s := { s with seen := (live ++ [new]).drop (live.length + 1 - 64) }
          let s :=
            if kind = 1 then s.triggerMask (bitsAt w1.toNat 16 6) (w0.toNat + w1.toNat % 2 ^ 16 * 2 ^ 64)
            else if kind = 2 then (s.syncCommand (bitsAt w0.toNat 0 40)).2
            else s
          if hops.toNat < 2 then s.fabDrop F.FAB_DROP_HOP
          else
            let f : Frame := {
              dest := 0xFFFF, src := src.toNat, vc := 0, ty := frBcast, hops := hops.toNat - 1, tag := tag.toNat
              aux := aux.toNat, words := ws }
            (List.range 8).foldl (fun s k =>
              let q := s.portBase + k
              if q ≠ p && s.available q then s.portPut q f none else s) s)

/-! ### Probes (R470 to R473) -/

/-- Digit i of a route. -/
def routeDigit (r i : Nat) : Nat := bitsAt r (3 * i) 3

/-- PROBE (R470, R472): a source-routed probe sent on port ROUTE digit 0. -/
def execProbe (t : Nat) (sq : Fin 256) (s : State) : Host.Outcome State Fault Refusal :=
  .next ((s.at_ t).startDesc sq.val 0x60 (fun j s =>
    let hops := clampN 1 24 (bitsAt (j.w 1) 0 5)
    let route := j.w 2 + bitsAt (j.w 3) 0 8 * 2 ^ 64
    let armed := s.on F.FAB_ASSIGN_ARM 0
    let assign := if armed then s.rd F.FAB_ASSIGN_NEW_ID 0 else 0xFFFF
    let s := s.wr F.FAB_ASSIGN_ARM 0 0
    let (tag, s) := s.newTag
    let s := s.setJob { j with tag := tag + 1, since := s.now }
    let p := s.portBase + routeDigit route 0
    let f : Frame := {
      dest := 0xFFFF, src := s.nodeId, vc := 0, ty := frProbe, hops := 24, tag := tag
      words := [route % 2 ^ 64, route / 2 ^ 64 + hops * 2 ^ 8 + assign * 2 ^ 16, 0, 0] }
    if s.nodeId ≠ 0xFFFF && (s.port p).state == poUp then s.portPut p f none else s))

/-- The body of a probe reply (R473) from the die of port p. -/
def State.probeBody (s : State) (p reached : Nat) (assigned stopped : Bool) : List Nat :=
  let d := p / 8
  let standby := s.part == .vt8 && !(d == s.dx.die && s.dx.held)
  let x (k : Nat) : Port := s.port (8 * d + k)
  let one (k : Nat) : Nat :=
    (x k).peerPort + s.rd F.FAB_PORT_WIDTH k * 2 ^ 3 + b2n ((x k).state == poUp) * 2 ^ 5 + b2n (x k).peerStandby * 2 ^ 6
      + b2n (x k).gotInit * 2 ^ 7
  let peers (from_ : Nat) : Nat := ((List.range 4).map (fun k => (x (from_ + k)).peerNode * 2 ^ (16 * k))).sum
  [ s.nodeId + b2n assigned * 2 ^ 16 + b2n stopped * 2 ^ 17 + reached * 2 ^ 18 + p % 8 * 2 ^ 23 + s.part.code * 2 ^ 26
      + d * 2 ^ 28 + b2n standby * 2 ^ 29,
    s.idTag d, s.rd F.FAB_FA_NONCE_NONCE 0, ((List.range 8).map (fun k => one k * 2 ^ (8 * k))).sum, peers 0, peers 4 ]

/-- A node's ID set, and announced on every UP port (R445, R448). -/
def State.setNode (s : State) (id : Nat) : State :=
  if s.nodeId = id then s else (s.wr F.FAB_NODE_ID 0 id).announce

/-- PROBE_FRAME (R470 to R473): the arrival port is written into the reverse route; the target, or a node whose named port is
not UP, replies; any other sends the probe on. -/
def execProbeFrame (t : Nat) (port : Fin 16) (lseq : BitVec 12) (src : BitVec 16) (tag : BitVec 14) (hopsLeft : BitVec 6)
    (fwd : BitVec 72) (hops index : BitVec 5) (assign : BitVec 16) (rev : BitVec 72) (s : State) :
    Host.Outcome State Fault Refusal :=
  let s := s.at_ t
  let p := port.val
  let i := index.toNat
  .next (
    let (ok, s) := s.rxTake p lseq.toNat
    if !ok then s
    else
      let back := setBitsAt rev.toNat (3 * i) 3 (p % 8)
      let cr := ceilDiv (4 * 8 + 20) 64
      let answer (s : State) (assigned stopped : Bool) : State :=
        (s.giveCredits p 0 cr).portPut p {
          dest := 0xFFFF, src := s.nodeId, vc := 0, ty := frProbeRsp, hops := 24, tag := tag.toNat
          words := s.probeBody p (i + 1) assigned stopped } none
      if i + 1 = hops.toNat then
        if s.nodeId = 0xFFFF && assign.toNat ≠ 0xFFFF && assign.toNat ≠ 0 then
          answer ((s.setNode assign.toNat).fabStick F.FAB_STATUS_ASSIGNED 2) true false
        else answer s false false
      else
        let q := p / 8 * 8 + routeDigit fwd.toNat (i + 1)
        if (s.port q).state ≠ poUp then answer s false true
        else if hopsLeft.toNat < 2 then (s.giveCredits p 0 cr).fabDrop F.FAB_DROP_HOP
        else s.portPut q {
          dest := 0xFFFF, src := src.toNat, vc := 0, ty := frProbe, hops := hopsLeft.toNat - 1, tag := tag.toNat
          words := [fwd.toNat % 2 ^ 64, fwd.toNat / 2 ^ 64 + hops.toNat * 2 ^ 8 + (i + 1) * 2 ^ 13 + assign.toNat * 2 ^ 16,
            back % 2 ^ 64, back / 2 ^ 64] } (some p))

/-- PROBE_RSP (R473): the reply reaches its originator. -/
def execProbeRsp (t : Nat) (port : Fin 16) (lseq : BitVec 12) (tag : BitVec 14) (words : List (BitVec 64)) (s : State) :
    Host.Outcome State Fault Refusal :=
  let s := s.at_ t
  let p := port.val
  .next (
    let (ok, s) := s.rxTake p lseq.toNat
    if !ok then s
    else
      let s := s.giveCredits p 0 (ceilDiv (6 * 8 + 20) 64)
      match s.jobs.find? (fun j => j.op == 0x60 && j.tag == tag.toNat + 1) with
      | none => s
      | some j =>
        let ws := (words.map BitVec.toNat).take 6
        let s := if addr8 (j.w 4) = 0 then s else s.hostPut rkJob j.sq j.slot (addr8 (j.w 4)) ws
        s.commit j stDone 48)

/-! ### Fabric reset (R474 to R476) -/

/-- FABRIC_RESET: its authenticator is read from host memory. -/
def execFabricReset (t : Nat) (sq : Fin 256) (s : State) : Host.Outcome State Fault Refusal :=
  .next ((s.at_ t).startDesc sq.val 0x61 (fun j s =>
    let n := min 256 (ceilDiv (bitsAt (j.w 3) 0 16) 8)
    if n = 0 then s.faSend j [] else s.hostRead (.job j.id) (addr8 (j.w 2)) n))

/-- FA_REQ (R475): the authenticator joins the island's queue. -/
def execFaReq (t : Nat) (port : Fin 16) (lseq : BitVec 12) (src : BitVec 16) (tag : BitVec 14) (words : List (BitVec 64))
    (s : State) : Host.Outcome State Fault Refusal :=
  .next ((s.at_ t).rxFor port.val lseq.toNat 0 words.length (fun s =>
    s.secAsk (.fa src.toNat tag.toNat port.val (words.map BitVec.toNat))))

/-- Whether an authenticator stands (R475). -/
def State.faGood (s : State) (ws : List Nat) : Bool :=
  let d := s.dx.die
  let h := ws.headD 0
  let b := bytesOf ws
  let sig := (b.drop 16).take 114
  let by_ (i : Nat) : Bool := s.ownerLive d i && edVerify (s.ownerSlot d i).2 "Woreg FA" (b.take 16) sig
  ws.length == 17 && bitsAt h 0 8 == 0xFA && bitsAt h 8 8 == 1 && (b.drop 130).all (fun x => x == 0)
    && bitsAt h 16 16 == s.nodeId && ws.getD 1 0 == s.rd F.FAB_FA_NONCE_NONCE 0 && (by_ 0 || by_ 1)
    && (!bitAt h 34 || (bitsAt h 48 16 != 0 && bitsAt h 48 16 != 0xFFFF))

/-- An authenticator judged: FA_STATUS, a new nonce, and an accepted reset waits until its FA_RSP has left. -/
def State.faJudge (s : State) (ws : List Nat) : Bool × State :=
  let ok := s.faGood ws
  let (n, s) := s.random 64
  let s := s.wr F.FAB_FA_NONCE_NONCE 0 n
  if ok then (true, { s.fabStick F.FAB_STATUS_FA_DONE 0 with
      faPending := some (bitsAt (ws.headD 0) 32 8, bitsAt (ws.headD 0) 48 16) })
  else (false, s.fabStick F.FAB_STATUS_FA_DENIED 1)

/-- FA_RSP (R476): completes the FABRIC_RESET. -/
def execFaRsp (t : Nat) (port : Fin 16) (lseq : BitVec 12) (tag : BitVec 14) (accepted : Bool) (s : State) :
    Host.Outcome State Fault Refusal :=
  .next ((s.at_ t).rxFor port.val lseq.toNat 0 0 (fun s =>
    match s.jobs.find? (fun j => j.op == 0x61 && j.tag == tag.toNat + 1) with
    | none => s
    | some j => s.commit j (if accepted then stDone else stDenied) 0))

/-- The route table with no entry valid: every word of it written anew. -/
def State.routeClear (s : State) : State :=
  let lo := flipKey memRoute 0
  let hit (k : Nat) : Bool := decide (lo ≤ k) && decide (k < lo + 2 ^ 24)
  { s with
    route := []
    pool := { s.pool with flips := smapDrop s.pool.flips hit, wb := s.pool.wb.filter (fun k => !hit k) } }

/-- Every port's frames discarded, its LSEQ and credits started again, with LINK_INIT to be exchanged again. -/
def State.portsRestart (s : State) : State :=
  (List.range 16).foldl (fun s p =>
    let x := s.port p
    if x.state = poUp || x.state = poInit then s.setPort p { ({} : Port) with state := poInit }
    else s.setPort p { x with waiting := [], unacked := [] }) s

/-- An accepted fabric reset acts (R476). -/
def State.faAct (s : State) (scope newId : Nat) : State :=
  let s := { s with faPending := none }.portsRestart
  let s := { s with
    fwds := s.fwds.map (fun (p : Nat × Fwd) => (p.1, { p.2 with back := p.2.unacked != [] })), seen := [], withheld := [] }
  let s := (s.resetFields 3 ((F.ofBlk .fab).filter (fun f => f.id != F.FAB_FA_NONCE_NONCE.id))).dashReset
  let s := if bitAt scope 0 then s.hostReset else s
  let s := if bitAt scope 1 then s.routeClear else s
  if bitAt scope 2 then s.setNode newId else s

/-- FABRIC_RESET_ACT (R476): once the FA_RSP has left the node. -/
def execFabricResetAct (t : Nat) (s : State) : Host.Outcome State Fault Refusal :=
  let s := s.at_ t
  let waits := s.ports.any (fun p => p.2.waiting.any (fun w => w.frame.ty == frFaRsp && w.frame.src == s.nodeId))
  .next (match s.faPending with
  | none => s
  | some (scope, newId) => if waits then s else s.faAct scope newId)

/-- SECURITY_OP_DONE (R533): a signature, a verification or a programming pass of the island ends. -/
def execSecurityOpDone (t : Nat) (s : State) : Host.Outcome State Fault Refusal :=
  let s := s.at_ t
  .next (match s.secq.head? with
  | some (.job id) =>
    let s := s.secPop
    match s.job id with
    | none => s
    | some j =>
      if j.op = 0x50 then s.attestDone j
      else if j.op = 0x61 then
        let (ok, s) := s.faJudge j.acc
        s.commit j (if ok then stDone else stDenied) 0
      else s.secJudge j
  | some (.burn id op b) => s.secPop.secPass id op b
  | some (.fa src tag p ws) =>
    let (ok, s) := s.secPop.faJudge ws
    s.answer p { dest := src, vc := 0, ty := frFaRsp, tag := tag, aux := b2n ok }
  | _ => s)

/-! ### Forwarders (R468) and inbound slots (R469) -/

def State.fwd (s : State) (f : Nat) : Fwd := smapGet {} s.fwds f
def State.setFwd (s : State) (f : Nat) (x : Fwd) : State := { s with fwds := smapSet {} s.fwds f x }
def State.inb (s : State) (k : Nat) : Inbound := smapGet {} s.inbound k
def State.setInb (s : State) (k : Nat) (x : Inbound) : State := { s with inbound := smapSet {} s.inbound k x }

/-- The producer number of inbound slot k. -/
def prSlot (k : Nat) : Nat := 64 + k

/-- The records of forwarder f up to number fseq reported delivered. -/
def State.fwdAcked (s : State) (f fseq : Nat) : State :=
  let x := s.fwd f
  if x.unacked.any (fun r => r.fseq == fseq) then
    let n := (x.unacked.takeWhile (fun r => r.fseq != fseq)).length + 1
    let s := s.setFwd f { x with unacked := x.unacked.drop n, since := s.now }
    (x.unacked.take n).foldl (fun s r => s.deliver r.queue 1) s
  else s

/-- An FWD_ACK from node src for slot: the forwarder that sends there. -/
def State.fwdAckFrom (s : State) (src slot fseq : Nat) : State :=
  match s.fwds.find? (fun p => s.rd F.FAB_FWD_DEST_NODE p.1 == src && s.rd F.FAB_FWD_DEST_SLOT p.1 == slot
      && p.2.unacked.any (fun r => r.fseq == fseq)) with
  | none => s
  | some p => s.fwdAcked p.1 fseq

/-- FWD_ACK for number fseq of slot k sent to its source, over the port the record arrived on where it has no route. -/
def State.sendFwdAck (s : State) (k fseq : Nat) (via : Option Nat) : State :=
  let src := s.rd F.FAB_FIN_SRC_NODE k
  match via with
  | none => s.fwdAckFrom src k fseq
  | some p => s.reply p src frFwdAck fseq k []

/-- Records of slot k that have entered the pool counted in EXPECT and acknowledged; n bounds them. -/
def State.inSettle (s : State) (k : Nat) : Nat → State
  | 0 => s
  | n + 1 =>
    let x := s.inb k
    match x.pend with
    | [] => s
    | via :: rest =>
      if x.pend.length ≤ (s.prod (prSlot k)).waiting.length then s
      else
        let e := s.rd F.FAB_FIN_EXPECT k
        let s := (s.setInb k { x with pend := rest }).wr F.FAB_FIN_EXPECT k (e + 1)
        (s.sendFwdAck k e via).inSettle k n

/-- A record discarded at slot k other than as a duplicate. -/
def State.inReject (s : State) (k : Nat) : State := s.countUp F.FAB_FIN_REJECTS k 1 65535

/-- The whole record ws with number fseq judged at slot k (R469). -/
def State.inJudge (s : State) (k src fwd fseq : Nat) (ws : List Nat) (via : Option Nat) : State :=
  let next := (s.rd F.FAB_FIN_EXPECT k + (s.inb k).pend.length) % 16384
  let behind := (next + 16384 - fseq) % 16384
  if !s.on F.FAB_FIN_EN k || s.rd F.FAB_FIN_SRC_NODE k = 0xFFFF || s.rd F.FAB_FIN_SRC_NODE k ≠ src
      || s.rd F.FAB_FIN_SRC_FWD k ≠ fwd then s.inReject k
  else if behind = 0 then
    if ws.length = bitsAt (ws.headD 0) 16 16 && 4 ≤ ws.length then
      let x := s.inb k
      ((s.setInb k { x with pend := x.pend ++ [via] }).putRec (prSlot k) (s.rd F.FAB_FIN_QUEUE k) (recOfWords ws)).inSettle k
        (x.pend.length + 1)
    else s.inReject k
  else if behind ≤ 8192 then
    -- while a record still waits for its cells, the last one acknowledged is EXPECT - 1
    s.sendFwdAck k ((s.rd F.FAB_FIN_EXPECT k + 16383) % 16384) via
  else s.inReject k

/-- A frame of a record at slot k. One that is not of the slot's source disturbs no record of that source. -/
def State.inFrame (s : State) (k src fwd fseq : Nat) (first last : Bool) (ws : List Nat) (via : Option Nat) : State :=
  let x := s.inb k
  let known := s.on F.FAB_FIN_EN k && s.rd F.FAB_FIN_SRC_NODE k == src && s.rd F.FAB_FIN_SRC_FWD k == fwd
  let mine := x.open_ && x.src == src && x.fwd == fwd && x.fseq == fseq
  if !known then (if last then s.inReject k else s)
  else if first then
    let s := if x.open_ then s.inReject k else s
    if last then (s.setInb k { s.inb k with open_ := false, words := [] }).inJudge k src fwd fseq ws via
    else s.setInb k { s.inb k with src := src, fwd := fwd, fseq := fseq, words := ws, open_ := true }
  else if mine then
    if last then (s.setInb k { x with open_ := false, words := [] }).inJudge k src fwd fseq (x.words ++ ws) via
    else s.setInb k { x with words := x.words ++ ws }
  else if last then s.inReject k
  else s

/-- RECORD (R469): a frame of a forwarded record; its credits wait while the slot's producer is stalled (R311). -/
def execRecord (t : Nat) (port : Fin 16) (lseq : BitVec 12) (src : BitVec 16) (tag : BitVec 14) (first last : Bool)
    (slot fwd : BitVec 6) (words : List (BitVec 64)) (s : State) : Host.Outcome State Fault Refusal :=
  let s := s.at_ t
  let p := port.val
  let cr := ceilDiv (words.length * 8 + 20) 64
  .next (
    if s.nodeId = 0xFFFF || !s.ownDie p then s
    else
      let (ok, s) := s.rxTake p lseq.toNat
      if !ok then s
      else
        let s := s.inFrame slot.toNat src.toNat fwd.toNat tag.toNat first last (words.map BitVec.toNat) (some p)
        if (s.inb slot.toNat).pend = [] then s.giveCredits p 3 cr
        else { s with withheld := s.withheld ++ [(p, 3, cr)] })

/-- FWD_ACK (R468). -/
def execFwdAck (t : Nat) (port : Fin 16) (lseq : BitVec 12) (src : BitVec 16) (tag : BitVec 14) (slot : BitVec 6) (s : State) :
    Host.Outcome State Fault Refusal :=
  .next ((s.at_ t).rxFor port.val lseq.toNat 2 0 (fun s => s.fwdAckFrom src.toNat slot.toNat tag.toNat))

/-- The frames of a record: at most 256 words each; n bounds them. -/
def recordFrames (ws : List Nat) (first : Bool) : Nat → List (Bool × Bool × List Nat)
  | 0 => []
  | n + 1 =>
    if ws.length ≤ 256 then [(first, true, ws)] else (first, false, ws.take 256) :: recordFrames (ws.drop 256) false n

/-- A record of forwarder f sent to its slot. -/
def State.fwdSend (s : State) (f : Nat) (r : FwdRec) : State :=
  let dest := s.rd F.FAB_FWD_DEST_NODE f
  let slot := s.rd F.FAB_FWD_DEST_SLOT f
  (recordFrames r.words true r.words.length).foldl (fun s x =>
    if dest = s.nodeId then s.inFrame slot dest f r.fseq x.1 x.2.1 x.2.2 none
    else s.originate {
      dest := dest, vc := 3, ty := frRecord, first := x.1, last := x.2.1, tag := r.fseq, aux := slot + f * 2 ^ 6
      words := x.2.2 }) s

/-- FORWARDER_TAKE (R468). -/
def execForwarderTake (t : Nat) (fwd : Fin 64) (s : State) : Host.Outcome State Fault Refusal :=
  let s := s.at_ t
  let f := fwd.val
  let x := s.fwd f
  .next (
    if !s.on F.FAB_FWD_EN f || s.rd F.FAB_FWD_DEST_NODE f = 0xFFFF || s.nodeId = 0xFFFF || 16 ≤ x.unacked.length || x.back then s
    else
      match s.readerPick 4 f with
      | none => s
      | some q =>
        let (r, s) := s.takePkt q
        let s := s.readerTook 4 f q
        match r with
        | none => s
        | some (_, ws) =>
          let n := s.rd F.FAB_FWD_NEXT_FSEQ f
          let r : FwdRec := { fseq := n, queue := q, words := ws }
          let s := s.setFwd f { x with unacked := x.unacked ++ [r], since := if x.unacked = [] then s.now else x.since }
          (s.wr F.FAB_FWD_NEXT_FSEQ f (n + 1)).fwdSend f r)

/-- FORWARDER_RESEND (R468, R476): every unacknowledged record again, oldest first. -/
def execForwarderResend (t : Nat) (fwd : Fin 64) (s : State) : Host.Outcome State Fault Refusal :=
  let s := s.at_ t
  let f := fwd.val
  let x := s.fwd f
  .next (
    if x.unacked = [] || !(x.back || decide (x.since + s.rd F.HR_GW_PROXY_TIMEOUT 0 * usF ≤ s.now)) then s
    else
      let s := (s.setFwd f { x with since := s.now, back := false }).countUp F.FAB_FWD_RESENDS f x.unacked.length 65535
      x.unacked.foldl (fun s r => s.fwdSend f r) s)

/-! ### Stalled producers (R311) -/

/-- A producer whose stall has ended: what waits behind its record. -/
def State.resumed (s : State) (p : Nat) : State :=
  if p = prSeif0 then s.seifSettle 0
  else if p = prSeif1 then s.seifSettle 1
  else if p = prDecomp then s.unseifSettle
  else if 64 ≤ p && p < 128 then
    let k := p - 64
    let s := s.inSettle k (s.inb k).pend.length
    if s.inbound.all (fun x => x.2.pend == []) then s.release 3 s.withheld.length else s
  else s

/-- PRODUCER_RESUME (R307, R311): a stalled producer of the Mortise writes on; event records wait as producer 0. -/
def execProducerResume (t : Nat) (producer : Fin 256) (s : State) : Host.Outcome State Fault Refusal :=
  let s := s.at_ t
  let p := producer.val
  .next (if p = 0 then s.pumpEvents s.pool.evs.length else (s.pump p (((s.prod p).waiting.length + 1) * 130)).resumed p)

end Sys2Proof.Machine
end

