-- ==== Sys2Proof/Machine/Lanes.lean ====
section
/-! DEFINITION. The fabric lanes (15_lanes.md): line coding, training and its loss, adaptation, power states, test. -/

namespace Sys2Proof.Machine

open Sys2Proof

/-! ### Line coding (R425 to R427) -/

/-- The scrambler over payload bits, oldest first: each line bit is the payload bit XOR the line bits 39 and 58 before
it; hist holds the last 58 line bits, newest first (R426). -/
def scramble (hist : List Bool) : List Bool → List Bool
  | [] => []
  | b :: l =>
    let x := xor b (xor (hist.getD 38 false) (hist.getD 57 false))
    x :: scramble ((x :: hist).take 58) l

/-- The descrambler: y[i] = x[i] XOR x[i - 39] XOR x[i - 58] (R426). -/
def descramble (hist : List Bool) : List Bool → List Bool
  | [] => []
  | x :: l => xor x (xor (hist.getD 38 false) (hist.getD 57 false)) :: descramble ((x :: hist).take 58) l

/-- The payloads of the control blocks a lane sends (R427): IDLE, QUIET on entry or exit, ALIGN of a port lane, TRAIN with
56 bits. -/
def idleBlock : Nat := 0x1E
def quietBlock (entry : Bool) : Nat := 0x2D + (if entry then 0xA5 else 0x5A) * 2 ^ 8
def alignBlock (portLane : Nat) : Nat := 0x4B + portLane % 16 * 2 ^ 8
def trainBlock (bits : Nat) : Nat := 0xD2 + bits % 2 ^ 56 * 2 ^ 8

/-- A block as 66 line bits before scrambling, its sync header in the low two bits, sent first: 01 for data, 10 for control
(R425). -/
def lineBlock (control : Bool) (payload : Nat) : Nat := (if control then 1 else 2) + payload % 2 ^ 64 * 4

/-- The next n bits of a PRBS31 sequence after its last 31 bits, the newest in bit 0 (R427). -/
def prbs31 : Nat → Nat → List Bool
  | _, 0 => []
  | st, n + 1 =>
    let b := xor (st.testBit 27) (st.testBit 30)
    b :: prbs31 (st * 2 % 2 ^ 31 + b2n b) n

/-- The last 31 bits after more bits, oldest first. -/
def prbsAfter (st : Nat) (l : List Bool) : Nat := l.foldl (fun st b => st * 2 % 2 ^ 31 + b2n b) st

/-- The 56 bits of a TRAIN payload, oldest first. -/
def trainBits (v : Nat) : List Bool := (List.range 56).map (fun i => v.testBit i)

/-! ### Status -/

/-- A sticky bit of LANE_STATUS of lane n set; event source 24 + n (R444). -/
def State.laneStick (s : State) (f : Fld) (bit n : Nat) : State :=
  if s.ownDie n then s.stick f (n % 8) (bitAt (s.rd F.LANE_EVENT_EN_EV_MASK (n % 8)) bit) (24 + n % 8) (n % 8) else s

/-- A count of LANE_CNT of lane n advanced. -/
def State.laneCount (s : State) (f : Fld) (n k : Nat) : State :=
  if s.ownDie n then s.countUp f (n % 8) k (2 ^ f.width - 1) else s

/-- Whether lane n is ISOLATED. -/
def State.laneIso (s : State) (n : Nat) : Bool := s.ownDie n && s.isolated kLane (n % 8)

/-! ### Training (R428 to R430) -/

/-- Whether a lane receives: it trains or carries blocks. -/
def Lane.live (x : Lane) : Bool := x.state == laTraining || x.state == laActive || x.state == laQuiet

/-- LANE_LOSS (R429): the receive pair loses signal (0), loses block lock (1) or declares HI_BER (2); hdrErrs invalid sync
headers were counted up to it. -/
def State.laneLoss (s : State) (n cause hdrErrs : Nat) : State :=
  let x := s.lane n
  let s := s.laneCount F.LANE_CNT_HDR_ERR n hdrErrs
  if !x.live then s
  else
    let up := x.state != laTraining
    let s := s.laneTrain n
    let s := s.setLane n { s.lane n with
      signal := cause ≠ 0 && x.signal, hiBer := cause = 2, berAt := if cause = 2 then s.now else x.berAt }
    let s := if cause = 2 then s.laneStick F.LANE_STATUS_HI_BER 1 n else s
    if up then (((if s.ownDie n then s.tallyUp (0x70 + n % 8) else s).laneCount F.LANE_CNT_DOWNS n 1).laneGone n).laneStick
      F.LANE_STATUS_DOWN 0 n
    else s

def execLaneLoss (t : Nat) (lane : Fin 16) (cause : Fin 3) (hdrErrs : Nat) (s : State) :
    Host.Outcome State Fault Refusal :=
  .next ((s.at_ t).laneLoss lane.val cause.val hdrErrs)

/-- LANE_SIGNAL_ARRIVAL (R430, R438). -/
def execLaneSignalArrival (t : Nat) (lane : Fin 16) (s : State) : Host.Outcome State Fault Refusal :=
  let s := s.at_ t
  let x := s.lane lane.val
  .next (if x.state = laTraining || x.state = laDeep then s.setLane lane.val { x with signal := true, sigSince := s.now } else s)

/-- BLOCK_LOCK (R428): 64 blocks with valid sync headers; the PRBS31 checker seeds anew (R432). -/
def execBlockLock (t : Nat) (lane : Fin 16) (s : State) : Host.Outcome State Fault Refusal :=
  let s := s.at_ t
  let x := s.lane lane.val
  .next (if x.live && x.signal && !x.lock then s.setLane lane.val { x with lock := true, prbs := none } else s)

/-- 21,212 blocks of 66 bits at 56 Gbit/s, 25 µs, in fine units (R428, R443). -/
def berSpan : Nat := ceilDiv (21212 * 66 * secF) 56000000000

/-- HI_BER_CLEAR (R428): 21,212 blocks have come without an invalid sync header. -/
def execHiBerClear (t : Nat) (lane : Fin 16) (s : State) : Host.Outcome State Fault Refusal :=
  let s := s.at_ t
  let x := s.lane lane.val
  .next (if x.hiBer && decide (x.berAt + berSpan ≤ s.now) then s.setLane lane.val { x with hiBer := false } else s)

/-- The coefficients that a lane which adapts has come to by now: an open value. -/
def State.adapted (s : State) (n : Nat) : State :=
  let x := s.lane n
  if x.live && !x.frozen then { s.setLane n { x with coef := s.free + 1 } with free := s.free + 1 } else s

/-- A lane leaves DEEP and trains: its coefficients go back to their defaults unless KEEP_COEF is 1 (R430, R434). -/
def State.deepExit (s : State) (n : Nat) : State :=
  (if s.on F.LANE_CTRL_KEEP_COEF (n % 8) then s else s.setLane n { s.lane n with coef := 0 }).laneTrain n

/-- TRAINING_COMPLETE (R430): the lane becomes ACTIVE, or QUIET where PSTATE asks for it; the lanes of a standby Mortise
stay QUIET (R32). -/
def State.trainingDone (s : State) (n : Nat) : State :=
  let x := s.lane n
  if x.state = laTraining && x.signal && x.lock && !x.hiBer && !s.laneIso n then
    let s := s.adapted n
    let x := s.lane n
    let quiet := s.rd F.LANE_CTRL_PSTATE (n % 8) = 1 || s.standbyPort n
    (s.setLane n { x with state := if quiet then laQuiet else laActive }).portStart (s.portOfLane n)
  else s

def execTrainingComplete (t : Nat) (lane : Fin 16) (s : State) : Host.Outcome State Fault Refusal :=
  .next ((s.at_ t).trainingDone lane.val)

/-- RETRAIN (R430): a write of 1 to LANE_CTRL.RETRAIN. -/
def State.retrain (s : State) (n : Nat) : State :=
  if s.laneIso n || (s.lane n).state = laDeep then s else (s.laneTrain n).laneGone n

def execRetrain (t : Nat) (lane : Fin 16) (s : State) : Host.Outcome State Fault Refusal :=
  .next ((s.at_ t).retrain lane.val)

/-! ### Adaptation (R431 to R433) -/

/-- TRAINING_IDLE_START (R431). -/
def execTrainingIdleStart (t : Nat) (lane : Fin 16) (s : State) : Host.Outcome State Fault Refusal :=
  let s := s.at_ t
  let x := s.lane lane.val
  .next (
    if x.state = laActive && s.on F.LANE_CTRL_TI_EN (lane.val % 8) then s.setLane lane.val { x with trainIdle := true } else s)

/-- TRAIN_BLOCK_RX (R432): a TRAIN block with its 56 payload bits. -/
def State.trainRx (s : State) (n v : Nat) : State :=
  let x := s.lane n
  if !x.live || !x.lock then s
  else
    match x.prbs with
    | none => s.setLane n { x with prbs := some (prbsAfter 0 (trainBits v)), frozen := false }
    | some st =>
      if prbs31 st 56 = trainBits v then s.setLane n { x with prbs := some (prbsAfter st (trainBits v)), frozen := false }
      else
        let s := s.setLane n { x with prbs := none }
        (s.laneCount F.LANE_CNT_TI_ERRS n 1).laneStick F.LANE_STATUS_TI_ERR 3 n

def execTrainBlockRx (t : Nat) (lane : Fin 16) (payload : BitVec 56) (s : State) : Host.Outcome State Fault Refusal :=
  .next ((s.at_ t).trainRx lane.val payload.toNat)

/-- ADAPTATION_FREEZE (R433): the equaliser holds the values it has come to. -/
def execAdaptationFreeze (t : Nat) (lane : Fin 16) (s : State) : Host.Outcome State Fault Refusal :=
  let s := s.at_ t
  let x := s.lane lane.val
  .next (
    if x.live && !x.frozen then
      let s := s.adapted lane.val
      (s.setLane lane.val { s.lane lane.val with frozen := true }).laneStick F.LANE_STATUS_FREEZE 2 lane.val
    else s)

/-! ### Power states (R435 to R438) -/

/-- Whether a generator, checker or loopback of lane n is on. -/
def State.laneTesting (s : State) (n : Nat) : Bool :=
  s.on F.LANE_TEST_GEN_EN (n % 8) || s.on F.LANE_TEST_CHK_EN (n % 8) || s.rd F.LANE_TEST_LOOP (n % 8) != 0

/-- Lane n in electrical idle and state st, DEEP or DOWN: its receiver carries nothing, its coefficients are those that it has
come to, and its port goes DOWN (R435, R449, R515). -/
def State.laneIdle (s : State) (n st : Nat) : State :=
  let s := s.adapted n
  (s.setLane n { s.lane n with
    state := st, signal := false, lock := false, hiBer := false, frozen := false, trainIdle := false, prbs := none }).laneGone n

/-- PSTATE v taking effect on lane n. -/
def State.pstateNow (s : State) (n v : Nat) : State :=
  let x := s.lane n
  if s.laneIso n then s
  else if v = 2 then (if x.state = laDeep then s else s.laneIdle n laDeep)
  else if x.state = laDeep then s.deepExit n
  else if v = 1 && x.state = laActive then s.setLane n { x with state := laQuiet, trainIdle := false }
  else if v = 0 && x.state = laQuiet && !s.standbyPort n then
    (s.setLane n { x with state := laActive }).portPump (s.portOfLane n) ((s.port (s.portOfLane n)).waiting.length + 1)
  else s

/-- PSTATE_WRITE (R435, R439): kept while a generator, checker or loopback is on. -/
def State.pstateWrite (s : State) (n v : Nat) : State :=
  let s := s.wrLegal F.LANE_CTRL_PSTATE (n % 8) v
  let v := s.rd F.LANE_CTRL_PSTATE (n % 8)
  if s.laneTesting n then s.setLane n { s.lane n with pstateWait := some v } else s.pstateNow n v

def execPstateWrite (t : Nat) (lane : Fin 16) (pstate : BitVec 2) (s : State) : Host.Outcome State Fault Refusal :=
  .next ((s.at_ t).pstateWrite lane.val pstate.toNat)

/-- QUIET_AUTO_WAKE (R437): a frame waits for a QUIET lane. -/
def State.autoWake (s : State) (n : Nat) : State :=
  let p := s.portOfLane n
  let x := s.port p
  if (s.lane n).state = laQuiet && s.on F.LANE_CTRL_AUTO_WAKE (n % 8) && x.waiting != [] && !s.standbyPort n then
    let s := (s.portLanes p).foldl (fun s k =>
      if (s.lane k).state = laQuiet then (s.setLane k { s.lane k with state := laActive }).wr F.LANE_CTRL_PSTATE (k % 8) 0
      else s) s
    s.portPump p (x.waiting.length + 1)
  else s

def execQuietAutoWake (t : Nat) (lane : Fin 16) (s : State) : Host.Outcome State Fault Refusal :=
  .next ((s.at_ t).autoWake lane.val)

/-- A DEEP lane that has seen signal for 10 µs leaves DEEP and trains (R438); whether it does. -/
def State.deepWake (s : State) (n : Nat) : Bool × State :=
  let x := s.lane n
  if x.state = laDeep && s.on F.LANE_CTRL_WAKE_DET (n % 8) && x.signal && decide (x.sigSince + 10 * usF ≤ s.now) then
    let s := s.deepExit n
    (true, (s.wr F.LANE_CTRL_PSTATE (n % 8) 0).laneStick F.LANE_STATUS_WAKE 4 n)
  else (false, s)

/-! ### Test (R439 to R442) -/

/-- LANE_INJECT (R442): the bits of the next payload that an error complements; KIND 3 sends the sync header 00. -/
def State.laneInject (s : State) (n : Nat) : State :=
  let k := s.rd F.LANE_INJ_KIND (n % 8)
  let pos := s.rd F.LANE_INJ_INJ_POS (n % 8)
  if !(s.laneIso n || s.mode == mService) || k = 0 then s
  else if k = 1 then s.send (.lineError n 1 (2 ^ pos))
  else if k = 2 then s.send (.lineError n 2 ((2 ^ s.rd F.LANE_INJ_BURST_LEN (n % 8) - 1) * 2 ^ pos % 2 ^ 64))
  else s.send (.lineError n 3 0)

def execLaneInject (t : Nat) (lane : Fin 8) (s : State) : Host.Outcome State Fault Refusal :=
  let s := s.at_ t
  .next (s.laneInject (s.portBase + lane.val))

/-- Whether the checker of lane n runs; nothing tells what it has counted (R441). -/
def State.checking (s : State) (n : Nat) : Bool := (s.lane n).state == laTest && s.on F.LANE_TEST_CHK_EN (n % 8)

/-- A write of LANE_TEST (R439): one that sets GEN_EN, CHK_EN or LOOP is discarded unless the lane is ISOLATED. A kept PSTATE
takes effect once all three are off. -/
def State.laneTestWrite (s : State) (n v : Nat) : State :=
  let i := n % 8
  let loop := legalValue F.LANE_TEST_LOOP i (bitsAt v 8 2)
  let sets := bitAt v 4 || bitAt v 5 || loop ≠ 0
  if sets && !s.laneIso n then s
  else
    let s : State :=
      if s.checking n && !bitAt v 5 then
        { (s.wr F.LANE_BERT_BITS i (Config.freeBits 63 s.free)).wr F.LANE_BERT_ERRORS i (Config.freeBits 63 (s.free + 1)) with
          free := s.free + 2 }
      else s
    let s := s.wrLegal F.LANE_TEST_PATTERN i (bitsAt v 0 3)
    let s := ((s.wr F.LANE_TEST_INVERT i (bitsAt v 3 1)).wr F.LANE_TEST_GEN_EN i (bitsAt v 4 1))
    let s := (s.wr F.LANE_TEST_CHK_EN i (bitsAt v 5 1)).wr F.LANE_TEST_LOOP i loop
    if sets then s.setLane n { s.lane n with state := laTest }
    else
      let x := s.lane n
      let s := if x.state = laTest then s.setLane n { x with state := laDown, pstateWait := none } else s
      match x.pstateWait with
      | none => s
      | some p => s.pstateNow n p

def execLaneTestWrite (t : Nat) (lane : Fin 8) (value : BitVec 32) (s : State) : Host.Outcome State Fault Refusal :=
  let s := s.at_ t
  .next (s.laneTestWrite (s.portBase + lane.val) value.toNat)

/-- LANE_CNT_CLR: a write of 1 to LANE_CNT.CLR. -/
def execLaneCntClr (lane : Fin 8) (s : State) : Host.Outcome State Fault Refusal :=
  let n := lane.val
  .next (((s.wr F.LANE_CNT_HDR_ERR n 0).wr F.LANE_CNT_TI_ERRS n 0).wr F.LANE_CNT_DOWNS n 0)

/-- LANE_BERT_CLR: a write of 1 to LANE_BERT's CLR. -/
def execLaneBertClr (lane : Fin 8) (s : State) : Host.Outcome State Fault Refusal :=
  .next ((s.wr F.LANE_BERT_BITS lane.val 0).wr F.LANE_BERT_ERRORS lane.val 0)

end Sys2Proof.Machine
end

