-- ==== Sys2Proof/Machine/Modes.lean ====
section
/-! DEFINITION. Device modes (18_modes_power_reset.md): what each transition does, SAFE, DORMANT with its entry, its
duty-cycled bents and the wake. -/

namespace Sys2Proof.Machine

open Sys2Proof

/-! ### The mode -/

/-- The die event of Tenon t with a cause: 1 loss of lock, 2 port down, 3 supply, 4 self-test, 5 host, 6 returned
(R518). -/
def State.dieEvent (s : State) (t cause : Nat) : State := s.raise (1 + t) cause

/-- MODE set. -/
def State.setMode (s : State) (m : Nat) : State := s.wr F.MODE_STATUS_MODE 0 m

/-- Whether any part is ISOLATED. -/
def State.anyIsolated (s : State) : Bool := s.iso != []

/-- RUN while a part is ISOLATED is DEGRADED (R507). -/
def State.modeJudge (s : State) : State :=
  if s.mode = mRun && s.anyIsolated then (s.setMode mDegraded).modeStick F.MODE_STATUS_DEGRADED 3
  else if s.mode = mDegraded && !s.anyIsolated then s.setMode mRun
  else s

/-- A request or PART_CMD refused (R509, R517). -/
def State.refuse (s : State) : State := s.modeStick F.MODE_STATUS_REFUSED 0

/-- The temperature cause of SAFE that holds now: 2 a Tenon, 3 the acting Mortise, 0 none (R513). -/
def State.hotCause (s : State) : Nat :=
  if (List.range 6).any (fun t => s.present t && (s.tenon t).hot) then 2
  else if smapGet 0 s.dieHot s.dx.die = 1 then 3
  else 0

/-! ### Entry to SETUP, RUN and SERVICE -/

/-- What a channel's streams and chain stop with (R510): its fast stream, and its suppression run with
NO_VALID; a requirement whose span is still open is kept for the next start. -/
def State.chanQuit (s : State) (t c : Nat) : State :=
  let i := chIx t c
  let s := (s.fsDrop t c).gapNoValid t c true
  let k := s.chain i
  s.setChain i { k with sups := k.sups.filter (fun x => x.change == none), runCauses := 0 }

/-- Acquisition of Tenon t stopped (R510). -/
def State.tenonQuiet (s : State) (t : Nat) : State :=
  let s := (List.range 128).foldl (fun s c => (s.chanQuit t c).capStop t c) s
  let s := (List.range 16).foldl (fun s b => s.seqStop (bentIx t b)) s
  let s := (s.breakGates t (fun _ => true) 32).regFlush t (fun _ => true)
  let s := (List.range 16).foldl (fun s u => s.setIntUnit (intIx t u) {}) s
  (tenonStreams t).foldl (fun s sid => s.closeStream sid true) s

/-- Acquisition of every Tenon that commands reach stopped. -/
def State.quiet (s : State) : State :=
  (List.range 6).foldl (fun s t => if s.reachable t then s.tenonQuiet t else s) s

/-- A bent in SAFE (R514): a running slice trips, its entry is abandoned, a driver in scanner use ramps to zero. -/
def State.bentSafe (s : State) (t b : Nat) : State :=
  let i := bentIx t b
  let s := if (s.loop i).running then s.loopTrip t b 3 else s
  if (s.bent i).user = 1 then s.useLeave t b else (s.entryAbandon t b).seqStop i

/-- SAFE entered with its cause (R514). -/
def State.enterSafe (s : State) (cause : Nat) : State :=
  let s := (List.range 6).foldl (fun s t =>
    if s.reachable t then ((List.range 16).foldl (fun s b => s.bentSafe t b) s).tenonQuiet t else s) s
  let s := { s with dorm := {} }
  ((s.setMode mSafe).wr F.MODE_STATUS_SAFE_CAUSE 0 cause).modeStick F.MODE_STATUS_SAFE 1

/-- A cause of SAFE (R508, R509, R513): in DORMANT the node wakes first. -/
def State.askSafe (s : State) (cause : Nat) : State :=
  if s.mode = mDormant then { s with dorm := { s.dorm with safe := cause } }.wakeBegin
  else if s.mode = mSetup || s.streaming then s.enterSafe cause
  else s

/-- SETUP entered; while a temperature cause holds, SAFE follows at once (R513). -/
def State.enterSetup (s : State) : State :=
  let s := (if s.streaming then s.quiet else s).setMode mSetup
  if s.hotCause = 0 then s else s.enterSafe s.hotCause

/-- Sequencers whose SEQ_RUN is 1 and that do not run started. -/
def State.seqsGo (s : State) : State :=
  (List.range 96).foldl (fun s i => if s.seqMay i && !(s.bent i).seqOn && s.reachable (i / 16) then s.seqStart i else s) s

/-- Entry to RUN or SERVICE from SETUP (R511): chains restart, sequencers start. -/
def State.enterRun (s : State) (m : Nat) : State :=
  let s := s.setMode m
  let s := (List.range 6).foldl (fun s t =>
    if s.reachable t then
      (List.range 128).foldl (fun s c =>
        if s.on F.DEC_CTRL_DEC_EN (chIx t c) then s.chainRestart t c gcConfig (s.gridNext t c (s.now : Int)) else s) s
    else s) s
  s.seqsGo

/-- A request that finds no transition in progress (R509). -/
def State.request (s : State) (f : State → State) : State :=
  if s.poAsserted then s
  else if s.dorm.stage = 1 || s.dorm.stage = 3 then s.refuse
  else f s

/-- REQ 2 (R508, R510). -/
def State.reqSetup (s : State) : State :=
  s.request (fun s => if s.streaming || s.mode = mSafe then s.enterSetup else s.refuse)

/-- REQ 3 (R508, R511). -/
def State.reqRun (s : State) : State :=
  s.request (fun s =>
    if s.mode = mSetup then (s.enterRun mRun).modeJudge
    else if s.mode = mService then (s.setMode mRun).modeJudge
    else s.refuse)

/-- REQ 6 (R508, R511, R512). -/
def State.reqService (s : State) : State :=
  s.request (fun s =>
    if s.mode = mSetup then s.enterRun mService
    else if s.mode = mRun || s.mode = mDegraded then s.setMode mService
    else s.refuse)

/-- REQ 7 (R508, R509, R514). -/
def State.reqSafe (s : State) : State :=
  s.request (fun s => if s.mode = mSetup || s.streaming || s.mode = mDormant then s.askSafe 1 else s.refuse)

def execReqSetup (t : Nat) (s : State) : Host.Outcome State Fault Refusal := .next (s.at_ t).reqSetup
def execReqRun (t : Nat) (s : State) : Host.Outcome State Fault Refusal := .next (s.at_ t).reqRun
def execReqService (t : Nat) (s : State) : Host.Outcome State Fault Refusal := .next (s.at_ t).reqService
def execReqSafe (t : Nat) (s : State) : Host.Outcome State Fault Refusal := .next (s.at_ t).reqSafe

/-! ### Entry to DORMANT (R522) -/

/-- Whether any part is UPDATING (R515). -/
def State.updating (s : State) : Bool :=
  (List.range 4).any (fun z => s.zState z == zLoading) || (s.part == .vt8 && s.dx.sbState == 1)

/-- REQ 5: the drain starts. -/
def State.reqDormant (s : State) : State :=
  s.request (fun s =>
    if (s.mode = mRun || s.mode = mDegraded) && !s.updating && s.pool.repair.isNone then
      { s with dorm := { stage := 1, since := s.now } }
    else s.refuse)

def execReqDormant (t : Nat) (s : State) : Host.Outcome State Fault Refusal := .next (s.at_ t).reqDormant

/-- Whether the queues of record rings and forwarders are empty. -/
def State.drained (s : State) : Bool :=
  s.pool.queues.all (fun p => p.2.pkts.isEmpty
    || (s.rd F.QCFG_READER_KIND p.1 != 1 && s.rd F.QCFG_READER_KIND p.1 != 4))

/-- Whether a bent stays on in DORMANT: kept, or in loop use. -/
def State.bentStays (s : State) (i : Nat) : Bool := s.keptBent i || s.rd F.BENT_CTRL_USE i == 2

/-- A bent's domain switched off: its channels end as by ENABLE to 0, which their registers keep (R524). -/
def State.bentSleep (s : State) (t b : Nat) : State :=
  let i := bentIx t b
  let s := (List.range 8).foldl (fun s k =>
    let c := 8 * b + k
    if s.on F.CH_CTRL_ENABLE (chIx t c) then (s.enableOff t c).wr F.CH_CTRL_ENABLE (chIx t c) 1 else s) s
  { s.entryAbandon t b with bentOff := smapSet 0 s.bentOff i 1 }

/-- A bent's domain powered: for its channels ENABLE counts as going from 0 to 1 (R524). -/
def State.bentWake (s : State) (t b : Nat) : State :=
  let s := { s with bentOff := smapSet 0 s.bentOff (bentIx t b) 0 }
  (List.range 8).foldl (fun s k =>
    let i := chIx t (8 * b + k)
    if s.on F.CH_CTRL_ENABLE i then (s.wr F.CH_CTRL_ENABLE i 0).enableOn t (8 * b + k) else s) s

/-- The stored segments of a channel lost with their memory (R162). -/
def State.segLost (s : State) (i : Nat) : State :=
  let s := s.setCap i { s.cap i with segs := [], cur := none, curLeft := 0, reads := [] }
  if s.capState i = csCapturing then s.wr F.CAP_STATE_STATE i csArmed else s

/-- The segment memory of Tenon t with its words gone. -/
def State.segWipe (s : State) (t : Nat) : State :=
  let s := (List.range 128).foldl (fun s c => s.segLost (chIx t c)) s
  { s with segMem := smapDrop s.segMem (fun k => k / segWords == t) }.memFilled (memSeg t)

/-- What Tenon t loses with its timing domain: its clock, its counter, stamps and windows in flight, its interpolator
tables (R175). -/
def State.timingOff (s : State) (t : Nat) : State :=
  let s := s.setTenon t { s.tenon t with clocked := false, locked := false, loaded := false }
  { s with
    stampUnits := smapDrop s.stampUnits (fun k => k / 128 == t)
    intUnits := smapDrop s.intUnits (fun k => k / 16 == t)
    bentMerge := smapDrop s.bentMerge (fun k => k / 16 == t)
    tenonMerge := smapDrop s.tenonMerge (fun k => k == t) }

/-- Tenon t asleep: closed gates enter, open ones are discarded, streams stop, the bents that do not stay go off. -/
def State.tenonSleep (s : State) (t : Nat) : State :=
  let s := s.regFlush t (fun _ => true)
  let s := (List.range 32).foldl (fun s u => s.setGate t u none) s
  let s := (List.range 128).foldl (fun s c => s.chanQuit t c) s
  let duty (i : Nat) : Bool := s.on F.DORM_CFG_DUTY 0 && s.rd F.BENT_CTRL_USE i == 1
  let offs := (List.range 16).filter (fun b => s.bentActive t b && !s.bentStays (bentIx t b))
  let s := offs.foldl (fun s b =>
    let s := s.bentSleep t b
    if duty (bentIx t b) then s else s.seqStop (bentIx t b)) s
  let s := (tenonStreams t).foldl (fun s sid => s.closeStream sid true) s
  let dutied := (offs.map (bentIx t)).filter duty
  let quietTiming := dutied == [] && (List.range 16).all (fun b => !(s.bentActive t b && s.bentStays (bentIx t b)))
  let s := if quietTiming then s.timingOff t else s
  let noSeg := !s.on F.DORM_CFG_SEG_KEEP 0
  let s := if noSeg then s.segWipe t else s
  { s with dorm := { s.dorm with
      duty := s.dorm.duty ++ dutied
      off := s.dorm.off ++ offs.map (fun b => (0, bentIx t b)) ++ (if quietTiming then [(1, t)] else [])
        ++ (if noSeg then [(2, t)] else []) } }

/-- The node asleep (R522, steps 2 to 5). -/
def State.sleep (s : State) : State :=
  let prev := s.mode
  let s := { s with dorm := { stage := 2, since := s.now } }
  let s := (List.range 6).foldl (fun s t => if s.reachable t then s.tenonSleep t else s) s
  let s := (List.range 4).foldl (fun s z => s.zHaltReq z) s
  let s := ((s.wr F.MODE_STATUS_PREV 0 prev).setMode mDormant).holdover
  let lanes := ((List.range 8).map (s.portBase + ·)).filter (fun n => s.portUsed (s.portOfLane n))
  let s := lanes.foldl (fun s n => s.pstateNow n 2) s
  let quads := (List.range 2).filter (fun q => lanes.any (fun n => n % 8 / 4 == q))
  { s with dorm := { s.dorm with off := s.dorm.off ++ quads.map (fun q => (4, q)) ++ [(5, 0)] } }

/-- DORMANT_DRAIN_END (R522): DRAIN ms have passed, or the queues are empty. -/
def execDormantDrainEnd (t : Nat) (s : State) : Host.Outcome State Fault Refusal :=
  let s := s.at_ t
  .next (
    if s.dorm.stage = 1 && (decide (s.dorm.since + s.rd F.DORM_CFG_DRAIN 0 * msF ≤ s.now) || s.drained) then s.sleep else s)

/-! ### Duty-cycled bents (R523) -/

/-- DUTY_POWER_UP: DUTY_LEAD ms before a start instant. -/
def execDutyPowerUp (t : Nat) (tenon : Fin 6) (bent : Fin 16) (s : State) : Host.Outcome State Fault Refusal :=
  let s := s.at_ t
  let i := bentIx tenon.val bent.val
  .next (
    if s.dorm.stage = 2 && s.dorm.duty.contains i && smapGet 0 s.bentOff i = 1 then s.bentWake tenon.val bent.val else s)

/-- DUTY_POWER_DOWN: the pass has ended. -/
def execDutyPowerDown (t : Nat) (tenon : Fin 6) (bent : Fin 16) (s : State) : Host.Outcome State Fault Refusal :=
  let s := s.at_ t
  let i := bentIx tenon.val bent.val
  .next (
    if s.dorm.stage = 2 && s.dorm.duty.contains i && smapGet 0 s.bentOff i = 0 && !(s.bent i).passOn
        && (s.bent i).entry.isNone then s.bentSleep tenon.val bent.val
    else s)

/-! ### The wake (R524, R525) -/

/-- Whether every Tenon in service has its clock, its counter and its memory. -/
def State.tenonsUp (s : State) : Bool :=
  (List.range 6).all (fun t => !s.inService t
    || ((s.tenon t).locked && (s.tenon t).loaded && (s.tenon t).filled))

/-- SAFE after a wake, where a cause of it waited or a temperature holds. -/
def State.safeAfter (s : State) (cause : Nat) : State :=
  let c : Nat := if cause = 0 then s.hotCause else cause
  if c = 0 then s else s.enterSafe c

/-- A core at DX: its registers cleared, and started where RUN is 1 (R384). -/
def State.zWake (s : State) (z : Nat) : State :=
  let st := s.zState z
  if st = zEmpty ∨ st = zLoading then s
  else
    let s := (s.zDiscard z).zUnopen z
    if s.zPowered z && s.on F.ZC_CTRL_RUN z then s.zStart z
    else (s.setZcore z (zFresh s.now)).zSetState z (if st = zTrapped then st else zHalted)

/-- The node awake: the cores start again, the mode is the one held before. -/
def State.awake (s : State) : State :=
  let s := { s with dorm := {} }.setMode (s.rd F.MODE_STATUS_PREV 0)
  let s := (List.range 64).foldl (fun s a => s.statDrop a) s
  let s := (List.range 4).foldl (fun s z => s.zWake z) s
  s.dashReset.seqsGo.modeJudge.modeStick F.MODE_STATUS_WOKE 2

/-- The wake ends once every part powered down is back. -/
def State.wakeJudge (s : State) : State :=
  if s.dorm.stage ≠ 3 || s.dorm.off ≠ [] || !s.tenonsUp then s
  else s.awake.safeAfter s.dorm.safe

/-- A domain back on: kind 0 a bent, 1 the timing domain of a Tenon, 2 its segment memory, 3 a bank group, 4 a lane
quad, 5 compression (R519). -/
def State.powered (s : State) (kind i : Nat) : State :=
  let s := { s with dorm := { s.dorm with off := s.dorm.off.filter (fun x => x != (kind, i)) } }
  if kind = 0 then s.bentWake (i / 16) (i % 16)
  else if kind = 1 then s.setTenon i { s.tenon i with clocked := true }
  else if kind = 2 then s.segWipe i
  else if kind = 4 then
    (List.range 4).foldl (fun s k =>
      let n := s.portBase + 4 * i + k
      if (s.lane n).state = laDeep then s.deepExit n else s) s
  else s

/-- The place of a domain's kind in the order of DX, the reverse of R522's: timing, segment memory and bank groups, then lane
quads and compression, then bents. -/
def dxPlace (kind : Nat) : Nat := if kind = 0 then 2 else if kind = 4 ∨ kind = 5 then 1 else 0

/-- Whether DX has come to a domain: those before it are on, and a bent's Tenon has its clock and its counter (R524). -/
def State.dxReaches (s : State) (kind i : Nat) : Bool :=
  s.dorm.off.all (fun x => decide (dxPlace kind ≤ dxPlace x.1))
    && (kind != 0 || !s.inService (i / 16) || ((s.tenon (i / 16)).locked && (s.tenon (i / 16)).loaded))

/-- DOMAIN_POWERED (R519, R524). -/
def execDomainPowered (t : Nat) (kind : Fin 6) (index : Fin 96) (s : State) : Host.Outcome State Fault Refusal :=
  let s := s.at_ t
  .next (
    if s.dorm.stage = 3 && s.dorm.off.contains (kind.val, index.val) && s.dxReaches kind.val index.val then
      (s.powered kind.val index.val).wakeJudge
    else s)

/-- WAKE_TIMER (R524). -/
def execWakeTimer (t : Nat) (s : State) : Host.Outcome State Fault Refusal :=
  let s := s.at_ t
  .next (
    if s.on F.DORM_WAKE_WAKE_EN 0 && decide (plumbSec (s.rd F.DORM_WAKE_WAKE_SEC 0) * (secF : Int) ≤ s.plumbNow) then s.wakeBegin
    else s)

/-- WAKE_HOST (R524). -/
def execWakeHost (t : Nat) (s : State) : Host.Outcome State Fault Refusal :=
  let s := s.at_ t
  .next (if s.on F.DORM_CFG_HOST_WAKE 0 && !s.poAsserted then s.wakeBegin else s)

/-- DEEP_WAKE (R438, R524). -/
def execDeepWake (t : Nat) (lane : Fin 16) (s : State) : Host.Outcome State Fault Refusal :=
  let (woke, s) := (s.at_ t).deepWake lane.val
  .next (if woke && s.on F.DORM_CFG_FAB_WAKE 0 then s.wakeBegin else s)

/-! ### A Tenon back in service -/

/-- The end of a Tenon's DI: its lock, its fill and its counter are done (R518). -/
def State.tenonBack (s : State) (t : Nat) : State :=
  let x := s.tenon t
  if x.returned && x.locked && x.loaded && x.filled && s.inService t then
    (s.setTenon t { x with returned := false }).dieEvent t 6
  else s

/-- TENON_COUNTER_LOAD (R270): the marked tick that the Mortise named, at least 10 µs after the lock that the naming follows. -/
def execTenonCounterLoad (t : Nat) (tenon : Fin 6) (s : State) : Host.Outcome State Fault Refusal :=
  let s := s.at_ t
  .next (
    if s.plumbNow % ((16 * tickF : Nat) : Int) = 0 ∧ (s.tenon tenon.val).lockAt + 10 * usF ≤ s.now then
      ((s.counterLoad tenon.val).tenonBack tenon.val).wakeJudge
    else s)

end Sys2Proof.Machine
end

