-- ==== Sys2Proof/Machine/Duplex.lean ====
section
/-! DEFINITION. The duplex cycle of a VT8 (17_duplex.md): journals, acknowledgements, heartbeats, readiness, and what
makes a standby request the PEG line. Actions that wait no more are performed, and a takeover acts, in Takeover.lean. -/

namespace Sys2Proof.Machine

open Sys2Proof

/-! ### Registers of both dies -/

/-- A sticky bit of DX_STATUS of the acting die set; event source 56 (R506). -/
def State.dxStick (s : State) (f : Fld) (bit : Nat) : State :=
  let d := s.dx.die
  s.stick f d (bitAt (s.rd F.DX_EVENT_EN_EV_MASK d) bit) 56 (d + s.rd F.DX_STATUS_CAUSE d * 2 ^ 4)

/-- A field of the duplex block set in the copies of both dies. -/
def State.wrBoth (s : State) (f : Fld) (v : Nat) : State := (s.wr f 0 v).wr f 1 v

/-- The duplex block changed. -/
def State.withDx (s : State) (f : Duplex → Duplex) : State := { s with dx := f s.dx }

def State.boot (s : State) (d : Nat) : Boot := smapGet {} s.boots d
def State.setBoot (s : State) (d : Nat) (x : Boot) : State := { s with boots := smapSet {} s.boots d x }

/-- The die that does not act. -/
def State.otherDie (s : State) : Nat := 1 - s.dx.die

/-- Whether the other die can stand by: it has left BOOT and is not ISOLATED. -/
def State.standbyThere (s : State) : Bool :=
  s.part == .vt8 && !s.isolated kStandby 0 && (s.boot s.otherDie).doneAt.isSome

/-! ### Readiness (R500, R501) -/

/-- Stream and SEQ of every packet in the queues. -/
def State.poolKeys (s : State) : List (Nat × Nat) :=
  s.pool.queues.flatMap (fun p => p.2.pkts.map (fun x => (x.rec_.stream, x.rec_.seq)))

/-- SYNCING: the bulk copy starts, and the standby's ports take records from here on. -/
def State.sbSync (s : State) : State :=
  let keys := s.poolKeys
  s.withDx (fun x => { x with sbState := 1, bulk := false, cycles := [], zcopy := [], lacks := keys, alone := [] })

/-- A planned switch-over begins: cause 3 from DX_CTRL.SWITCH, 4 from a port of a Tenon (R495, R499). -/
def State.planSwitch (s : State) (cause : Nat) : State :=
  if s.part = .vt8 && s.dx.held && s.dx.sbState = 2 && s.dx.switching = 0 then
    s.withDx (fun x => { x with switching := cause })
  else s

/-- Whether a Tenon is out of service for its port to the active alone (R554). -/
def State.portLossOnly (s : State) (t : Nat) : Bool :=
  s.isolated kTenon t && (s.tenon t).portLoss && (s.tenon t).down (s.dx.die == 1) && !(s.tenon t).down (s.dx.die != 1)

/-- READY where every condition of R500 holds; a Tenon that only the standby reaches makes it take over (R554). -/
def State.readyJudge (s : State) : State :=
  if s.dx.sbState = 1 && s.dx.bulk && s.dx.cycles == [] && (s.poolKeys.all (fun k => !s.dx.lacks.contains k)) then
    let s := s.withDx (fun x => { x with sbState := 2, mirrorUsed := 0, lacks := [], unconf := [], blocked := [] })
    if (List.range 6).any s.portLossOnly then s.planSwitch 4 else s
  else s

/-- SB_STATE leaves READY, or SYNCING, for another state: what waited for an acknowledgement waits no more (R486). -/
def State.sbLeave (s : State) (st : Nat) : State :=
  let x := s.dx
  if x.sbState = st then s
  else
    let s := { s with
      out := s.out ++ x.blocked.flatMap s.pieces
      dx := { x with
        sbState := st, due := x.due ++ x.cycles.flatMap (·.acts) ++ x.acts, acts := [], firstAt := none, cycles := []
        unconf := [], blocked := [], switching := 0
        req := match x.req with | some (d, c) => if c = 1 then none else some (d, c) | none => none } }
    let s := if x.sbState = 2 then s.dxStick F.DX_STATUS_NOT_READY 1 else s
    if st = 3 then s.dxStick F.DX_STATUS_LAGGING 2 else s

/-- BULK_COPY_DONE (R501). -/
def execBulkCopyDone (t : Nat) (s : State) : Host.Outcome State Fault Refusal :=
  let s := s.at_ t
  .next (
    if s.dx.held && s.dx.sbState = 1 && !s.dx.bulk && s.standbyThere then
      let mem := s.zmem
      -- the copy of the retained counts
      let s := (s.wrBoth F.DX_COUNT_SWITCHES (s.rd F.DX_COUNT_SWITCHES s.dx.die)).wrBoth F.DX_COUNT_UNPLANNED
        (s.rd F.DX_COUNT_UNPLANNED s.dx.die)
      (s.withDx (fun x => { x with bulk := true, zcopy := mem, fresh := false })).readyJudge
    else s)

/-! ### The cycle (R484 to R490) -/

/-- Scarf frames: a heartbeat, and the frames of a cycle. -/
def scHeartbeat : Nat := 0
def scCycle : Nat := 1

/-- Ten nanoseconds in fine units. -/
def ns10 : Nat := 8192

/-- A heartbeat on Scarf, with the flags FAULT (1) and FINAL (2), and the PEG_KEEP pulse (R494). -/
def State.heartbeat (s : State) (flags : Nat) : State :=
  let s := s.send (.scarf scHeartbeat [s.dx.num % 2 ^ 32, flags])
  let now := s.now
  s.withDx (fun x => { x with keepAt := now, missed := 0 })

/-- The actions that fit into n bytes, and the rest. -/
def fitActs : Nat → List Act → List Act × List Act
  | _, [] => ([], [])
  | n, a :: l => if a.bytes ≤ n then ((a :: (fitActs (n - a.bytes) l).1), (fitActs (n - a.bytes) l).2) else ([], a :: l)

/-- The streams whose records reach the standby through MIRROR, with their next sequence numbers (R492). -/
def State.mirrored (s : State) : List (Nat × Nat) :=
  (s.streams.filter (fun p => 11 ≤ p.1 / 4096)).map (fun p => (p.1, p.2.seq))

/-- The journal closed and sent (R484). A cycle with FINAL is the active's last. -/
def State.cycleClose (s : State) : State :=
  let x := s.dx
  if x.sbState = 0 || x.cycles.any (·.final) then s
  else
    let (now, rest) := fitActs cycleRoom x.acts
    let c : Cycle := {
      num := x.num, acts := now, firstAt := if now = [] then none else x.firstAt, final := x.switching != 0
      seqs := s.mirrored }
    let used := Config.freeBits 16 s.free
    let s := { s with
      free := s.free + 1
      dx := { x with
        num := x.num + 1, cycles := x.cycles ++ [c], acts := rest, mirrorUsed := 0, firstAt := if rest = [] then none else x.firstAt
        unconf := x.unconf.map (fun (u : Out × Option Nat) => (u.1, some (u.2.getD x.num))) } }
    (s.wr F.DX_SCARF_USED s.dx.die used).send (.scarf scCycle [c.num, now.length])

/-- DUPLEX_CUTOFF (R484, R494): a Plumb time that is a whole multiple of 16,000 ticks. -/
def execDuplexCutoff (t : Nat) (s : State) : Host.Outcome State Fault Refusal :=
  let s := s.at_ t
  .next (
    if s.part = .vt8 && s.dx.held && s.plumbNow % ((16000 * tickF : Nat) : Int) = 0 then
      (s.heartbeat (if s.dx.switching = 0 then 0 else 2)).cycleClose
    else s)

/-- HEARTBEAT_TIMER (R494): 5 µs after a cutoff. -/
def execHeartbeatTimer (t : Nat) (s : State) : Host.Outcome State Fault Refusal :=
  let s := s.at_ t
  .next (
    if s.part = .vt8 && s.dx.held && s.plumbNow % ((16000 * tickF : Nat) : Int) = ((8000 * tickF : Nat) : Int) then s.heartbeat 0
    else s)

/-- JOURNAL_CYCLE_RX (R484): the standby has the oldest cycle that it lacked, applies it and acknowledges it. -/
def execJournalCycleRx (t : Nat) (s : State) : Host.Outcome State Fault Refusal :=
  let s := s.at_ t
  .next (
    match s.dx.cycles.find? (fun c => !c.received) with
    | none => s
    | some c => s.withDx (fun x => { x with
        mirror := c.seqs
        cycles := x.cycles.map (fun (y : Cycle) => if y.num = c.num then { y with received := true } else y) }))

/-- Host writes that waited under R487 tried again. -/
def State.unblock (s : State) : State :=
  let l := s.dx.blocked
  l.foldl (fun s o => s.hostOut o) (s.withDx (fun x => { x with blocked := [] }))

/-- The oldest cycle acknowledged: its actions are due, its confirmations hold, and after FINAL the active releases PEG
(R485, R487, R499). -/
def State.cycleAcked (s : State) : State :=
  match s.dx.cycles with
  | [] => s
  | c :: rest =>
    if !c.received then s
    else
      let d := s.dx.die
      let wait := match c.firstAt with | none => 0 | some a => min (2 ^ 15 - 1) ((s.now - a) / ns10)
      let s := s.wr F.DX_SCARF_HOLD_MAX d (max (s.rd F.DX_SCARF_HOLD_MAX d) wait)
      let s := s.withDx (fun x => { x with
        cycles := rest, due := x.due ++ c.acts
        unconf := x.unconf.filter (fun u => match u.2 with | none => true | some n => decide (c.num < n)) })
      let s := s.unblock
      if c.final then
        s.withDx (fun x => { x with held := false, released := true, req := some (1 - d, x.switching) })
      else if s.dx.sbState = 3 then s.sbSync
      else s.readyJudge

/-! ### Faults of the cycle -/

/-- HEARTBEAT_MISSED (R494, R495): neither form of a heartbeat came within 1 µs of its due time; after two a READY standby
requests PEG. -/
def execHeartbeatMissed (t : Nat) (s : State) : Host.Outcome State Fault Refusal :=
  let s := s.at_ t
  let x := s.dx
  .next (
    if s.part = .vt8 && s.standbyThere && decide (x.keepAt + (6 + 5 * x.missed) * usF ≤ s.now) then
      s.withDx (fun x => { x with
        missed := x.missed + 1
        req := if 1 ≤ x.missed && x.sbState = 2 && x.req.isNone then some (1 - x.die, 1) else x.req })
    else s)

/-- The active declares itself faulty on a condition (0 supply, 1 temperature, 2 memory, 3 link) that DX_CTRL enables: it
sends FAULT and releases PEG; a READY standby requests it (R495). -/
def State.activeFault (s : State) (kind : Nat) : State :=
  let d := s.dx.die
  let on := s.on (if kind = 0 then F.DX_CTRL_F_SUPPLY else if kind = 1 then F.DX_CTRL_F_TEMP
    else if kind = 2 then F.DX_CTRL_F_MEM else F.DX_CTRL_F_LINK) d
  if s.part ≠ .vt8 || !s.dx.held || !on then s
  else
    let s := (s.dxStick F.DX_STATUS_FAULT 3).wr F.DX_STATUS_FAULT (1 - d) 1
    (s.heartbeat 1).withDx (fun x => { x with
      held := false, released := true
      req := if x.sbState = 2 then some (1 - d, 2) else x.req })

/-- ACTIVE_FAULT (R495). -/
def execActiveFault (t : Nat) (kind : Fin 4) (s : State) : Host.Outcome State Fault Refusal :=
  .next ((s.at_ t).activeFault kind.val)

/-- SWITCH (R499): through the endpoint of a die. -/
def execSwitch (t : Nat) (die : Bool) (s : State) : Host.Outcome State Fault Refusal :=
  let s := s.at_ t
  .next (if b2n die = s.dx.die then s.planSwitch 3 else s)

/-- FORCE_TAKE written through the endpoint of a die (R495). -/
def State.forceTake (s : State) (d : Nat) : State :=
  if s.part = .vt8 && d ≠ s.dx.die && s.standbyThere then s.withDx (fun x => { x with req := some (d, 5) }) else s

/-- FORCE_TAKE (R495, R499). -/
def execForceTake (t : Nat) (die : Bool) (s : State) : Host.Outcome State Fault Refusal :=
  .next ((s.at_ t).forceTake (b2n die))

/-- PEG_REQUEST (R481): Mortise A as it leaves BOOT, Mortise B 100 ms after it has left BOOT while A has not. -/
def execPegRequest (t : Nat) (die : Bool) (s : State) : Host.Outcome State Fault Refusal :=
  let s := s.at_ t
  let d := b2n die
  .next (
    match (s.boot d).doneAt with
    | none => s
    | some a =>
      if s.part = .vt8 && !s.dx.held && !s.dx.released && s.dx.req.isNone && smapGet 0 s.dieRails d = 0
          && (!die || (decide (a + 100 * msF ≤ s.now) && (s.boot 0).doneAt.isNone)) then
        s.withDx (fun x => { x with req := some (d, 0) })
      else s)

/-! ### Clearing the counts -/

/-- DX_COUNT_CLR: a write of 1 to DX_COUNT.CLR through the endpoint of a die; the active's write reaches both copies. -/
def execDxCountClr (die : Bool) (s : State) : Host.Outcome State Fault Refusal :=
  let d := b2n die
  .next (
    if d = s.dx.die then (s.wrBoth F.DX_COUNT_SWITCHES 0).wrBoth F.DX_COUNT_UNPLANNED 0
    else (s.wr F.DX_COUNT_SWITCHES d 0).wr F.DX_COUNT_UNPLANNED d 0)

/-- DX_SCARF_CLR: a write of 1 to DX_SCARF.CLR through the endpoint of a die. -/
def execDxScarfClr (die : Bool) (s : State) : Host.Outcome State Fault Refusal :=
  .next (s.wr F.DX_SCARF_HOLD_MAX (b2n die) 0)

end Sys2Proof.Machine
end

