-- ==== Sys2Proof/Machine/Parts.lean ====
section
/-! DEFINITION. Part states (18_modes_power_reset.md): how a bent, Tenon, core, lane or standby Mortise leaves service and
comes back, the resets BE and DI, and the ports of the Tenons. -/

namespace Sys2Proof.Machine

open Sys2Proof

/-! ### Part states (R515) -/

/-- Causes of ISOLATED (PART_STATE.CAUSE). -/
def icHost : Nat := 0
def icFault : Nat := 1
def icSupply : Nat := 2

/-- PART_STATE of a part: 0 ACTIVE, 1 IDLE, 2 ISOLATED, 3 UPDATING. -/
def State.partState (s : State) (kind i : Nat) : Nat :=
  if s.isolated kind i then 2
  else if kind = kBent then (if s.bentActive (i / 16) (i % 16) then 0 else 1)
  else if kind = kTenon then (if (List.range 16).any (fun b => !s.isolated kBent (bentIx i b) && s.bentActive i b) then 0 else 1)
  else if kind = kCore then
    (if s.zState i = zLoading then 3 else if s.zState i = zRunning || s.zState i = zWaiting then 0 else 1)
  else if kind = kLane then (if (s.port (s.portOfLane (s.portBase + i))).state = poUp then 0 else 1)
  else if s.dx.sbState = 2 then 0
  else if s.dx.sbState = 1 then 3
  else if s.dx.sbState = 3 then 1
  else 2

/-! ### Tenons out of service (R20, R23, R516, R531, R554) -/

/-- CAPTURE_READs of channels on which p holds complete with the segments they have sent (R158, R161). -/
def State.readsEnd (s : State) (p : Nat → Bool) : State :=
  let mine (j : Job) : Bool := j.started && j.op == 0x12 && j.stage == 1 && p (chIx (bitsAt (j.w 1) 0 3) (bitsAt (j.w 1) 8 7))
  (s.jobs.filter mine).foldl (fun s j =>
    { s with caps := s.caps.map (fun (c : Nat × Cap) => (c.1, { c.2 with reads := c.2.reads.filter (fun x => x.1 != j.id) })) }.commit
      j stDone j.prog) s

/-- SCRUBs of memory m in execution complete with the words they have read (R396). -/
def State.scrubsEnd (s : State) (m : Nat) : State :=
  (s.pool.scrubs.filter (fun x => x.mem == m)).foldl (fun s x =>
    match s.job x.job with
    | none => s
    | some j =>
      let (n, s) := s.scrubCut j x
      s.commit j stDone n) s

/-- Tenon t ISOLATED with PART_STATE.CAUSE cause; its die event carries ev, where it raises one itself. A Tenon that is out of
service for port loss and meets another cause is out of service for that one from then on. -/
def State.isolateTenon (s : State) (t cause ev : Nat) (loss : Bool) : State :=
  if !s.present t then s
  else if s.isolated kTenon t then
    (if (s.tenon t).portLoss && !loss then (s.setIso kTenon t (some cause)).setTenon t { s.tenon t with portLoss := false } else s)
  else
    let s := s.setIso kTenon t (some cause)
    let s := s.setTenon t { s.tenon t with portLoss := loss, away := true }
    let s := (s.readsEnd (fun i => i / 128 == t)).scrubsEnd (memSeg t)
    let s := if s.part = .vt8 then s.pairSolo t 1 else s
    (s.dieEvent t ev).modeJudge

/-- LOSS_OF_LOCK (R20, R518): the die event is raised whether or not the Tenon was in service. -/
def execLossOfLock (t : Nat) (tenon : Fin 6) (s : State) : Host.Outcome State Fault Refusal :=
  let s := s.at_ t
  let x := s.tenon tenon.val
  .next (
    if s.present tenon.val && x.locked then
      let s' := (s.setTenon tenon.val { x with locked := false }).isolateTenon tenon.val icFault 1 false
      if s.isolated kTenon tenon.val then s'.dieEvent tenon.val 1 else s'
    else s)

/-- TCLK_PLL_LOCK (R19). -/
def execTclkPllLock (t : Nat) (tenon : Fin 6) (s : State) : Host.Outcome State Fault Refusal :=
  let s := s.at_ t
  let x := s.tenon tenon.val
  .next (
    if s.present tenon.val && x.clocked && !s.poAsserted then
      ((s.setTenon tenon.val { x with locked := true, lockAt := s.now }).tenonBack tenon.val).wakeJudge
    else s)

/-- A port of Tenon t declared down, with its event (R23, R518). On VT8 the port of the standby costs nothing; that of the
active leads to a planned switch-over to a READY standby whose port is up, or to R554. -/
def State.tenonPortDown (s : State) (t : Nat) (b : Bool) : State :=
  let b := b && s.part == .vt8
  let x := s.tenon t
  if !s.present t || x.down b then s
  else
    let s := s.setTenon t (if b then { x with downB := true } else { x with downA := true })
    if s.isolated kTenon t || b2n b ≠ (if s.part = .vt8 then s.dx.die else 0) then s.dieEvent t 2
    else if s.part ≠ .vt8 then s.isolateTenon t icFault 2 true
    else if s.dx.sbState = 2 && !(x.down !b) then (s.dieEvent t 2).planSwitch 4
    else s.isolateTenon t icFault 2 true

/-- TENON_PORT_DOWN (R23). -/
def execTenonPortDown (t : Nat) (tenon : Fin 6) (portB : Bool) (s : State) : Host.Outcome State Fault Refusal :=
  .next ((s.at_ t).tenonPortDown tenon.val portB)

/-- TENON_LINK_FRAME_RX (R22, R23): a frame of one direction of a port (port B or A, down to the Tenon or up) arrives, given by
its place in that direction and whether its CRC-32C matches. The next frame due is taken, or discarded with a request to replay from it onwards; frames behind a failed one are
discarded until it has come. The eighth failed attempt in a row declares the port down. -/
def execTenonLinkFrameRx (t : Nat) (tenon : Fin 6) (dir : Bool × Bool) (frame : Nat × Bool) (s : State) :
    Host.Outcome State Fault Refusal :=
  let s := s.at_ t
  let tn := tenon.val
  let x := s.tenon tn
  let r := x.link dir.1 dir.2
  .next (
    if !s.present tn || x.down dir.1 || (dir.1 && s.part != .vt8) || frame.1 ≠ r.next then s
    else if frame.2 then s.setTenon tn (x.setLink dir.1 dir.2 { next := r.next + 1 })
    else
      let s := s.setTenon tn (x.setLink dir.1 dir.2 { r with fails := r.fails + 1, replay := true })
      if 7 ≤ r.fails then s.tenonPortDown tn dir.1 else s)

/-- TENON_SILENCE_TIMEOUT (R516): a Tenon isolated for port loss has had no frame on any port in use for 1 ms; bents whose
slice does not run lose their domains. -/
def execTenonSilenceTimeout (t : Nat) (tenon : Fin 6) (s : State) : Host.Outcome State Fault Refusal :=
  let s := s.at_ t
  let tn := tenon.val
  let x := s.tenon tn
  .next (
    if s.isolated kTenon tn && x.portLoss && x.downA && (x.downB || s.part ≠ .vt8) then
      (List.range 16).foldl (fun s b =>
        let i := bentIx tn b
        if s.rd F.BENT_CTRL_USE i = 2 && (s.loop i).running then s
        else if s.bentActive tn b then (s.bentSleep tn b).seqStop i
        else { s with bentOff := smapSet 0 s.bentOff i 1 }) s
    else s)

/-! ### BE and DI (R526 to R528) -/

/-- The copies of fields that a reset does not keep back at their Reset values: those of fs whose copy's place in its
block, of the n2 copies beside each other, satisfies p. -/
def State.resetCopies (s : State) (bit : Nat) (fs : List Fld) (p : Fld → Nat → Bool) : State :=
  let gone := fs.filter (fun f => !bitAt f.kept bit)
  { s with regs := s.regs.filter (fun x => !gone.any (fun f => f.id == x.1 / 2 ^ 20 && p f (x.1 % 2 ^ 20))) }

/-- The open record of a stream discarded in its Tenon: it keeps its number, and on every port a loss record will cover it
(R285, R286, R289). -/
def State.dropOpen (s : State) (sid : Nat) : State :=
  let st := s.stream sid
  match st.cur with
  | none => s
  | some r =>
    let lose (s : State) (side : Nat) : State := s.setLoss side sid (some (addLoss (s.loss side sid) r 1))
    let s := lose (s.setStream sid { st with cur := none }) 0
    if s.part = .vt8 then lose s 1 else s

/-- BE of bent b of Tenon t. -/
def State.bentReset (s : State) (t b : Nat) : State :=
  let i := bentIx t b
  let cs := (List.range 8).map (8 * b + ·)
  let s := s.breakGates t (fun g => g.ch / 8 == b) 32
  let s := (cs.flatMap (fun c => [streamId 1 t c, streamId 2 t c, streamId 3 t c]) ++ [streamId 4 t b, streamId 8 t b]).foldl
    (fun s sid => s.dropOpen sid) s
  let s := s.resetCopies 6 (F.chanTable ++ F.capTable) (fun _ k => k / 8 == i)
  let s := s.resetCopies 6 (F.bentTable ++ F.loopTable) (fun f k => k / (f.n1 * f.n2) == i)
  let s := s.resetCopies 6 F.stampTable (fun f k => f.n1 == 128 && k / f.n2 / 8 == i)
  let s := { s with
    chans := smapDrop s.chans (fun k => k / 8 == i)
    chains := smapDrop s.chains (fun k => k / 8 == i)
    caps := smapDrop s.caps (fun k => k / 8 == i)
    xtrig := smapDrop s.xtrig (fun k => k == i)
    loops := smapDrop s.loops (fun k => k == i)
    bents := smapDrop s.bents (fun k => k == i)
    bentOff := smapSet 0 s.bentOff i 0 }
  let s := cs.foldl (fun s c =>
    let k := chIx t c
    ((s.reclamp k).setStampUnit k { s.stampUnit k with pe := none }).gridPlace t c) s
  let s := s.setTenon t { s.tenon t with pulses := (s.tenon t).pulses.filter (fun p => p.1 / 8 != b) }
  s.readsEnd (fun k => k / 8 == i)

/-- Which copies of a field of a Tenon block belong to Tenon t. -/
def ofTenon (t : Nat) (f : Fld) (k : Nat) : Bool :=
  let n := k / (f.n1 * f.n2)
  match f.blk with
  | .chan | .cap => n / 128 == t
  | .bent | .loop => n / 16 == t
  | _ => n == t

/-- DI of Tenon t. -/
def State.tenonReset (s : State) (t : Nat) : State :=
  let x := s.tenon t
  let mine (n : Nat) (k : Nat) : Bool := k / n == t
  let s := s.resetCopies 5 (F.chanTable ++ F.capTable ++ F.bentTable ++ F.loopTable ++ F.stampTable ++ F.tdieTable
    ++ F.capdieTable) (ofTenon t)
  -- the exception that R321 states for the copies of memory 32 + t (R10)
  let s := [F.MEM_ECC_SINGLE, F.MEM_ECC_DOUBLE, F.MEM_ECC_UNCORR, F.MEM_ECC_ADDR, F.MEM_ECC_FIRST_BAD,
    F.MEM_ECC_BAD_VALID].foldl (fun s f => s.wr f (memSeg t) 0) s
  let sids := tenonStreams t
  let s := { s with
    chans := smapDrop s.chans (mine 128), chains := smapDrop s.chains (mine 128), caps := smapDrop s.caps (mine 128)
    stampUnits := smapDrop s.stampUnits (mine 128), xtrig := smapDrop s.xtrig (mine 16), loops := smapDrop s.loops (mine 16)
    bents := smapDrop s.bents (mine 16), bentMerge := smapDrop s.bentMerge (mine 16), bentOff := smapDrop s.bentOff (mine 16)
    intUnits := smapDrop s.intUnits (mine 16), tenonMerge := smapDrop s.tenonMerge (mine 1)
    gates := smapDrop s.gates (mine 32), gatesDone := s.gatesDone.filter (fun g => g.1 / 32 != t)
    userSets := smapDrop s.userSets (mine 4), segMem := smapDrop s.segMem (mine segWords)
    streams := smapDrop s.streams (fun k => sids.contains k)
    losses := smapDrop s.losses (fun k => decide (k / 65536 < 2) && sids.contains (k % 65536)) }
  let s := (s.memFilled (memSeg t)).readsEnd (mine 128)
  let s := s.setTenon t {
    clocked := x.rails == 0, returned := true, rails := x.rails, vexLow := x.vexLow, hot := x.hot, away := x.away }
  s.wr F.RESET_CAUSE_TENON_DI 0 (s.rd F.RESET_CAUSE_TENON_DI 0 ||| 2 ^ t)

/-- The fields of the duplex and security blocks that a DI of the standby returns to their Reset values: all but those in
retention memory and those read from OTP (R12, R529, R549). -/
def F.standbyFields : List Fld :=
  (F.duplexTable ++ F.secTable).filter (fun f => !bitAt f.kept 1 && f.acc != .wo)

/-- DI of the standby Mortise: its start-up begins again, and its copies return to their Reset values, whatever their Kept by
columns (R12), until the bulk copy brings what the standby takes again from the active (R501). -/
def State.standbyReset (s : State) : State :=
  let d := s.otherDie
  let s := s.sbLeave 0
  let gone := F.standbyFields.map (·.id)
  let s := { s with regs := s.regs.filter (fun x => !(gone.contains (x.1 / 2 ^ 20) && x.1 % 2 ^ 20 == d)) }.newNonce d
  let s := { s with
    ports := smapDrop s.ports (fun k => k / 8 == d), lanes := smapDrop s.lanes (fun k => k / 8 == d) }
  (s.withDx (fun x => { x with zcopy := [], bulk := false, fresh := true })).setBoot d {
    refclk := (s.boot d).refclk, fedAt := (s.boot d).fedAt }

/-! ### PART_CMD (R517) -/

/-- The part that PART_SEL names. -/
def State.partSel (s : State) : Nat × Nat := (s.rd F.PART_SEL_KIND 0, s.rd F.PART_SEL_INDEX 0)

/-- Whether a part exists on this device. -/
def State.partThere (s : State) (kind i : Nat) : Bool :=
  if kind = kBent then s.present (i / 16)
  else if kind = kTenon then s.present i
  else if kind = kStandby then s.part == .vt8
  else true

/-- A command of PART_CMD on the selected part, where the mode lets it act. -/
def State.partCmd (s : State) (f : Nat → Nat → State → State) : State :=
  let (kind, i) := s.partSel
  let wide := kind == kTenon || kind == kStandby
  if s.poAsserted || !s.partThere kind i then s
  else if s.mode = mBoot || (wide && !(s.mode == mSetup || s.mode == mService || s.mode == mSafe))
      || (kind == kBent && s.isolated kTenon (i / 16)) then s.refuse
  else f kind i s

/-- ISOLATE of a part in service. -/
def State.partIsolate (kind i : Nat) (s : State) : State :=
  if s.isolated kind i then s
  else if kind = kTenon then s.isolateTenon i icHost 5 false
  else
    let s := s.setIso kind i (some icHost)
    let s :=
      if kind = kBent then s.bentReset (i / 16) (i % 16)
      else if kind = kCore then s.zHaltReq i
      else if kind = kLane then s.laneIdle (s.portBase + i) laDown
      else s.sbLeave 0
    s.modeJudge

/-- BE of bent i by its RESET or RELEASE; while a DI of its Tenon is in progress it is absorbed into that (R527). -/
def State.bentBE (s : State) (i : Nat) : State :=
  if (s.tenon (i / 16)).returned then s else s.bentReset (i / 16) (i % 16)

/-- RELEASE of an ISOLATED part. -/
def State.partRelease (kind i : Nat) (s : State) : State :=
  if !s.isolated kind i then s
  else
    let s := s.setIso kind i none
    let s :=
      if kind = kBent then s.bentBE i
      else if kind = kTenon then s.tenonReset i
      else if kind = kCore then s
      else if kind = kLane then s.laneTrain (s.portBase + i)
      else s.standbyReset
    s.modeJudge

/-- RESET of a part: BE, DI, a halt and restart of a core, a retrain of a lane. -/
def State.partReset (kind i : Nat) (s : State) : State :=
  if kind = kBent then s.bentBE i
  else if kind = kTenon then s.tenonReset i
  else if kind = kCore then
    (if s.isolated kCore i || s.zState i = zEmpty || s.zState i = zLoading then s else (s.zHalt i).zRun i)
  else if kind = kLane then s.retrain (s.portBase + i)
  else s.standbyReset

end Sys2Proof.Machine
end

