-- ==== Sys2Proof/Machine/Power.lean ====
section
/-! DEFINITION. Supplies, resets of the package, start-up, temperature and health records (18_modes_power_reset.md,
20_faults_and_availability.md, 21_electrical_and_package.md). -/

namespace Sys2Proof.Machine

open Sys2Proof

/-! ### PO and PN (R520, R527, R528, R531) -/

/-- What no reset of the package touches: the fuses and the store of each island, a DEBUG_OPEN whose fuse pass was under
way being completed (R549); the pins. -/
def State.fusesOf (s : State) : SMap Sec :=
  let s := match s.secq.head? with
    | some (.burn _ _ .opening) => s.secBurned s.dx.die .opening
    | _ => s
  s.secs.map (fun p => (p.1, { p.2 with peerKey := [], xsig := [] }))

/-- The Tenons with nothing but what their supplies and temperatures are. -/
def State.tenonPins (s : State) : SMap Tenon :=
  s.tenons.map (fun p => (p.1, { rails := p.2.rails, vexLow := p.2.vexLow, hot := p.2.hot }))

/-- The nonces of both dies and of the fabric drawn afresh (FAB_FA_NONCE, SEC_NONCE). -/
def State.freshNonces (s : State) : State :=
  let (n, s) := ((s.newNonce 0).newNonce 1).random 64
  s.wr F.FAB_FA_NONCE_NONCE 0 n

/-- PO: every state that it resets is reset at its assertion (R531). -/
def State.powerReset (s : State) : State :=
  let r : State := { State.reset with
    pending := s.pending, now := s.now, free := s.free, part := s.part, out := s.out, poAsserted := true
    pool := { picks := s.pool.picks }, dieRails := s.dieRails, dieHot := s.dieHot, secs := s.fusesOf, tenons := s.tenonPins
    boots := s.boots.map (fun (p : Nat × Boot) => (p.1, { refclk := p.2.refclk, fedAt := p.2.fedAt })) }
  r.freshNonces

/-- Whether every supply of the Mortise dies of the part is in range, and has been for 2 ms since the last was declared so
(R520). -/
def State.mortisesFed (s : State) : Bool :=
  let fed (d : Nat) : Bool := smapGet 0 s.dieRails d == 0 && (s.boot d).fedAt.all (fun a => decide (a + 2 * msF ≤ s.now))
  fed 0 && (s.part != .vt8 || fed 1)

/-- POWER_ON_ASSERT (R520, R531). -/
def execPowerOnAssert (t : Nat) (s : State) : Host.Outcome State Fault Refusal :=
  let s := s.at_ t
  .next (if s.poAsserted then s else s.powerReset)

/-- Plumb time from zero, with REFCLK counting (R251). -/
def State.plumbZero (s : State) : State := { s with plumbOff := -(s.now : Int) }

/-- POWER_ON_RELEASE (R520): BOOT starts. -/
def execPowerOnRelease (t : Nat) (s : State) : Host.Outcome State Fault Refusal :=
  let s := s.at_ t
  .next (if s.poAsserted && s.mortisesFed then { s with poAsserted := false }.plumbZero else s)

/-- PN: what its columns and the survival table keep stays (R528). -/
def State.pinReset (s : State) : State :=
  let kept := (F.all.filter (fun f => bitAt f.kept 1)).map (·.id)
  let own (k : Nat) : Bool := k / 2 ^ 24 == memRoute || k / 2 ^ 24 == memRetention
  let r : State := { s.powerReset with
    poAsserted := false, tap := s.tap, regs := s.regs.filter (fun p => kept.contains (p.1 / 2 ^ 20)), route := s.route
    pool := { ({} : Pool) with
      picks := s.pool.picks, rows := s.pool.rows, flips := s.pool.flips.filter (fun p => own p.1), wb := s.pool.wb.filter own } }
  (r.wr F.RESET_CAUSE_PKG 0 1).freshNonces.plumbZero

/-- PIN_RESET (R527): RST_N low for at least 1 µs; BOOT starts at its release. -/
def execPinReset (t : Nat) (s : State) : Host.Outcome State Fault Refusal :=
  let s := s.at_ t
  .next (if s.poAsserted then s else s.pinReset)

/-- PERST (R568): an HO of the endpoint of a die. -/
def execPerst (t : Nat) (die : Bool) (s : State) : Host.Outcome State Fault Refusal :=
  let s := s.at_ t
  .next (if b2n die = s.dx.die then s.hostReset else s)

/-! ### Supplies (R531, R532, R564) -/

/-- A supply of a die out of range, as a bit of its mask. -/
def withRail (mask supply : Nat) (bad : Bool) : Nat :=
  let m := mask - (if mask.testBit supply then 2 ^ supply else 0)
  if bad then m + 2 ^ supply else m

/-- SUPPLY_IN_RANGE (R564). -/
def execSupplyInRange (t : Nat) (tenon : Option (Fin 6)) (die : Bool) (supply : Fin 8) (s : State) :
    Host.Outcome State Fault Refusal :=
  let s := s.at_ t
  .next (
    match tenon with
    | some tn => s.setTenon tn.val { s.tenon tn.val with rails := withRail (s.tenon tn.val).rails supply.val false }
    | none =>
      let d := b2n die
      { s with dieRails := smapSet 0 s.dieRails d (withRail (smapGet 0 s.dieRails d) supply.val false) }.setBoot d
        { s.boot d with fedAt := some s.now })

/-- VEX_LOW_SET (R532): the IEPE monitors of the Tenon take no reading, and count afresh when readings resume (R41). -/
def execVexLowSet (t : Nat) (tenon : Fin 6) (s : State) : Host.Outcome State Fault Refusal :=
  let s := s.at_ t
  .next (
    if s.present tenon.val then
      (List.range 128).foldl (fun s c => s.iepeAfresh (chIx tenon.val c))
        (s.setTenon tenon.val { s.tenon tenon.val with vexLow := true })
    else s)

/-- VEX_LOW_CLEAR (R532). -/
def execVexLowClear (t : Nat) (tenon : Fin 6) (s : State) : Host.Outcome State Fault Refusal :=
  let s := s.at_ t
  .next (s.setTenon tenon.val { s.tenon tenon.val with vexLow := false })

/-! ### Start-up (R520, R521) -/

/-- REFCLK_ARRIVAL (R521). -/
def execRefclkArrival (t : Nat) (die : Bool) (s : State) : Host.Outcome State Fault Refusal :=
  let s := s.at_ t
  .next (s.setBoot (b2n die) { s.boot (b2n die) with refclk := true })

/-- The fields whose values are calibration constants, whose streams carry an epoch (R102, R529, R530). -/
def calFields : List Nat :=
  [F.SCAN_GAIN_CAL.id, F.SCAN_OFS_CAL.id, F.EXC_GAIN_CAL.id, F.EXC_OFS_CAL.id, F.IMON_GAIN_CAL.id, F.CH_GAIN_CAL.id,
   F.CH_OFS_CAL.id]

/-- A retained register field lost with its word: back at its factory or Reset value, and the epoch of a calibration
constant's stream counts (R530). -/
def State.retainedLost (s : State) (key : Nat) : State :=
  match F.all.find? (fun f => f.id == key / 2 ^ 20) with
  | none => s
  | some f =>
    if !bitAt f.kept 1 || f.kept = 255 then s
    else
      let i := key % 2 ^ 20
      let s := s.toReset f i
      let b := i / (f.n1 * f.n2)
      let up (e : Fld) (k : Nat) : State := s.wr e k (s.rd e k + 1)
      if f.id = F.CH_GAIN_CAL.id || f.id = F.CH_OFS_CAL.id then
        up F.CH_EPOCH (b * 8 + i % (f.n1 * f.n2) / f.n2)
      else if calFields.contains f.id then up F.SCAN_EPOCH_EPOCH b
      else if f.id = F.ST_DLY_DISC_DLY.id then up F.ST_EPOCH_EPOCH b
      else s

/-- Every word of retention memory read (R530). -/
def State.retentionRead (s : State) : State :=
  (s.pool.flips.filter (fun p => p.1 / 2 ^ 24 == memRetention)).foldl (fun s p =>
    let a := p.1 % 2 ^ 24
    let o := flipOutcome memRetention a p.2
    let s := s.memCount memRetention a o
    if o = .uncorr || o = .addrFault then (Config.retained a).foldl (fun s k => s.retainedLost k) s else s) s

/-- BOOT_STEP_DONE (R520): step 1 (0), after which each Tenon with supplies in range has its forwarded clock; the PLL lock
of step 2 (1), after which the lanes train. -/
def execBootStepDone (t : Nat) (die : Bool) (step : Fin 2) (s : State) : Host.Outcome State Fault Refusal :=
  let s := s.at_ t
  let d := b2n die
  let b := s.boot d
  .next (
    if s.poAsserted || !b.refclk then s
    else if step.val = 0 then
      if b.s1 then s
      else
        let s := (s.setBoot d { b with s1 := true }).retentionRead
        (List.range 6).foldl (fun s k =>
          if s.present k && (s.tenon k).rails = 0 && !s.isolated kTenon k && s.mode = mBoot then
            s.setTenon k { s.tenon k with clocked := true }
          else s) s
    else if b.s1 && !b.pll then
      let s := s.setBoot d { b with pll := true }
      (List.range 8).foldl (fun s k =>
        let n := 8 * d + k
        if s.portUsed (s.portOfLane n) && (s.lane n).state = laDown then s.laneTrain n else s) s
    else s)

/-- MEMORY_FILL_DONE (R327, R328): of a Tenon, or of a Mortise die. -/
def execMemoryFillDone (t : Nat) (tenon : Option (Fin 6)) (die : Bool) (s : State) : Host.Outcome State Fault Refusal :=
  let s := s.at_ t
  .next (
    match tenon with
    | some tn =>
      let x := s.tenon tn.val
      if !s.present tn.val || !x.locked || x.filled then s
      else
        (((s.setTenon tn.val { x with filled := true }).memFilled (memSeg tn.val)).tenonBack tn.val).wakeJudge
    | none =>
      let d := b2n die
      let b := s.boot d
      if !b.s1 || b.fill then s
      else
        let s := s.setBoot d { b with fill := true }
        if d ≠ s.dx.die || s.pool.ready then s
        else
          let s := (List.range 24).foldl (fun s m => if m = memRoute || m = memRetention then s else s.memFilled m) s
          { s with pool := { s.pool with ready := true } })

/-- SELF_TEST_DONE (R520, R521): of a Tenon, or of a Mortise die. -/
def execSelfTestDone (t : Nat) (tenon : Option (Fin 6)) (die ok : Bool) (s : State) : Host.Outcome State Fault Refusal :=
  let s := s.at_ t
  .next (
    match tenon with
    | some tn =>
      let x := s.tenon tn.val
      if !s.present tn.val || !x.filled || x.tested || s.mode ≠ mBoot then s
      else if ok then s.setTenon tn.val { x with tested := true }
      else
        (s.wr F.BOOT_STATUS_TENON_FAIL 0 (s.rd F.BOOT_STATUS_TENON_FAIL 0 ||| 2 ^ tn.val)).isolateTenon tn.val icFault 4 false
    | none =>
      let d := b2n die
      let b := s.boot d
      if !(b.fill && b.pll) || b.test || b.failTest then s
      else if ok then s.setBoot d { b with test := true }
      else
        let s := s.setBoot d { b with failTest := true }
        if s.part = .vt8 then s.setIso kStandby 0 (some icFault) else s)

/-- Whether step 3 has ended for every Tenon: tested, ISOLATED, or without its supplies. -/
def State.tenonsTested (s : State) : Bool :=
  (List.range 6).all (fun t => !s.present t || (s.tenon t).tested || s.isolated kTenon t || (s.tenon t).rails != 0)

/-- The bundle of a boot entry read from the store and verified: its sections, or the code of its failure (R541). -/
def State.bootBundle (s : State) (d : Nat) (e : BootEntry) : Except Nat (List Section) :=
  let ws := ((s.sec d).store.drop (e.offset / 8)).take (ceilDiv e.len 8)
  if digest (bytesOf (ws.take (4 + 8 * bitsAt (ws.headD 0) 40 5))) ≠ e.digest then
    -- the code of a bundle that is not its entry's is open
    .error (Config.openRead 2000 (2 * e.core + d) s.now % 16)
  else s.verifyBundle d ws e.len

/-- The cores that a boot entry governs, and their entries, in the order in which step 5 takes them (R540, R541). -/
def State.bootEntries (s : State) (d : Nat) : List (Nat × BootEntry) :=
  (List.range 4).filterMap (fun z => (s.governing d z).map (fun e => (z, e)))

/-- BOOT_BUNDLE_VERIFY (R541): step 5 of die d. -/
def execBootBundleVerify (t : Nat) (die : Bool) (s : State) : Host.Outcome State Fault Refusal :=
  let s := s.at_ t
  let d := b2n die
  let b := s.boot d
  let act := d == s.dx.die && s.mode == mBoot
  .next (
    if !b.test || b.bundles || b.failBundle || (act && !s.tenonsTested) then s
    else
      let (bad, s) : Bool × State := (s.bootEntries d).foldl (fun (x : Bool × State) p =>
        let s := x.2
        match s.bootBundle d p.2 with
        | .error c => (true, { s with free := s.free + 1 }.badBundle d c 15)
        | .ok l =>
          if !act then (x.1, s.countUp F.SEC_CNT_LOADS d 1 (2 ^ 32 - 1))
          else
            let s := s.zLoaded d p.1 l
            (x.1, if p.2.autorun then s.zRun p.1 else s)) (false, s)
      if bad then
        let s := s.setBoot d { b with failBundle := true }
        if s.part = .vt8 then s.setIso kStandby 0 (some icFault) else s
      else s.setBoot d { b with bundles := true })

/-- Step 6: the Tenons' counters are loaded, at a marked tick before the end of BOOT, and SETUP is entered, or SAFE while a
temperature cause holds (R513, R520). -/
def State.bootEnd (s : State) : State :=
  if s.mode ≠ mBoot then s
  else
    let s := (List.range 6).foldl (fun s t => if s.reachable t then s.counterLoad t else s) s
    s.enterSetup

/-- BOOT_COMPLETE (R520). On VT8 SETUP follows once a die holds the PEG line; the other die becomes a standby. -/
def execBootComplete (t : Nat) (die : Bool) (s : State) : Host.Outcome State Fault Refusal :=
  let s := s.at_ t
  let d := b2n die
  let b := s.boot d
  .next (
    if !b.bundles || b.doneAt.isSome || s.poAsserted then s
    else
      let s := s.setBoot d { b with doneAt := some s.now }
      if s.part ≠ .vt8 then (if d = 0 then s.bootEnd else s)
      else if d = s.dx.die then (if s.dx.held then s.bootEnd else s)
      else if s.dx.held && s.standbyThere then s.sbSync
      else s)

/-! ### Temperature (R513) -/

/-- OVER_TEMPERATURE (R513): a Tenon, or a Mortise die, has been above Tj 150 °C for 1 ms, or is so no more. -/
def execOverTemperature (t : Nat) (tenon : Option (Fin 6)) (die hot : Bool) (s : State) : Host.Outcome State Fault Refusal :=
  let s := s.at_ t
  .next (
    match tenon with
    | some tn =>
      if !s.present tn.val then s
      else
        let s := s.setTenon tn.val { s.tenon tn.val with hot := hot }
        if hot then s.askSafe 2 else s
    | none =>
      let d := b2n die
      let s := { s with dieHot := smapSet 0 s.dieHot d (b2n hot) }
      if !hot || d ≠ s.dx.die then s
      else if s.part = .vt8 && s.dx.sbState = 2 && s.on F.DX_CTRL_F_TEMP d then s.activeFault 1
      else s.askSafe 3)

/-! ### Health records (R560, R561) -/

/-- A health item. -/
def healthItem (n v : Nat) : Nat := n + v % 2 ^ 48 * 2 ^ 16

/-- How many parts of a kind below n are ISOLATED. -/
def State.isoCount (s : State) (kind n : Nat) : Nat := ((List.range n).filter (fun i => s.isolated kind i)).length

/-- The items of a health record with the temperatures of the Mortises and the Tenons in 0.01 °C. -/
def State.healthItems (s : State) (mort : Fin 2 → BitVec 16) (tens : Fin 6 → BitVec 16) : List Nat :=
  let tj (v : BitVec 16) : Nat := ofSigned 48 v.toInt
  let ts := (List.finRange 6).filter (fun t => s.present t.val)
  let eye (n k : Nat) : Nat := Config.freeBits 16 (s.free + 2 * n + k)
  [healthItem 1 (tj (mort 0))] ++ (if s.part = .vt8 then [healthItem 2 (tj (mort 1))] else [])
    ++ ts.map (fun t => healthItem (0x10 + t.val) (tj (tens t)))
    ++ ts.map (fun t => healthItem (0x20 + t.val)
        (s.partState kTenon t.val + b2n (s.tenon t.val).vexLow * 4 + b2n ((s.tenon t.val).rails != 0) * 8))
    ++ ((List.range 38).filter (fun m => m < 32 || s.present (m - 32))).map (fun m => healthItem (0x30 + m) (smapGet 0 s.tally m))
    ++ [healthItem 0x60 (smapGet 0 s.tally 0x60)]
    ++ (List.range 8).map (fun n => healthItem (0x70 + n)
        (eye n 0 % 2 ^ 10 + eye n 1 % 2 ^ 6 * 2 ^ 10 + min 65535 (smapGet 0 s.tally (0x70 + n)) * 2 ^ 16))
    ++ [healthItem 0x80 (s.rd F.PLUMB_STATUS_STATE 0 + s.rd F.PLUMB_STATUS_HOPS 0 * 2 ^ 3
          + min (2 ^ 40 - 1) (s.rdS F.PLUMB_OFFSET_THETA 0).natAbs * 2 ^ 8),
        healthItem 0x81 s.freeCells]
    ++ (if s.part = .vt8 then [healthItem 0x90 (s.dx.sbState + s.rd F.DX_SCARF_HOLD_MAX s.dx.die * 2 ^ 2
          + s.rd F.DX_COUNT_SWITCHES s.dx.die * 2 ^ 17)] else [])
    ++ [healthItem 0xA0 (s.isoCount kBent 96 + s.isoCount kTenon 6 * 2 ^ 8 + s.isoCount kCore 4 * 2 ^ 12 + s.isoCount kLane 8 * 2 ^ 16)]

/-- HEALTH_RECORD (R560): at a whole multiple of PERIOD seconds after Plumb time zero. -/
def execHealthRecord (t : Nat) (mortA mortB : BitVec 16) (ten0 ten1 ten2 ten3 ten4 ten5 : BitVec 16) (s : State) :
    Host.Outcome State Fault Refusal :=
  let s := s.at_ t
  let mort (d : Fin 2) : BitVec 16 := if d = 0 then mortA else mortB
  let tens (k : Fin 6) : BitVec 16 := [ten0, ten1, ten2, ten3, ten4, ten5].getD k.val 0
  .next (
    if !s.hostIfOn || s.mode = mBoot || !s.on F.HEALTH_CFG_EN 0
        || s.plumbNow % ((s.rd F.HEALTH_CFG_PERIOD 0 * secF : Nat) : Int) ≠ 0 then s
    else
      let items := s.healthItems mort tens
      let r : Rec := {
        ty := tyHealth, stream := streamId 12 7 0, die := 7, time := s.plumbNow, items := items.length, body := items }
      { s with tally := [], free := s.free + 16 }.produce prHealth r)

end Sys2Proof.Machine
end

