-- ==== Sys2Proof/Machine/Readback.lean ====
section
/-! DEFINITION. The W0 map (22_address_map.md): where an address lies, which fields it reaches, and what each of them
reads as. -/

namespace Sys2Proof.Machine

open Sys2Proof

/-! ### Blocks and fields of an address (R579, R580) -/

/-- The block, its copy and the offset in it of a Tenon block's offset r. -/
def tenonPlace (t r : Nat) : Option (Blk × Nat × Nat) :=
  if r < 0x10000 then some (.tdie, t, r)
  else if r < 0x18000 then some (.chan, chIx t ((r - 0x10000) / 0x100), r % 0x100)
  else if 0x20000 ≤ r ∧ r < 0x30000 then some (.bent, bentIx t ((r - 0x20000) / 0x1000), r % 0x1000)
  else if 0x30000 ≤ r ∧ r < 0x34000 then some (.loop, bentIx t ((r - 0x30000) / 0x400), r % 0x400)
  else if 0x40000 ≤ r ∧ r < 0x50000 then some (.stamp, t, r - 0x40000)
  else if 0x50000 ≤ r ∧ r < 0x52000 then some (.cap, chIx t ((r - 0x50000) / 0x40), r % 0x40)
  else if 0x52000 ≤ r ∧ r < 0x60000 then some (.capdie, t, r - 0x52000)
  else none

/-- The Tenon whose block holds W0 address a, and the offset in it. -/
def tenonAt (a : Nat) : Option (Nat × Nat) :=
  if 0x1000000 ≤ a ∧ a < 0x1000000 + 6 * 0x800000 then some ((a - 0x1000000) / 0x800000, (a - 0x1000000) % 0x800000) else none

/-- The block, its copy and the offset in it of a Mortise address, through die d's endpoint. -/
def mortisePlace (d a : Nat) : Option (Blk × Nat × Nat) :=
  if a < 0x10000 then some (.ident, 0, a)
  else if a < 0x20000 then some (.modes, 0, a - 0x10000)
  else if a < 0x30000 then some (.plumb, 0, a - 0x20000)
  else if a < 0x38000 then some (.lane, (a - 0x30000) / 0x1000, a % 0x1000)
  else if 0x40000 ≤ a ∧ a < 0x50000 then some (.fab, 0, a - 0x40000)
  else if 0x50000 ≤ a ∧ a < 0x60000 then some (.rings, 0, a - 0x50000)
  else if 0x60000 ≤ a ∧ a < 0x68000 then some (.queues, 0, a - 0x60000)
  else if 0x68000 ≤ a ∧ a < 0x70000 then some (.stats, 0, a - 0x68000)
  else if 0x70000 ≤ a ∧ a < 0x80000 then some (.seif, 0, a - 0x70000)
  else if 0x80000 ≤ a ∧ a < 0x90000 then some (.zillo, (a - 0x80000) / 0x4000, a % 0x4000)
  else if 0x90000 ≤ a ∧ a < 0xA0000 then some (.duplex, d, a - 0x90000)
  else if 0xA0000 ≤ a ∧ a < 0xB0000 then some (.sec, d, a - 0xA0000)
  else if 0xB0000 ≤ a ∧ a < 0xC0000 then some (.evmap, 0, a - 0xB0000)
  else none

/-- The block, its copy and the offset in it of W0 address a, through die d's endpoint. -/
def w0Place (d a : Nat) : Option (Blk × Nat × Nat) :=
  match tenonAt a with
  | some (t, r) => tenonPlace t r
  | none => mortisePlace d a

/-- The copy of a field whose register starts at offset rel of its block. -/
def Fld.copyAt (f : Fld) (rel : Nat) : Option Nat :=
  if rel < f.off then none
  else
    let x := rel - f.off
    let i := if f.s1 = 0 then 0 else x / f.s1
    let y := if f.s1 = 0 then x else x % f.s1
    let j := if f.s2 = 0 then 0 else y / f.s2
    let z := if f.s2 = 0 then y else y % f.s2
    if z = 0 ∧ i < f.n1 ∧ j < f.n2 then some (i * f.n2 + j) else none

/-- The ring that RING_SEL names. -/
def State.selRing (s : State) : Nat × Nat := (s.rd F.RING_SEL_KIND 0, s.rd F.RING_SEL_INDEX 0)

/-- The copy that a selector register names (R586). -/
def State.bankIx (s : State) (b : Bank) (i : Nat) : Nat :=
  match b with
  | .none => i
  | .queue => s.rd F.QSEL_QUEUE 0
  | .ring => ringIx s.selRing.1 s.selRing.2
  | .map => s.rd F.MAP_SEL_STREAM 0

/-- The fields, with their copies, of the 32-bit or 64-bit register at offset rel of copy ix of a block. -/
def State.fieldsAt (s : State) (blk : Blk) (ix rel : Nat) (wide : Bool) : List (Fld × Nat) :=
  (F.ofBlk blk).filterMap (fun f =>
    if f.wide = wide then (f.copyAt rel).map (fun c => (f, s.bankIx f.bank (ix * (f.n1 * f.n2) + c))) else none)

/-! ### Values computed when read -/

/-- Whether a field is the named one. -/
def Fld.is (f g : Fld) : Bool := f.id == g.id

/-- The computed fields of a channel: its live status, and the figures of its chain's configuration (R112, R119, R120). -/
def State.liveChan (s : State) (f : Fld) (i : Nat) : Option Nat :=
  let x := s.chan i
  let t := i / 128
  let c := i % 128
  if f.is F.CH_STATUS_OVR_NOW then some (b2n x.ovr)
  else if f.is F.CH_STATUS_SETTLING then some (b2n (x.settling s.now))
  else if f.is F.CH_STATUS_CM_NOW then some (b2n x.cm)
  else if f.is F.CH_STATUS_OPEN_NOW then some (b2n (x.dwellOpen || x.contOpen || x.iepeOpen))
  else if f.is F.DEC_STATUS_SUPPRESSING then some (b2n (s.chain i).runOpen)
  else if f.is F.DEC_STATUS_ALIGNED then
    some (b2n ((s.decCfg t c).exact && !(s.chain i).stepped && s.on F.DEC_CTRL_DEC_EN i && s.on F.CH_CTRL_ENABLE i
      && decide ((x.gridOrg - s.gridOf t c x.alignS) % (max 1 (s.period t c) : Nat) = 0)))
  else if f.is F.DEC_SETTLE_S then some (s.settle t c)
  else if f.is F.DEC_DT_D_T then some (s.decCfg t c).dT
  else if f.is F.DEC_GD_GD then some (s.decCfg t c).gFine
  else if f.is F.DEC_GRID_DELTA then some (s.decCfg t c).delta
  else none

/-- The computed fields of a bent, of its slice, of capture, of a Tenon's die and of its stamping. -/
def State.liveTenon (s : State) (f : Fld) (i : Nat) : Option Nat :=
  let u := s.stampUnit i
  let x := s.loop i
  if f.is F.BENT_STATUS_SEQ_ACTIVE then some (b2n (s.bent i).entry.isSome)
  else if f.is F.BENT_STATUS_ENTRY_NOW then some (match (s.bent i).entry with | some e => e.idx | none => (s.bent i).lastEntry)
  else if f.is F.HB1_COEF then some (ofSigned 18 (hbCoef 0 (i % 27)))
  else if f.is F.HB2_COEF then some (ofSigned 18 (hbCoef 1 (i % 47)))
  else if f.is F.FIR_COEF then
    (if i % 128 < firTaps (i / 128 % 16) then some (ofSigned 24 (firCoef (i / 128 % 16) (i % 128))) else some 0)
  else if f.is F.CAP_PAGES_FIRST_PAGE then some (s.firstPage (i / 128) (i % 128))
  else if f.is F.CAP_STATE_SEGS then some (s.cap i).segs.length
  else if f.is F.CAP_FREE_FREE_PAGES then some (2048 - s.firstPage i 128)
  else if f.is F.ST_STATUS_STALE_NOW then some (b2n (s.stale (i / 128) (if s.vernOn i then u.vnAt else u.phAt)))
  else if f.is F.ST_STATUS_PH_AGE then some (tableAge u.phAt s.now)
  else if f.is F.ST_STATUS_VN_AGE then some (tableAge u.vnAt s.now)
  else if f.is F.REG_STATUS_GATE_OPEN then some (b2n (s.gate (i / 32) (i % 32)).isSome)
  else if f.is F.LOOP_STATUS_RUNNING then some (b2n x.running)
  else if f.is F.LOOP_STATUS_TRIP_NOW then some (b2n x.tripped)
  else if f.is F.LOOP_STATUS_SLEWING then some (b2n x.slewing)
  else if f.is F.LOOP_STATUS_FROZEN then some (b2n x.frozen)
  else if f.is F.LOOP_STATUS_LAW_NOW then some x.lawNow
  else if f.is F.LOOP_STATUS_SPX_LOST_NOW then some (b2n x.spxLost)
  else if f.is F.LOOP_NOW_U then some (ofSigned 16 x.u)
  else if f.is F.LOOP_NOW_R_HI then some (ofSigned 24 x.r / 2 ^ 8)
  else none

/-- The Mortise's lane that copy n of the lane registers shows through die d's endpoint. -/
def dieLane (d n : Nat) : Nat := 8 * d + n

/-- The computed fields of lanes and ports (what a checker has counted while it runs is open), through die d's endpoint; the
eye is measured, so it is open. -/
def State.liveLink (s : State) (d : Nat) (f : Fld) (i : Nat) : Option Nat :=
  let x := s.lane (dieLane d i)
  let p := s.port (dieLane d i)
  if f.is F.LANE_STATUS_STATE_NOW then some x.state
  else if f.is F.LANE_STATUS_SIGNAL then some (b2n x.signal)
  else if f.is F.LANE_STATUS_LOCK then some (b2n x.lock)
  else if f.is F.LANE_STATUS_FROZEN_NOW then some (b2n x.frozen)
  else if f.is F.LANE_EYE_HEIGHT then some (Config.openRead f.id (dieLane d i) s.now)
  else if f.is F.LANE_EYE_WIDTH then some (Config.openRead f.id (dieLane d i) s.now)
  else if f.is F.LANE_EYE_CTLE then
    some (if x.live && !x.frozen then Config.openRead f.id (dieLane d i) s.now else Config.equaliser x.coef 0)
  else if f.is F.LANE_BERT_CHK_LOCK then some (b2n (s.checking (dieLane d i)) * (Config.openRead f.id (dieLane d i) s.now % 2))
  else if f.is F.LANE_BERT_BITS || f.is F.LANE_BERT_ERRORS then
    (if s.checking (dieLane d i) then some (Config.openRead f.id (dieLane d i) s.now) else none)
  else if f.is F.FAB_PORT_STATE then some (if s.portUsed (dieLane d i) then p.state else poOff)
  else if f.is F.FAB_PORT_PEER_PORT then some p.peerPort
  else if f.is F.FAB_PORT_PEER_DIE then some p.peerDie
  else if f.is F.FAB_PORT_PEER_STANDBY then some (b2n p.peerStandby)
  else if f.is F.FAB_PORT_PEER_NODE then some (if p.gotInit then p.peerNode else 0xFFFF)
  else if f.is F.FAB_FWD_UNACKED then some (s.fwd i).unacked.length
  else none

/-- Bit t of DX_STATUS.READY_MASK: the standby's port to Tenon t is up. -/
def State.readyMask (s : State) : Nat :=
  if s.dx.sbState = 0 then 0
  else ((List.range 6).map (fun t =>
    if s.present t && !(s.tenon t).down (s.otherDie == 1) then 2 ^ t else 0)).sum

/-- The lowest BOOT step not complete, 7 once the die has left BOOT (R520). -/
def State.bootStep (s : State) (d : Nat) : Nat :=
  let b := s.boot d
  if b.doneAt.isSome then 7
  else if !b.s1 then 1
  else if !(b.fill && b.pll) then 2
  else if !s.tenonsTested then 3
  else if !b.test then 4
  else if !b.bundles then 5
  else 6

/-- The Mortise domains that are on (R519): always-on, cores, bank groups, lane quads, PCIe, compression, security. -/
def State.mortiseOn (s : State) : Nat :=
  let asleep := s.dorm.stage == 2
  let core := ((List.range 4).map (fun z => if s.zState z = zEmpty then 0 else 2 ^ (1 + z))).sum
  let group := ((List.range 4).map (fun g => if bitsAt s.banks (4 * g) 4 = 0 then 0 else 2 ^ (5 + g))).sum
  let quad (q : Nat) : Bool := (List.range 4).any (fun k => s.portUsed (s.portOfLane (s.portBase + 4 * q + k)))
  let quads := b2n (quad 0) * 2 ^ 9 + b2n (quad 1) * 2 ^ 10
  let pcie := b2n (!s.on F.PWR_CTRL_PCIE_OFF 0) * 2 ^ 11
  let comp := b2n (!asleep && (s.on F.SEIF_CTRL_EN 0 || s.on F.SEIF_CTRL_EN 1
    || (List.range 3).any (fun e => (s.seifEng e).jobs != []))) * 2 ^ 12
  1 + core + group + quads + pcie + comp + 2 ^ 13

/-- A mask with bit t for each Tenon that p names. -/
def State.tenonMask (s : State) (p : Nat → Bool) : Nat :=
  ((List.range 6).map (fun t => if s.present t && p t then 2 ^ t else 0)).sum

/-- The fields of BENT_PAIR: on VT2 and VT4 no bent is paired (17_duplex.md). -/
def F.pairFields : List Nat :=
  [F.BENT_PAIR_EN.id, F.BENT_PAIR_SLOT.id, F.BENT_PAIR_SOLO.id, F.BENT_PAIR_AUTO_SOLO.id, F.BENT_PAIR_PARTNER_T.id,
   F.BENT_PAIR_PARTNER_B.id, F.BENT_PAIR_GUARD.id]

/-- The computed fields of the modes, duplex and identity blocks, through die d's endpoint. -/
def State.liveNode (s : State) (d : Nat) (f : Fld) : Option Nat :=
  let (k, p) := s.partSel
  if f.is F.DX_STATUS_DIE || f.is F.ID_DIES_THIS_DIE then some d
  else if f.is F.DX_STATUS_PEG then some (b2n (s.part == .vt8 && s.dx.held && s.dx.die == d))
  else if f.is F.DX_STATUS_SB_STATE then some s.dx.sbState
  else if f.is F.DX_STATUS_READY_MASK then some s.readyMask
  else if f.is F.BOOT_STATUS_STEP then some (s.bootStep d)
  else if f.is F.BOOT_STATUS_NO_REFCLK then some (b2n (!(s.boot d).refclk))
  else if f.is F.BOOT_STATUS_SELFTEST_FAIL then some (b2n (s.boot d).failTest)
  else if f.is F.BOOT_STATUS_BUNDLE_FAIL then some (b2n (s.boot d).failBundle)
  else if f.is F.PART_STATE_STATE then some (if s.partThere k p then s.partState k p else 0)
  else if f.is F.PART_STATE_CAUSE then some (if s.partThere k p then (s.isoCause k p).getD 0 else 0)
  else if f.is F.PWR_STATUS_MORTISE_ON then some s.mortiseOn
  else if f.is F.PWR_STATUS_VEX_LOW then some (s.tenonMask (fun t => (s.tenon t).vexLow))
  else if f.is F.PWR_STATUS_SUPPLY_LOW then some (s.tenonMask (fun t => (s.tenon t).rails != 0))
  else if f.is F.PWR_CTRL_PCIE_OFF then some (if s.ownGateway then 0 else s.rd f 0)
  else if f.is F.ID_DEV_PART then
    some (match s.part with | .vt2 => 0xB702 | .vt4 => 0xB704 | .vt8 => 0xB708)
  else if f.is F.ID_DEV_REV then some (1 + Config.otp 2 d % 15)
  else if f.is F.ID_DEV_MAP_VER then some 1
  else if f.is F.ID_DIES_TENONS then some (2 ^ s.part.tenons - 1)
  else if f.is F.ID_DIES_MORTISES then some (if s.part = .vt8 then 3 else 1)
  else if f.is F.ID_DIES_PEG then
    some (b2n (if s.part = .vt8 then s.dx.held && s.dx.die == d else (s.boot d).doneAt.isSome))
  else none

/-- The computed fields of the security block of a die: its fuses (R534, R535, R540). -/
def State.liveSec (s : State) (f : Fld) (i : Nat) : Option Nat :=
  let e := ((s.sec (i / 16)).boot)[i % 16]?
  if f.is F.SEC_ID_ID_TAG then some (s.idTag i)
  else if f.is F.SEC_OTP_ID_SLOTS then some (((List.range 4).map (fun k => (s.idSlot i k).1 * 4 ^ k)).sum)
  else if f.is F.SEC_OTP_OWNERS then some ((s.ownerSlot i 0).1 + (s.ownerSlot i 1).1 * 4)
  else if f.is F.SEC_OTP_SVN then some (s.sec i).svn
  else if f.is F.SEC_OTP_DEBUG_OPENS then some (s.sec i).opens
  else if f.is F.SEC_STATUS_SLOT then some ((s.idInUse i).getD 7)
  else if f.is F.SEC_BOOT_VALID then some (b2n e.isSome)
  else if f.is F.SEC_BOOT_CORE then some ((e.map (·.core)).getD 0)
  else if f.is F.SEC_BOOT_AUTORUN then some ((e.map (fun x => b2n x.autorun)).getD 0)
  else if f.is F.SEC_BOOT_SVN then some ((e.map (·.svn)).getD 0)
  else if f.is F.SEC_BOOT_OFFSET then some ((e.map (fun x => x.offset / 8)).getD 0)
  else if f.is F.SEC_BOOT_DIGEST_LO then some ((e.map (fun x => leNat (x.digest.take 4))).getD 0)
  else none

/-- The computed fields of statistics, queues, compression, cores and rings. -/
def State.liveUnit (s : State) (f : Fld) (i : Nat) : Option Nat :=
  if f.is F.STAT_STATUS_ACTIVE then
    some (b2n (s.rd F.STAT_CFG_KIND i != 0 && s.present (s.rd F.STAT_CFG_TENON i) && !(s.acc i).stopped))
  else if f.is F.STAT_STATUS_HELD_NOW then some (b2n (s.acc i).held)
  else if f.is F.STAT_FILL_FILL then some (s.acc i).n
  else if f.is F.POOL_STATUS_FREE_CELLS then some s.freeCells
  else if f.is F.POOL_STATUS_OVERCOMMIT then some (b2n (decide (s.reserveLimit < (s.reserves.map (·.2)).sum)))
  else if f.is F.QSTAT_CELLS then some (s.queue i).cells
  else if f.is F.QSTAT_PKTS then some (s.queue i).pkts.length
  else if f.is F.REPAIR_STATUS_LIVE then some (match s.pool.repair with | some r => s.liveIn r.bank | none => 0)
  else if f.is F.SEIF_STATUS_BUSY0 then some (b2n ((s.seifEng 0).work.isSome || s.seifReady 0))
  else if f.is F.SEIF_STATUS_BUSY1 then some (b2n ((s.seifEng 1).work.isSome || s.seifReady 1))
  else if f.is F.SEIF_STATUS_DBUSY then some (b2n ((s.seifEng 2).jobs != []))
  else if f.is F.ZC_CYCLES_COUNT then some (s.zCount i)
  else if f.is F.RING_POS_HEAD then some (smapGet {} s.rings i : Ring).head
  else if f.is F.RING_POS_TAIL then some (smapGet {} s.rings i : Ring).tail
  else if f.is F.HR_PROXY_IN_FLIGHT then some (min proxyMax s.proxied)
  else none

/-- The bits of copy i of a field that belong to a Tenon or a function which the part has: absent ones read zero and writes do
not reach them (R2). -/
def State.partBits (s : State) (f : Fld) (i : Nat) : Nat :=
  let all := 2 ^ f.width - 1
  let n := s.part.tenons
  let none_ : Bool :=
    match f.blk with
    | .duplex => true
    | .evmap => decide (96 + 32 * n ≤ i) || (decide (n < i) && decide (i < 7)) || i == 56
    | _ => f.is F.ST_CTRL_VERN_EN || f.is F.ST_STATUS_VN_AGE || (F.pairFields.contains f.id)
  if s.part = .vt8 then all
  else if none_ then 0
  else if f.is F.DORM_KEEP_KEEP then 2 ^ min 32 (16 * n - 32 * i) - 1
  else all

/-- What copy i of a field reads as through die d's endpoint; a WO field reads as zero (R5). -/
def State.live (s : State) (d : Nat) (f : Fld) (i : Nat) : Nat :=
  let c : Option Nat := match f.blk with
    | .chan => s.liveChan f i
    | .bent | .loop | .cap | .capdie | .tdie | .stamp => s.liveTenon f i
    | .lane | .fab => s.liveLink d f i
    | .modes | .duplex | .ident => s.liveNode d f
    | .sec => s.liveSec f i
    | _ => s.liveUnit f i
  match f.acc with
  | .wo => 0
  | _ => c.getD (s.rd f i) &&& s.partBits f i

/-! ### Reading (R31, R521, R579 to R582) -/

/-- Whether the endpoint of die d is that of the acting Mortise (R31). -/
def State.acts (s : State) (d : Nat) : Bool := s.part != .vt8 || (s.dx.held && s.dx.die == d)

/-- Whether the endpoint of die d serves W0 address a: a Mortise held in BOOT by a failure serves three blocks (R521), and
the endpoint of a VT8's other Mortise two of them (R31). -/
def State.serves (s : State) (d a : Nat) : Bool :=
  let b := s.boot d
  let ident := decide (a < 0x10000)
  let modes := decide (0x10000 ≤ a) && decide (a < 0x20000)
  let duplex := decide (0x90000 ≤ a) && decide (a < 0xA0000)
  let sec := decide (0xA0000 ≤ a) && decide (a < 0xB0000)
  !s.poAsserted
    && (if (b.failTest || b.failBundle) && b.doneAt.isNone then ident || modes || sec else s.acts d || ident || duplex)

/-- A register's value: its fields in their places. -/
def State.regValue (s : State) (d : Nat) (l : List (Fld × Nat)) : Nat := (l.map (fun x => s.live d x.1 x.2 * 2 ^ x.1.lo)).sum

/-- 64 bits of core z's memory for ZC_DBG_DATA: zero while debug access is closed, open while uncorrectable. -/
def State.dbgRead (s : State) (d z : Nat) : Nat × State :=
  if !s.on F.SEC_STATUS_DEBUG d then (0, s)
  else
    let (w, ok, s) := s.zread z (s.rd F.ZC_DBG_ADDR_WORD z * 8)
    if ok then (w, s) else (Config.freeBits 64 s.free % 2 ^ 64, { s with free := s.free + 1 })

/-- The 64-bit word of a protected memory that a W0 window shows: corrected, and open where it cannot be corrected. -/
def State.windowRead (s : State) (m a v : Nat) : Nat × State :=
  let (w, ok, s) := s.memRead m a v
  if ok then (w, s) else (Config.freeBits 64 s.free % 2 ^ 64, { s with free := s.free + 1 })

/-- The 64-bit word of the route table that holds entry n. -/
def State.routeWord (s : State) (n : Nat) : Nat := ((List.range 8).map (fun j => smapGet 0 s.route (n / 8 * 8 + j) * 2 ^ (8 * j))).sum

/-- The 64 bits at W0 address a, a multiple of 8, that are no register: windows, and nothing elsewhere. -/
def State.windowAt (s : State) (a : Nat) : Nat × State :=
  match tenonAt a with
  | some (t, r) =>
    if 0x400000 ≤ r then
      let w := (r - 0x400000) / 8
      s.windowRead (memSeg t) w (s.segWord t w)
    else (0, s)
  | none =>
    if 0xC0000 ≤ a ∧ a < 0xC8000 then
      let k := (a - 0xC0000) / 4
      (s.msixWord (k / 4) (k % 4) + s.msixWord ((k + 1) / 4) ((k + 1) % 4) * 2 ^ 32, s)
    else if 0xC8000 ≤ a ∧ a < 0xC8100 then
      (((List.range 64).map (fun j => smapGet 0 s.pba ((a - 0xC8000) * 8 + j) * 2 ^ j)).sum, s)
    else if 0x400000 ≤ a ∧ a < 0x410000 then s.windowRead memRoute ((a - 0x400000) / 8) (s.routeWord (a - 0x400000))
    else (0, s)

/-- The 64 bits at W0 address a, a multiple of 8, and what the read does. A read of PLUMB_NOW.SEC latches the rest of it, and one of
PLUMB_LAT shows the readings then. -/
def State.w0Word (s : State) (d a : Nat) : Nat × State :=
  let s := if a = 0x20020 then s.plumbLatch
    else if 0x20080 ≤ a ∧ a < 0x200C0 then s.latRead ((a - 0x20080) / 8) else s
  match w0Place d a with
  | none => s.windowAt a
  | some (.zillo, z, 0x108) => s.dbgRead d z
  | some (blk, ix, rel) =>
    (s.regValue d (s.fieldsAt blk ix rel true) + s.regValue d (s.fieldsAt blk ix rel false)
      + s.regValue d (s.fieldsAt blk ix (rel + 4) false) * 2 ^ 32, s)

/-- Whether W0 address a, a multiple of 8, is that of a 64-bit register. -/
def State.wideAt (s : State) (d a : Nat) : Bool :=
  match w0Place d a with
  | none => false
  | some (blk, ix, rel) => s.fieldsAt blk ix rel true != []

/-- The key of a 64-bit register's latch and held half: each endpoint has its own. -/
def halfKey (d a : Nat) : Nat := d * 2 ^ 29 + a / 8

/-- A 32-bit read at W0 address a, a multiple of 4 (R582). -/
def State.read32 (s : State) (d a : Nat) : Nat × State :=
  let k := halfKey d a
  match a % 8, smapGet none s.latch k with
  | 4, some h => (h, { s with latch := smapSet none s.latch k none })
  | _, _ =>
    let (v, s) := s.w0Word d (a / 8 * 8)
    let s := if a % 8 = 0 && s.wideAt d a then { s with latch := smapSet none s.latch k (some (v / 2 ^ 32)) } else s
    (bitsAt v (a % 8 * 8) 32, s)

/-- n 64-bit reads from W0 address a on, the first lowest. -/
def State.read64s (s : State) (d a : Nat) : Nat → Nat × State
  | 0 => (0, s)
  | n + 1 =>
    let (v, s) := s.w0Word d a
    let (w, s) := s.read64s d (a + 8) n
    (v + w * 2 ^ 64, s)

/-- A read of len bytes at W0 address a of what die d's endpoint serves (R581). -/
def State.readBytes (s : State) (d a len : Nat) : Nat × State :=
  if a % 4 + len ≤ 4 then
    let (v, s) := s.read32 d (a / 4 * 4)
    (bitsAt v (a % 4 * 8) (len * 8), s)
  else
    let (v, s) := s.read64s d (a / 8 * 8) (ceilDiv (a % 8 + len) 8)
    (bitsAt v (a % 8 * 8) (len * 8), s)

/-- How a W0 read of Tenon t ends: none where it reaches the Tenon; all ones where its port is declared down (R30); open
where the Mortise discards the frames of an ISOLATED Tenon (R516); zero where the part has no such Tenon (R579). -/
def State.tenonRead (s : State) (t len : Nat) : Option Nat :=
  if !s.present t then some 0
  else if (s.tenon t).down (s.dx.die == 1) then some (2 ^ (8 * len) - 1)
  else if s.isolated kTenon t then some (Config.freeBits (8 * len) s.free % 2 ^ (8 * len))
  else none

/-- A read of len bytes at W0 address a through die d's endpoint. -/
def State.w0Read (s : State) (d a len : Nat) : Nat × State :=
  if !s.serves d a then (0, s)
  else
    match tenonAt a with
    | none => s.readBytes d a len
    | some (t, _) =>
      match s.tenonRead t len with
      | some v => (v, { s with free := s.free + 1 })
      | none => s.readBytes d a len

end Sys2Proof.Machine
end

