-- ==== Sys2Proof/Machine/Registers.lean ====
section
/-! DEFINITION. Writes of W0 (R5 to R8, R581, R582): what a write does to each field, and what follows from it in the
field's chapter. -/

namespace Sys2Proof.Machine

open Sys2Proof

/-! ### Channels and chains -/

/-- Configuration fields of a chain that one register holds, written together (R112, R114, R124, R127). -/
def State.decSet (s : State) (t c : Nat) (l : List (DecField × Nat)) : State :=
  let i := chIx t c
  let oldP := s.period t c
  let old := s.decCfg t c
  let s' := (l.foldl (fun s p => s.wr (decFld p.1) i (legalValue (decFld p.1) i p.2)) s).decClamp t c
  if l.all (fun p => s'.rd (decFld p.1) i == s.rd (decFld p.1) i) && s'.decCfg t c == old then s'
  else
    let s' := if l.any (fun p => decGrid p.1) then s'.regrid t c oldP else s'
    if s'.on F.DEC_CTRL_DEC_EN i then s'.chainRestart t c gcConfig (s'.gridNext t c (s'.now : Int)) else s'

/-- The chain's fields of DEC_CTRL. -/
def decCtrl (v : Nat) : List (DecField × Nat) :=
  [(.hb1, bitsAt v 1 1), (.hb2, bitsAt v 2 1), (.firSet, bitsAt v 8 5), (.d, bitsAt v 16 13)]

/-- The fields of DEC_SHIFT. -/
def decShift (v : Nat) : List (DecField × Nat) :=
  [(.sh0, bitsAt v 0 5), (.sh1, bitsAt v 5 5), (.sh2, bitsAt v 10 5), (.sh3, bitsAt v 15 5), (.sh4, bitsAt v 20 5)]

/-- Fields that decCtrl and decShift write. -/
def chainFields : List Nat :=
  [F.DEC_CTRL_HB1_EN.id, F.DEC_CTRL_HB2_EN.id, F.DEC_CTRL_FIR_SET.id, F.DEC_CTRL_D.id, F.DEC_SHIFT_SH0.id, F.DEC_SHIFT_SH1.id,
   F.DEC_SHIFT_SH2.id, F.DEC_SHIFT_SH3.id, F.DEC_SHIFT_SH4.id]

/-- A field of a channel's block written. -/
def State.setChanField (s : State) (f : Fld) (i v : Nat) : State :=
  let t := i / 128
  let c := i % 128
  if f.is F.CH_CTRL_ENABLE then s.setEnable t c (v == 1)
  else if f.is F.CH_CTRL_RANGE then s.setRange t c v
  else if f.is F.CH_CTRL_COUPLING then s.setCoupling t c v
  else if f.is F.CH_CTRL_IEPE_EN then s.setIepe t c (v == 1)
  else if f.is F.CH_CTRL_FS_EN then s.setFsEn t c (v == 1)
  else if f.is F.CH_DIV_DIV then s.decWrite t c .div v
  else if f.is F.CH_DISC_THRESH then s.setThresh t c v (s.rd F.CH_DISC_HYST i)
  else if f.is F.CH_DISC_HYST then s.setThresh t c (s.rd F.CH_DISC_THRESH i) v
  else if f.is F.CH_CONT_CONT_EN then (if v = 1 && !s.on f i then (s.wr f i 1).contStart i else s.wr f i v)
  else if f.is F.CH_PULSER_FIRE then s.firePulser t c
  else if f.is F.CH_OR_COUNT_CLR then s.wr F.CH_OR_COUNT_OR_COUNT i 0
  else if f.is F.DEC_CTRL_DEC_EN then s.decWrite t c .decEn v
  else if f.is F.DEC_CTRL_DCB_EN then s.setDcbEn i (v == 1)
  else if f.is F.DEC_CTRL_DCB_FREEZE then s.setDcbFreeze i (v == 1)
  else if f.is F.DEC_DCB_DCB_CORNER then (s.wr f i (max 1 v)).decClamp t c
  else if chainFields.contains f.id then s
  else s.wrLegal f i v

/-- A field of a Tenon's die control written (R110, R111). -/
def State.setDieField (s : State) (f : Fld) (i v : Nat) : State :=
  let top (s : State) : Nat := (s.rd F.UF_HDR_N_TAPS i - 1) * 16
  if f.is F.UF_HDR_N_TAPS then
    let s := s.wrLegal f i v
    s.wr F.UF_HDR_GD i (min (s.rd F.UF_HDR_GD i) (top s))
  else if f.is F.UF_HDR_GD then s.wr f i (min v (top s))
  else if f.is F.UF_COMMIT_COMMIT then s.ufCommit (i / 4) (i % 4)
  else if f.is F.DEC_SYNC_STAT_CLR then s.wr F.DEC_SYNC_STAT_LATE_COUNT i 0
  else s.wrLegal f i v

/-! ### Capture -/

/-- L, P, POST or N_SEG written: clamped under R136, or kept unseen while PAGES is 0 (R138). -/
def State.capGeom (s : State) (f : Fld) (i v : Nat) : State :=
  let pick (g : Fld) (x : Nat) : Nat := if f.is g then v else x
  if s.rd F.CAP_PAGES_PAGES i = 0 then
    let k := s.cap i
    let four (g : Fld) (x : Nat) : Nat := if f.is g then round4 v else x
    s.setCap i { k with
      keptL := four F.CAP_LEN_L k.keptL, keptP := four F.CAP_PRE_P k.keptP
      keptPost := four F.CAP_POST_POST k.keptPost, keptN := pick F.CAP_NSEG_N_SEG k.keptN }
  else
    s.setGeom i (geomClamp (s.allot i) (pick F.CAP_LEN_L (s.rd F.CAP_LEN_L i)) (pick F.CAP_PRE_P (s.rd F.CAP_PRE_P i))
      (pick F.CAP_POST_POST (s.rd F.CAP_POST_POST i)) (pick F.CAP_NSEG_N_SEG (s.rd F.CAP_NSEG_N_SEG i)))

/-- A field of a channel's capture block written (R134, R136, R140, R144). -/
def State.setCapField (s : State) (f : Fld) (i v : Nat) : State :=
  let t := i / 128
  let c := i % 128
  if f.is F.CAP_CTRL_AVG then (s.setAllot t c (s.rd F.CAP_PAGES_PAGES i) v).readsSettle t
  else if f.is F.CAP_PAGES_PAGES then (s.setAllot t c v (s.rd F.CAP_CTRL_AVG i)).readsSettle t
  else if f.is F.CAP_LEN_L || f.is F.CAP_PRE_P || f.is F.CAP_POST_POST || f.is F.CAP_NSEG_N_SEG then s.capGeom f i v
  else if f.is F.CAP_CTRL_EDGE || f.is F.CAP_LEVEL_LEVEL || f.is F.CAP_LEVEL_HYST then
    let x := legalValue f i v
    if x = s.rd f i then s else (s.wr f i x).setCap i { s.cap i with metHi := false, metLo := false }
  else if f.is F.CAP_FORCE_FORCE then s.capForce t c
  else if f.is F.CAP_COUNT_CLR then (s.wr F.CAP_COUNT_BLIND i 0).wr F.CAP_COUNT_BUSY i 0
  else if f.is F.CAP_FAB_CLR then s.wr F.CAP_FAB_FAB_LATE i 0
  else s.wrLegal f i v

/-! ### Bents and slices -/

/-- The greatest AMPL of a profile: mV while it regulates voltage, µA while it regulates current. -/
def State.amplMax (s : State) (i : Nat) : Nat := if s.on F.EXC_PROF_REG i then 25000 else 10000

/-- The SUB code of an entry, 0 where the mode table has none such. -/
def subLegal (mode sub : Nat) : Nat :=
  let ok : Bool :=
    if mode = 1 then sub % 4 != 3
    else if mode = 3 then decide (sub ≤ 2)
    else if mode = 2 ∨ mode = 4 ∨ mode = 6 ∨ mode = 7 then decide (sub ≤ 1)
    else sub == 0
  if ok then sub else 0

/-- A field of a bent's block written (R61 to R68, R93). -/
def State.setBentField (s : State) (f : Fld) (i v : Nat) : State :=
  let t := i / 16
  let b := i % 16
  if f.is F.BENT_CTRL_USE then s.setUse t b v
  else if f.is F.BENT_CTRL_SEQ_RUN then s.setSeqRun t b (v == 1)
  else if f.is F.BENT_URGENT_GO then s.urgentReq t b
  else if f.is F.BENT_CAL_CH_MASK then
    let s := s.wr f i v
    -- the mask acts on a bus entry in progress (R99)
    match (s.bent i).entry with
    | some e => if e.mode = 0 ∧ e.input = 12 ∧ e.phase = .sample then s.busMask t b true else s
    | none => s
  else if f.is F.BENT_COUNT_CLR then (s.wr F.BENT_COUNT_URGENT_DROPS i 0).wr F.BENT_COUNT_PASS_SKIPS i 0
  else if f.is F.EXC_PROF_REG then
    let s := s.wr f i v
    s.wr F.EXC_PROF_AMPL i (min (s.rd F.EXC_PROF_AMPL i) (s.amplMax i))
  else if f.is F.EXC_PROF_AMPL then s.wr f i (min v (s.amplMax i))
  else if f.is F.SEQ_ENTRY_SUB then s.wr f i (subLegal (s.rd F.SEQ_ENTRY_MODE i) v)
  else if f.is F.SEQ_ENTRY_SAMPLE_TIME then
    s.wr f i (max v (if s.rd F.SEQ_ENTRY_MODE i = 1 ∨ s.rd F.SEQ_ENTRY_MODE i = 2 then 1 else 20))
  else s.wrLegal f i v

/-- A field of a slice's block written (R222, R228, R229, R235, R242). -/
def State.setLoopField (s : State) (f : Fld) (i v : Nat) : State :=
  let t := i / 16
  let b := i % 16
  if f.is F.LOOP_CTRL_FB_CH || f.is F.LOOP_CTRL_FB_MEAN || f.is F.LOOP_CTRL_OUT_REG || f.is F.LOOP_PER_LOOP_N then
    (if s.on F.LOOP_CTRL_RUN i then s
     else
       let s := if f.is F.LOOP_CTRL_FB_CH && v != s.rd f i then
         (s.setLoop i { s.loop i with sum := 0, cnt := 0, qs := [], ready := none }).closeStream (telSid t b) false else s
       (s.wr f i v).loopClamp t b)
  else if f.is F.LOOP_CTRL_TEL_EN then (if v = 0 then (s.wr f i 0).closeStream (telSid t b) true else s.wr f i v)
  else if f.is F.LOOP_PHASE_OUT_PHASE || f.is F.LOOP_OUTLIM_OUT_MIN || f.is F.LOOP_OUTLIM_OUT_MAX || f.is F.LOOP_SAFE_SAFE_OUT then
    (s.wr f i v).loopClamp t b
  else if coefFields.any (fun g => f.is g) then (if i / 2 % 2 = 0 then s else s.wrLegal f i v)
  else if f.is F.LOOP_CTRL_SP_SRC then
    let s := s.wrLegal f i v
    -- SPX_LOST_NOW stands only for SP_SRC 3 (R232)
    if s.rd f i = 3 then s else s.setLoop i { s.loop i with spxLost := false }
  else if f.is F.LOOP_CTRL_REARM then s.loopRearm i
  else if f.is F.LOOP_COMMIT_COMMIT0 then s.loopCommit i 0
  else if f.is F.LOOP_COMMIT_COMMIT1 then s.loopCommit i 1
  else if f.is F.LOOP_COUNT_CLR then (s.wr F.LOOP_COUNT_HELD_PERIODS i 0).wr F.LOOP_COUNT_TRIPS i 0
  else s.wrLegal f i v

/-! ### Stamps, intervals, regression -/

/-- DISC_DLY changed: the stamp epoch moves, the records that carry it close, and open gates break (R177, R206, R281). -/
def State.stampEpoch (s : State) (t : Nat) : State :=
  let s := (List.range 4).foldl (fun s k => s.closeStream (stampSid t k) false) s
  let s := (List.range 16).foldl (fun s u => s.closeStream (intSid t u) false) s
  let s := (s.closeStream (freqSid t) false).breakGates t (fun _ => true) 32
  s.wr F.ST_EPOCH_EPOCH t ((s.rd F.ST_EPOCH_EPOCH t + 1) % 65536)

/-- MODE, CH, POL or PRESCALE of a regression unit written: a change breaks its open gate, and drops one that waits (R206). -/
def State.regCfg (s : State) (f : Fld) (i v : Nat) : State :=
  if s.rd f i = legalValue f i v then s
  else
    let s := s.breakGate (i / 32) (i % 32)
    (s.wrLegal f i v).setGate (i / 32) (i % 32) none

/-- A field of a Tenon's stamping block written. -/
def State.setStampField (s : State) (f : Fld) (i v : Nat) : State :=
  if f.is F.ST_COUNT_CLR then (s.wr F.ST_COUNT_DEAD i 0).wr F.ST_COUNT_FIFO_OVF i 0
  else if f.is F.INT_CFG_EN then
    (if v = 0 then ((s.wr f i 0).setIntUnit i {}).closeStream (intSid (i / 16) (i % 16)) true else s.wr f i 1)
  else if f.is F.INT_CFG_CLR then (s.wr F.INT_CFG_EARLY_STOP i 0).wr F.INT_CFG_OUT_WINDOW i 0
  else if f.is F.PE_CTRL_GO then s.peGo (i / 128) (i % 128)
  else if f.is F.ST_DLY_DISC_DLY then (if s.rd f i = v then s else (s.wr f i v).stampEpoch (i / (f.n1 * f.n2)))
  else if f.is F.REG_CFG_MODE || f.is F.REG_CFG_CH || f.is F.REG_CFG_POL || f.is F.REG_CFG_PRESCALE then s.regCfg f i v
  else if f.is F.REG_CTRL_GO then s.regGo (i / 32) (i % 32)
  else if f.is F.REG_COUNT_CLR then (s.wr F.REG_COUNT_BUSY i 0).wr F.REG_COUNT_IGNORED i 0
  else s.wrLegal f i v

/-! ### Mortise blocks -/

/-- A field of the Plumb block written (R253, R261). -/
def State.setPlumbField (s : State) (f : Fld) (i v : Nat) : State :=
  if f.is F.PLUMB_CTRL_ROLE then s.setRole (v == 1)
  else if f.is F.PLUMB_CTRL_PARENT || f.is F.PLUMB_CTRL_ALT_PARENT || f.is F.PLUMB_CTRL_ALT_EN then
    let s := s.wr f i v
    if s.on F.PLUMB_CTRL_ROLE 0 then s else s.followPort
  else if f.is F.PLUMB_STEPLOG_CLR then s.wr F.PLUMB_STEPLOG_STEP_COUNT 0 0
  else s.wrLegal f i v

/-- The greatest READER_IDX of a kind of reader. -/
def readerMax (kind : Nat) : Nat := if kind = 2 then 3 else if kind = 3 then 1 else if kind = 4 then 63 else 1023

/-- A field of the queue and memory blocks written (R308, R312, R323). -/
def State.setQueueField (s : State) (f : Fld) (i v : Nat) : State :=
  if f.is F.QCFG_READER_KIND then
    let s := s.wrLegal f i v
    s.wr F.QCFG_READER_IDX i (min (s.rd F.QCFG_READER_IDX i) (readerMax (s.rd F.QCFG_READER_KIND i)))
  else if f.is F.QCFG_READER_IDX then s.wr f i (min v (readerMax (s.rd F.QCFG_READER_KIND i)))
  else if f.is F.QCFG_MAX_CELLS then
    let s := s.wrLegal f i v
    s.wr F.QCFG_RESERVE i (min (s.rd F.QCFG_RESERVE i) (s.rd F.QCFG_MAX_CELLS i))
  else if f.is F.QCFG_RESERVE then
    let others := ((s.reserves.filter (fun p => p.1 != i)).map (·.2)).sum
    s.wr f i (min v (min (s.rd F.QCFG_MAX_CELLS i) (s.reserveLimit - others)))
  else if f.is F.QDROP_CLR then (s.wr F.QDROP_DROPS i 0).wr F.QSTAT_HIGH_WATER i 0
  else if f.is F.QCMD_RESUME then s.queueResume i
  else if f.is F.MEM_ECC_CLR then s.memClr i
  else s.wrLegal f i v

/-- A field of the Seif block written. -/
def State.setSeifField (s : State) (f : Fld) (i v : Nat) : State :=
  if f.is F.SEIF_CNT_CLR then
    [F.SEIF_CNT_IN_BYTES, F.SEIF_CNT_OUT_BYTES, F.SEIF_CNT_PACKED, F.SEIF_CNT_PASSED].foldl (fun s g => s.wr g i 0) s
  else if f.is F.SEIF_DFAULT_CLR then
    [F.SEIF_DFAULT_ILLEGAL, F.SEIF_DFAULT_DISTANCE, F.SEIF_DFAULT_OVERRUN, F.SEIF_DFAULT_BADCHK].foldl (fun s g => s.wr g i 0) s
  else s.wrLegal f i v

/-- A field of a core's block written (R371, R381, R382). -/
def State.setCoreField (s : State) (f : Fld) (i v : Nat) : State :=
  if f.is F.ZC_CTRL_RUN then (if v = 1 then s.zRun i else s.zStop i)
  else if f.is F.ZC_CTRL_WD_EN then
    (if v = 1 && !s.on f i then (s.wr f i 1).setZcore i { s.zcore i with wdFrom := s.now } else s.wr f i v)
  else if f.is F.ZC_MBOX_IN_DATA then
    let s := s.wr f i v
    if i % 4 = 3 then s.zLatch (i / 4) 1 else s
  else if f.is F.ZC_CYCLES_CLR then (s.setZcore i { s.zcore i with runFrom := s.now }).wr F.ZC_CYCLES_COUNT i 0
  else s.wrLegal f i v

/-- The kind and number of a ring field's copy. -/
def ringOfIx (i : Nat) : Nat × Nat := (i / 1024, i % 1024)

/-- The greatest INDEX of RING_SEL. -/
def ringMax (kind : Nat) : Nat := if kind = 2 then 1023 else 255

/-- A field of the rings block written (R419). -/
def State.setRingField (s : State) (f : Fld) (i v : Nat) : State :=
  let (k, r) := ringOfIx i
  if f.is F.RING_SEL_KIND then
    let s := s.wr f i (if v = 3 then 0 else v)
    s.wr F.RING_SEL_INDEX i (min (s.rd F.RING_SEL_INDEX i) (ringMax (s.rd F.RING_SEL_KIND i)))
  else if f.is F.RING_SEL_INDEX then s.wr f i (min v (ringMax (s.rd F.RING_SEL_KIND i)))
  else if f.is F.RING_BASE_ADDR || f.is F.RING_CFG_SIZE || f.is F.RING_CFG_BIND then
    (if s.on F.RING_CFG_EN i then s else s.wrLegal f i v)
  else if f.is F.RING_CFG_EN then (if v = 1 then s.ringEnable k r else s.ringDisable k r)
  else if f.is F.HR_PROXY_CLR then s.wr F.HR_PROXY_HIGH_WATER 0 0
  else s.wrLegal f i v

/-- A field of a lane's block written (R430, R435, R439). -/
def State.setLaneField (s : State) (f : Fld) (i v : Nat) : State :=
  let n := s.portBase + i
  if f.is F.LANE_CTRL_PSTATE then s.pstateWrite n v
  else if f.is F.LANE_CTRL_RETRAIN then s.retrain n
  else if f.is F.LANE_INJ_BURST_LEN then s.wr f i (clampN 1 (64 - s.rd F.LANE_INJ_INJ_POS i) v)
  else if f.is F.LANE_INJ_GO then s.laneInject n
  else if f.is F.LANE_CNT_CLR then ((s.wr F.LANE_CNT_HDR_ERR i 0).wr F.LANE_CNT_TI_ERRS i 0).wr F.LANE_CNT_DOWNS i 0
  else if f.is F.LANE_BERT_CLR then (s.wr F.LANE_BERT_BITS i 0).wr F.LANE_BERT_ERRORS i 0
  else s.wrLegal f i v

/-- The DOWN lanes of the ports in use trained. -/
def State.lanesUp (s : State) : State :=
  (List.range 16).foldl (fun s n =>
    if s.portUsed (s.portOfLane n) && (s.lane n).state = laDown && (s.boot (n / 8)).pll then s.laneTrain n else s) s

/-- EN of port p written (R449). -/
def State.setPortEn (s : State) (p v : Nat) : State :=
  let s := s.wr F.FAB_PORT_EN p v
  if v = 1 then s.lanesUp else (s.portDown p).portDown (p + 8)

/-- WIDTH of port p written (R447): code 3 and an odd port's 2 give 1, and 0 beside a port 2 lanes wide. -/
def State.setPortWidth (s : State) (p v : Nat) : State :=
  let v := if v = 3 then 1 else v
  let v := if p % 2 = 1 && v = 2 then 1 else v
  let v := if p % 2 = 1 && s.rd F.FAB_PORT_WIDTH (p - 1) = 2 then 0 else v
  if v = s.rd F.FAB_PORT_WIDTH p then s
  else
    let hit (q : Nat) : Bool := q % 8 == p || (p % 2 == 0 && q % 8 == p + 1)
    (((List.range 16).foldl (fun s q => if hit q then s.portDown q else s) s).wr F.FAB_PORT_WIDTH p v).lanesUp

/-- A node ID field's value: 0 stands for none (R445). -/
def nodeLegal (v : Nat) : Nat := if v = 0 then 0xFFFF else v

/-- A field of the fabric block written (R445 to R449, R468, R469). -/
def State.setFabField (s : State) (f : Fld) (i v : Nat) : State :=
  if f.is F.FAB_NODE_ID then s.setNode (nodeLegal v)
  else if f.is F.FAB_ASSIGN_NEW_ID || f.is F.FAB_FWD_DEST_NODE || f.is F.FAB_FIN_SRC_NODE then s.wr f i (nodeLegal v)
  else if f.is F.FAB_PORT_EN then s.setPortEn i v
  else if f.is F.FAB_PORT_WIDTH then s.setPortWidth i v
  else if f.is F.FAB_DROP_CLR then
    [F.FAB_DROP_NO_ROUTE, F.FAB_DROP_HOP, F.FAB_DROP_DWELL, F.FAB_DROP_BAD_TYPE].foldl (fun s g => s.wr g i 0) s
  else if f.is F.FAB_PORT_CLR then
    [F.FAB_PORT_REPLAYS, F.FAB_PORT_DISCARDS, F.FAB_PORT_CRC_ERRS].foldl (fun s g => s.wr g i 0) s
  else if f.is F.FAB_FIN_EXPECT then (if s.on F.FAB_FIN_EN i then s else s.wr f i v)
  else s.wrLegal f i v

/-- A field of the duplex block of die d written (R495, R499). -/
def State.setDuplexField (s : State) (f : Fld) (i v : Nat) : State :=
  if f.is F.DX_CTRL_SWITCH then (if i = s.dx.die then s.planSwitch 3 else s)
  else if f.is F.DX_CTRL_FORCE_TAKE then s.forceTake i
  else if f.is F.DX_COUNT_CLR then
    (if i = s.dx.die then (s.wrBoth F.DX_COUNT_SWITCHES 0).wrBoth F.DX_COUNT_UNPLANNED 0
     else (s.wr F.DX_COUNT_SWITCHES i 0).wr F.DX_COUNT_UNPLANNED i 0)
  else if f.is F.DX_SCARF_CLR then s.wr F.DX_SCARF_HOLD_MAX i 0
  else s.wrLegal f i v

/-- The greatest INDEX of PART_SEL. -/
def partMax (kind : Nat) : Nat := [95, 5, 3, 7].getD kind 0

/-- A field of the modes block written (R508, R517). -/
def State.setModeField (s : State) (f : Fld) (i v : Nat) : State :=
  if f.is F.MODE_CTRL_REQ then
    (if v = 2 then s.reqSetup else if v = 3 then s.reqRun else if v = 5 then s.reqDormant
     else if v = 6 then s.reqService else if v = 7 then s.reqSafe else s)
  else if f.is F.PART_SEL_KIND then
    let s := s.wrLegal f i v
    s.wr F.PART_SEL_INDEX i (min (s.rd F.PART_SEL_INDEX i) (partMax (s.rd F.PART_SEL_KIND i)))
  else if f.is F.PART_SEL_INDEX then s.wr f i (min v (partMax (s.rd F.PART_SEL_KIND i)))
  else if f.is F.PART_CMD_CMD then
    (if v = 1 then s.partCmd State.partIsolate else if v = 2 then s.partCmd State.partRelease
     else if v = 3 then s.partCmd State.partReset else s)
  else s.wrLegal f i v

/-! ### Fields and registers -/

/-- The value v set in copy i of a field, or, for a WO field, the action of a write of v performed. -/
def State.setField (s : State) (f : Fld) (i v : Nat) : State :=
  match f.blk with
  | .chan => s.setChanField f i v
  | .tdie => s.setDieField f i v
  | .cap | .capdie => s.setCapField f i v
  | .bent => s.setBentField f i v
  | .loop => s.setLoopField f i v
  | .stamp => s.setStampField f i v
  | .plumb => s.setPlumbField f i v
  | .queues => s.setQueueField f i v
  | .seif => s.setSeifField f i v
  | .zillo => s.setCoreField f i v
  | .rings => s.setRingField f i v
  | .lane => s.setLaneField f i v
  | .fab => s.setFabField f i v
  | .duplex => s.setDuplexField f i v
  | .modes => s.setModeField f i v
  | .ident | .stats | .sec | .evmap => s.wrLegal f i v

/-- Copy i of a field written with v by its access code (R5); the bits of what the part lacks keep their values (R2). -/
def State.writeField (s : State) (f : Fld) (i v : Nat) : State :=
  let has := s.partBits f i
  if has = 0 then s
  else
  let v := if has = 2 ^ f.width - 1 then v else v &&& has
  match f.acc with
  | .ro => s
  | .w1c => s.wr f i (s.rd f i &&& ((2 ^ f.width - 1) ^^^ v))
  | .w1s => s.wr f i (s.rd f i ||| v)
  | .wo => if v = 0 then s else s.setField f i v
  | .rwl => if s.mode = mSetup then s.setField f i v else s
  | .rw => s.setField f i v

/-- Fields that take their value after the others of their register: what enables the rest. -/
def lateFields : List Nat :=
  [F.CH_CTRL_ENABLE.id, F.DEC_CTRL_DEC_EN.id, F.BENT_CTRL_SEQ_RUN.id, F.BENT_CTRL_USE.id, F.LOOP_CTRL_RUN.id, F.INT_CFG_EN.id,
   F.REG_CFG_MODE.id, F.QCFG_EN.id, F.RING_CFG_EN.id, F.FAB_FIN_EN.id, F.FAB_FWD_EN.id, F.FAB_PORT_EN.id, F.ZC_CTRL_RUN.id]

/-- A write of a register's fields: the plain ones, those that enable, then the actions of WO fields. -/
def State.writeFields (s : State) (l : List (Fld × Nat)) (v : Nat) : State :=
  let act (x : Fld × Nat) : Bool := x.1.acc == .wo
  let late (x : Fld × Nat) : Bool := lateFields.contains x.1.id
  let put (s : State) (x : Fld × Nat) : State := s.writeField x.1 x.2 (bitsAt v x.1.lo x.1.width)
  let s := (l.filter (fun x => !act x && !late x)).foldl put s
  let s := (l.filter (fun x => !act x && late x)).foldl put s
  (l.filter act).foldl put s

/-- A whole register at offset rel of copy ix of a block written with v. -/
def State.writeReg (s : State) (blk : Blk) (ix rel : Nat) (wide : Bool) (v : Nat) : State :=
  let rest := s.fieldsAt blk ix rel wide
  if blk = .bent && 0x300 ≤ rel then s.calWrite (ix / 16) (ix % 16) rel v
  else if blk = .bent && 0x200 ≤ rel && rel < 0x240 then
    s.leadWrite (ix / 16) (ix % 16) ((rel - 0x200) / 8) (rel % 8 == 4) (bitsAt v 0 20)
  else if blk = .stats && rel < 64 * 32 && rel % 32 < 8 then s.statCfg (rel / 32) (rel % 32 / 4) v
  else if blk = .lane && rel = 0x40 then s.laneTestWrite (s.portBase + ix) v
  else if blk = .chan && rel = 0x40 then (s.decSet (ix / 128) (ix % 128) (decCtrl v)).writeFields rest v
  else if blk = .chan && rel = 0x44 then s.decSet (ix / 128) (ix % 128) (decShift v)
  else s.writeFields rest v

/-- Four route entries written from entry n on (R463): their memory word is encoded anew, unless its other half cannot be
read. -/
def State.routeWrite (s : State) (n v : Nat) : State :=
  let (w, ok, s) := s.memRead memRoute (n / 8) (s.routeWord n)
  let w := setBitsAt w (n % 8 * 8) 32 v
  let put (s : State) (k x : Nat) : State := { s with route := smapSet 0 s.route k (x % 256) }
  if ok then ((List.range 8).foldl (fun s j => put s (n / 8 * 8 + j) (w / 2 ^ (8 * j))) s).memWritten memRoute (n / 8)
  else (List.range 4).foldl (fun s j => put s (n + j) (v / 2 ^ (8 * j))) s

/-- A 32-bit write at W0 address a that reaches no 64-bit register: registers, the MSI-X table, the route table. -/
def State.write32 (s : State) (d a v : Nat) : State :=
  match w0Place d a with
  | some (blk, ix, rel) => s.writeReg blk ix rel false v
  | none =>
    if 0xC0000 ≤ a ∧ a < 0xC8000 then
      let k := (a - 0xC0000) / 4
      let was := s.msixWord (k / 4) 3 % 2
      let s := s.setMsix (k / 4) (k % 4) v
      if was = 1 && s.msixWord (k / 4) 3 % 2 = 0 then s.msixUnmask (k / 4) else s
    else if 0x400000 ≤ a ∧ a < 0x410000 then s.routeWrite (a - 0x400000) v
    else s

/-- A 64-bit write at W0 address a, a multiple of 8. -/
def State.write64 (s : State) (d a v : Nat) : State :=
  match w0Place d a, s.wideAt d a with
  | some (blk, ix, rel), true => (s.writeReg blk ix rel true v)
  | _, _ => (s.write32 d a (v % 2 ^ 32)).write32 d (a + 4) (v / 2 ^ 32 % 2 ^ 32)

/-- A write of the 8 bytes at W0 address a, a multiple of 8, with byte enables be, taking effect now (R581, R582). -/
def State.w0Put (s : State) (d a be v : Nat) : State :=
  let k := halfKey d a
  let lo := v % 2 ^ 32
  let hi := v / 2 ^ 32 % 2 ^ 32
  if be = 255 then { s with held := smapSet none s.held k none }.write64 d a v
  else if be = 15 then
    (if s.wideAt d a then { s with held := smapSet none s.held k (some lo) } else s.write32 d a lo)
  else if be = 240 then
    (if s.wideAt d a then
      let low := (smapGet none s.held k).getD ((s.w0Word d a).1 % 2 ^ 32)
      { s with held := smapSet none s.held k none }.write64 d a (low + hi * 2 ^ 32)
     else s.write32 d (a + 4) hi)
  else s.wr F.ID_STATUS_BAD_ACCESS 0 1

/-- A command to Tenon t executed once, in the order of its number (R488): a repeat of one of the last 64 is answered with
the stored reply, and any other number is discarded. -/
def State.tenonExec (s : State) (t num : Nat) (f : State → Nat × State) : State :=
  let x := s.tenon t
  if num = (x.lastCmd + 1) % 2 ^ 32 then
    let (r, s) := f s
    let y := s.tenon t
    (s.setTenon t { y with lastCmd := num, replies := (y.replies ++ [(num, r)]).drop (y.replies.length + 1 - 64) }).send (.reply t num r)
  else
    match x.replies.find? (fun p => p.1 == num) with
    | some p => s.send (.reply t num p.2)
    | none => s

/-- Whether writes and commands reach Tenon t: its port to the Mortise that holds the PEG line is up and it is in service (R25,
R30, R516). -/
def State.tenonTakes (s : State) (t : Nat) : Bool := s.reachable t && !(s.tenon t).down (s.dx.die == 1)

/-- A W0 write taking effect now: a write of a Tenon block goes to the Tenon as a command (R488). -/
def State.w0Now (s : State) (d a be v : Nat) : State :=
  let a := a / 8 * 8
  match tenonAt a with
  | none => s.w0Put d a be v
  | some (t, _) =>
    if be ≠ 255 ∧ be ≠ 15 ∧ be ≠ 240 then s.w0Put d a be v
    else if s.tenonTakes t then s.tenonExec t (((s.tenon t).lastCmd + 1) % 2 ^ 32) (fun s => (0, s.w0Put d a be v))
    else s

/-- A W0 write through die d's endpoint: discarded where that endpoint does not take it (R31, R521), and otherwise an action
of R485. -/
def State.w0Write (s : State) (d a be v : Nat) : State :=
  let duplex := decide (0x90000 ≤ a) && decide (a < 0xA0000)
  if !s.serves d a || !(s.acts d || duplex) then s
  else if s.journaling && d = s.dx.die then s.journal (.w0 a be v)
  else s.w0Now d a be v

end Sys2Proof.Machine
end

