-- ==== Sys2Proof/Machine/Takeover.lean ====
section
/-! DEFINITION. What a VT8 does once a cycle is acknowledged, and what a standby does that takes over
(17_duplex.md). -/

namespace Sys2Proof.Machine

open Sys2Proof

/-! ### Actions that wait no more (R485) -/

/-- What a REG_WRITE of this node's own registers does once it may (R587). -/
def Job.runRegWrite (j : Job) (s : State) : State :=
  let a := bitsAt (j.w 1) 0 26
  let v := j.w 2 % 2 ^ 64
  let s :=
    if bitAt (j.w 1) 32 then s.w0Now s.dx.die (a / 8 * 8) 255 v
    else if a / 4 % 2 = 0 then s.w0Now s.dx.die (a / 8 * 8) 15 (v % 2 ^ 32)
    else s.w0Now s.dx.die (a / 8 * 8) 240 (v % 2 ^ 32 * 2 ^ 32)
  s.commit j stDone 0

/-- The effect of a journaled descriptor. -/
def Job.run (j : Job) (s : State) : State :=
  if j.op = 0x03 then j.runRegWrite s
  else if j.op = 0x10 then j.runArm s
  else if j.op = 0x11 then j.runStop s
  else if j.op = 0x12 then j.runRead s
  else if j.op = 0x13 then j.runTrigger s
  else if j.op = 0x14 then j.runPulse s
  else if j.op = 0x15 then j.runSync s
  else s

/-- The answer to a read of n bytes at W0 offset off that node src has asked for on port p (R587). -/
def State.regAnswer (s : State) (p src tag off n : Nat) : State :=
  let (v, s) := s.w0Read s.dx.die off n
  s.reply p src frRegRsp tag 0 [v]

/-- An action performed. -/
def State.perform (s : State) (a : Act) : State :=
  match a with
  | .out o => s.hostOut o
  | .frame f none => s.originate f
  | .frame f (some p) => s.answer p f
  | .deliver q n => s.deliverNow q n
  | .w0 off be v => s.w0Now s.dx.die off be v
  | .bell off half v => s.bellNow off half v
  | .run id =>
    match s.job id with
    | none => s
    | some j => j.run s
  | .trig mask time => s.triggerMask mask time
  | .sync sec => s.scheduleSync sec
  | .regRd p src tag off n => s.regAnswer p src tag off n

/-- The actions that are due performed in their order, by a Mortise that holds the PEG line (R482); n bounds how often an action
makes others due. -/
def State.performDue (s : State) : Nat → State
  | 0 => s
  | n + 1 =>
    match s.dx.due with
    | [] => s
    | l =>
      if !s.pegOpen then s
      else
      let s := s.withDx (fun x => { x with due := [], performing := true })
      let s := l.foldl (fun s a => s.perform a) s
      (s.withDx (fun x => { x with performing := false })).performDue n

/-- Whether a write from an endpoint still waits for its cycle. -/
def State.writesWait (s : State) : Bool :=
  let isW (a : Act) : Bool := match a with | .w0 _ _ _ => true | _ => false
  s.dx.acts.any isW || s.dx.due.any isW || s.dx.cycles.any (fun c => c.acts.any isW)

/-- Host reads that waited for the writes before them answered (R583). -/
def State.readsDue (s : State) : State :=
  if s.writesWait then s
  else
    let l := s.dx.reads
    l.foldl (fun s (r : Nat × Nat × Nat) =>
      let (v, s) := s.w0Read r.1 r.2.1 r.2.2
      s.send (.readData r.2.1 v)) (s.withDx (fun x => { x with reads := [] }))

/-- Everything that is due done. -/
def State.dueDone (s : State) : State := (s.performDue 8).readsDue

/-- CYCLE_ACK (R485). -/
def execCycleAck (t : Nat) (s : State) : Host.Outcome State Fault Refusal := .next (s.at_ t).cycleAcked.dueDone

/-- STANDBY_LAG_TIMEOUT (R496): three cutoffs without an acknowledgement. -/
def execStandbyLagTimeout (t : Nat) (s : State) : Host.Outcome State Fault Refusal :=
  let s := s.at_ t
  .next (
    if s.dx.held && (s.dx.sbState = 1 || s.dx.sbState = 2) && 3 ≤ s.dx.cycles.length then (s.sbLeave 3).dueDone else s)

/-! ### What the new active holds -/

/-- Packets of every queue for which p holds removed, with their cells. -/
def State.dropPkts (s : State) (p : Rec → Bool) : State :=
  let gone := s.pool.queues.flatMap (fun q => (q.2.pkts.filter (fun x => p x.rec_)).flatMap (·.cells))
  let cut (q : Queue) : Queue := { q with
    pkts := q.pkts.filter (fun x => !p x.rec_)
    taken := q.taken - ((q.pkts.take q.taken).filter (fun x => p x.rec_)).length }
  { s with pool := { s.pool with queues := s.pool.queues.map (fun (q : Nat × Queue) => (q.1, cut q.2)) } }.freeCellsOf gone

/-- Whether a Mortise record has not reached the standby through MIRROR. -/
def State.unmirrored (s : State) (r : Rec) : Bool :=
  11 ≤ r.stream / 4096 && decide ((r.seq + 2 ^ 32 - smapGet 0 s.dx.mirror r.stream) % 2 ^ 32 < 2 ^ 31)

/-- The Mortise's own records that the standby lacks gone, and their streams at the numbers the standby knows; records
that waited for cells, and raises, of the old active are gone too. -/
def State.mirrorOnly (s : State) : State :=
  let s := s.dropPkts s.unmirrored
  let cells := (s.pool.prods.filter (fun p => !standbyMakes p.1)).flatMap (fun p => p.2.cells)
  let s := ({ s with pool := { s.pool with
    evs := [], prods := s.pool.prods.filter (fun p => standbyMakes p.1)
    queues := s.pool.queues.map (fun (q : Nat × Queue) => (q.1, { q.2 with openCells := 0 })) } }).freeCellsOf cells
  let open_ (q : Nat) : Nat := ((s.pool.prods.filter (fun p => (match p.2.waiting with
    | [] => false
    | r :: _ => p.2.into.getD (r.2.getD (s.queueOf r.1.stream)) == q))).map (fun p => p.2.cells.length)).sum
  let m := s.dx.mirror
  { s with
    pool := { s.pool with queues := s.pool.queues.map (fun (q : Nat × Queue) => (q.1, { q.2 with openCells := open_ q.1 })) }
    streams := s.streams.map (fun (p : Nat × StreamSt) =>
      if 11 ≤ p.1 / 4096 then (p.1, { p.2 with seq := smapGet 0 m p.1 }) else p)
    inbound := s.inbound.map (fun (p : Nat × Inbound) => (p.1, { p.2 with pend := [], open_ := false, words := [] })) }

/-- Whether a list holds a record of the same stream and number. -/
def hasRec (l : List Rec) (r : Rec) : Bool := l.any (fun x => x.stream == r.stream && x.seq == r.seq && x.ty == r.ty)

/-- The two receive ports of Tenon t brought together as die d takes over: what only the old active had received leaves the
pool and comes again, what only the new one had received is in its pool. -/
def State.portsMeet (s : State) (t d : Nat) : State :=
  let x := s.tenon t
  let mine := x.tx (d == 1)
  let theirs := x.tx (d != 1)
  let ahead := mine.filter (fun r => !hasRec theirs r)
  let inPool (r : Rec) : Bool := s.pool.queues.any (fun q => q.2.pkts.any (fun p => hasRec [p.rec_] r))
  let keep := mine.filter (fun r => hasRec theirs r || inPool r)
  let behind := theirs.filter (fun r => !hasRec mine r)
  -- the accumulators, which both dies drive alike, have had these (R220)
  let s := s.withDx (fun y => { y with fed := y.fed ++ (ahead.filter inPool).map (fun r => (r.stream, r.seq, r.ty)) })
  let s := (s.dropPkts (fun r => hasRec ahead r)).setTenon t (x.setTx (d == 1) keep)
  if x.down (d == 1) then s else behind.foldl (fun s r => s.admitRec r) s

/-- The packets that the new active never received gone, and counted as lost at its port (R499). -/
def State.lostAtPort (s : State) : State :=
  let l := s.dx.lacks ++ s.dx.alone
  let hit (r : Rec) : Bool := l.contains (r.stream, r.seq)
  let recs := s.pool.queues.flatMap (fun q => (q.2.pkts.filter (fun p => hit p.rec_)).map (·.rec_))
  let s := s.dropPkts hit
  recs.foldl (fun s r => s.setLoss 2 r.stream (some (addLoss (s.loss 2 r.stream) r 2))) s

/-- A descriptor of the new active: one that reads host memory or waits for the island begins again. -/
def Job.again (j : Job) : Job :=
  if j.op = 0x30 || j.op = 0x31 || j.op = 0x40 || j.op = 0x50 || j.op = 0x51 || (j.op = 0x61 && j.tag = 0) then
    { j with started := false, prog := 0, stage := 0, pos := 0, tag := 0, acc := [], aux := 0 }
  else j

/-- Host traffic continued by the new active: reads begin again, record rings at their delivery position, frames without an
acknowledgement sent again; doorbells of the old endpoint are lost (R505). -/
def State.hostAgain (s : State) : State :=
  let s := s.jobs.foldl (fun s j => if j.again = j then s else s.seifDrop j.id) s
  let s := { s with
    jobs := s.jobs.map Job.again, secq := [], groups := [], fabReads := [], pcieReads := [], bells := [], bellLow := []
    withheld := []
    held := smapDrop s.held (fun k => decide (2 ^ 30 ≤ k))
    rings := s.rings.map (fun (r : Nat × Ring) => (r.1, if r.1 / 1024 = rkSub then { r.2 with busy := false } else r.2))
    fwds := s.fwds.map (fun (p : Nat × Fwd) => (p.1, { p.2 with back := p.2.unacked != [] })) }
  let s := (s.rings.filter (fun p => 2048 ≤ p.1)).foldl (fun s p => s.recAbandon (p.1 - 2048)) s
  let ws := s.fabWrites
  ws.foldl (fun s w => s.fabWrite { w with tries := 0, since := s.now, sent := true } (!w.sent)) { s with fabWrites := [] }

/-- The bundles that govern the cores of die d loaded where another die acted while it verified them. -/
def State.bootLoad (s : State) (d : Nat) : State :=
  let s := { s with pool := { s.pool with ready := true } }
  (List.range 4).foldl (fun s z =>
    match s.governing d z with
    | none => s
    | some e =>
      match s.bootBundle d e with
      | .error _ => s
      | .ok l =>
        let s := s.zLoaded d z l
        if e.autorun then s.zRun z else s) s

/-- The fields that a standby takes again from the active and that stand at their Reset values from its DI until the bulk copy:
set-up, sticky bits and counts of the Mortise blocks, but for those in retention memory, and of the Plumb block what no
PLUMB section carries (R12, R489, R501). Log entry 97. -/
def F.copiedFields : List Fld :=
  let own (f : Fld) : Bool := f.acc != .wo && !bitAt f.kept 1
  ((F.queuesTable ++ F.statsTable ++ F.seifTable ++ F.zilloTable ++ F.ringsTable ++ F.laneTable ++ F.fabTable).filter own)
    ++ F.plumbTable.filter (fun f => own f && f.acc != .ro)
    ++ F.modesTable.filter (fun f => f.acc == .rw || f.acc == .rwl)

/-- The registers of a new active that took none from the old one since its DI. -/
def State.freshCopy (s : State) : State :=
  let gone := F.copiedFields.map (·.id)
  { s with regs := s.regs.filter (fun p => !gone.contains (p.1 / 2 ^ 20)) }

/-- The Zillo cores of the new active: the memories it copied or, where it copied none, what its own BOOT loaded; and a start
where RUN is 1 (R497). -/
def State.coresAgain (s : State) (copied : Bool) : State :=
  let s : State :=
    if copied then { s with zmem := s.dx.zcopy }
    else ((List.range 4).foldl (fun (s : State) z => (s.zUnopen z).zSetState z zEmpty) { s with zmem := [] }).bootLoad s.dx.die
  (List.range 4).foldl (fun s z =>
    let st := s.zState z
    let s := s.zUnopen z
    if st = zEmpty then s
    else if st = zLoading then s.zSetState z zEmpty
    else if s.on F.ZC_CTRL_RUN z && s.zPowered z then s.zStart z
    else (s.setZcore z (zFresh s.now)).zSetState z zHalted) s

/-- The ports of the die that acts no more: those of a live standby keep nothing to send and announce STANDBY, and its lanes
stay trained in QUIET (R32); those of a dead one are at their start. -/
def State.oldPorts (s : State) (old : Nat) (alive : Bool) : State :=
  if alive then
    { s with
      ports := s.ports.map (fun (p : Nat × Port) =>
        if p.1 / 8 = old then (p.1, { p.2 with waiting := [], unacked := [] }) else p)
      lanes := s.lanes.map (fun (p : Nat × Lane) =>
        if p.1 / 8 = old && p.2.state == laActive then (p.1, { p.2 with state := laQuiet, trainIdle := false }) else p) }
  else { s with
    ports := smapDrop s.ports (fun k => k / 8 == old), lanes := smapDrop s.lanes (fun k => k / 8 == old) }

/-- The lanes of die d leave QUIET where their PSTATE lets them (R437). -/
def State.lanesWake (s : State) (d : Nat) : State :=
  (List.range 8).foldl (fun s k => if s.rd F.LANE_CTRL_PSTATE k = 0 then s.pstateNow (8 * d + k) 0 else s) s

/-- The Tenons under their new active: those that only the old one could not reach are back, those that the new one
cannot reach are away (R554). -/
def State.tenonsMove (s : State) (d : Nat) : State :=
  (List.range 6).foldl (fun s t =>
    let x := s.tenon t
    let lost := x.down (d == 1)
    if s.isolated kTenon t && x.portLoss && !lost then
      let s := (s.setIso kTenon t none).setTenon t { s.tenon t with portLoss := false }
      ((s.dieEvent t 6).pairBack t).modeJudge
    else if lost then s.isolateTenon t icFault 2 true
    else s) s

/-- The memory of the new active: the upsets of the old one's memories are not its own. -/
def State.memoryMove (s : State) : State :=
  let tenons (k : Nat) : Bool := decide (32 ≤ k / 2 ^ 24)
  { s with pool := { s.pool with
    flips := s.pool.flips.filter (fun p => tenons p.1), wb := s.pool.wb.filter tenons, shim := [], zeroed := [], repair := none } }

/-- The registers of a switch-over (DX_STATUS, DX_COUNT, DX_LAST, DX_STATUS.SWITCHED). -/
def State.noteSwitch (s : State) (cause : Nat) : State :=
  let d := s.dx.die
  let n := s.rd F.DX_COUNT_SWITCHES d
  let u := s.rd F.DX_COUNT_UNPLANNED d
  let s := (s.wrBoth F.DX_STATUS_CAUSE cause).wrBoth F.DX_COUNT_SWITCHES (min 65535 (n + 1))
  let s := if cause = 3 || cause = 4 then s else s.wrBoth F.DX_COUNT_UNPLANNED (min 32767 (u + 1))
  -- the gap is below the 20 µs of R498; its length is open
  let gap := Config.freeBits 16 s.free % 2001
  { s.wr F.DX_LAST_GAP d gap with free := s.free + 1 }.dxStick F.DX_STATUS_SWITCHED 0

/-- The Plumb time of the grant, in DX_LAST of the die that holds PEG. -/
def State.noteGrant (s : State) : State :=
  let d := s.dx.die
  let w := plumbWord s.plumbNow
  (s.wr F.DX_LAST_TIME_LO d (w % 2 ^ 64)).wr F.DX_LAST_TIME_HI d (w / 2 ^ 64)

/-! ### The grant (R480, R481, R483, R497) -/

/-- The first grant after PO or PN. -/
def State.firstGrant (s : State) (d : Nat) : State :=
  let other := d ≠ s.dx.die
  let now := s.now
  let s := s.withDx (fun x => { x with die := d, held := true, released := false, req := none, keepAt := now, missed := 0 })
  let s := if other then s.bootLoad d else s
  let s := s.noteGrant.announce
  -- a Mortise without PEG whose supply is out of range is ISOLATED (R531)
  let s := if smapGet 0 s.dieRails (1 - d) = 0 then s else s.setIso kStandby 0 (some icSupply)
  let s := if s.standbyThere then s.sbSync else s
  s.bootEnd.lanesWake d

/-- Die d takes over for a cause (R497). -/
def State.takeOver (s : State) (d cause : Nat) : State :=
  let old := s.dx.die
  let x := s.dx
  let got := x.cycles.filter (·.received)
  let keeps (a : Act) : Bool := match a with
    | .w0 _ _ _ | .bell _ _ _ | .trig _ _ | .sync _ => false
    | .frame f _ => f.ty != frHostRd
    | _ => true
  let due := x.due ++ got.flatMap (·.acts)
    ++ (((x.cycles.filter (fun c => !c.received)).flatMap (·.acts)) ++ x.acts).filter keeps
  let unseen (u : Out × Option Nat) : Bool := match u.2 with
    | none => true
    | some n => !got.any (fun c => c.num == n)
  let outs := (x.unconf.filter unseen).map (·.1) ++ x.blocked
  let fed := smapGet 0 s.dieRails old = 0
  let out_ := cause = 2 || !fed
  let sb : Nat := if out_ then 0 else if cause = 3 || cause = 4 then 1 else 3
  let now := s.now
  let s := if x.fresh then s.mirrorOnly.freshCopy else s.mirrorOnly
  let s := s.withDx (fun x => { x with
    die := d, held := true, released := false, req := none, keepAt := now, missed := 0, switching := 0, sbState := sb
    bulk := sb == 1, fresh := false, acts := [], firstAt := none, cycles := [], unconf := [], blocked := [], due := due })
  let s := if out_ then s.setIso kStandby 0 (some (if fed then icFault else icSupply)) else s
  let s := (List.range 6).foldl (fun s t => s.portsMeet t d) s
  let s := s.lostAtPort.memoryMove
  let s := s.withDx (fun x => { x with lacks := [], alone := [] })
  let s := ((s.oldPorts old (cause = 3 || cause = 4)).lanesWake d).announce
  let s := s.tenonsMove d
  let s := { s with out := s.out ++ outs.flatMap s.pieces }
  let own (a : Act) : Bool := match a with | .w0 _ _ _ | .deliver _ _ => true | _ => false
  let s : State :=
    if cause = 5 then (s.withDx (fun x => { x with due := x.due.filter own })).hostReset else s.hostAgain
  let s : State := s.coresAgain x.bulk
  let s : State := (s.noteGrant.noteSwitch cause).modeJudge
  let s : State := if smapGet 0 s.dieHot d = 1 then s.askSafe 3 else s
  s.dueDone

/-- PEG_GRANT (R480 to R483, R497): the interlock grants PEG to the die that requests it, once the other has released it or has
shown no PEG_KEEP pulse for 10 µs. -/
def execPegGrant (t : Nat) (s : State) : Host.Outcome State Fault Refusal :=
  let s := s.at_ t
  .next (
    match s.dx.req with
    | none => s
    | some (d, cause) =>
      if s.part ≠ .vt8 || (s.dx.held && decide (s.now < s.dx.keepAt + 10 * usF)) then s
      else if cause = 0 then s.firstGrant d
      else s.takeOver d cause)

/-! ### Commands that may end the standby's readiness -/

/-- SUPPLY_OUT_OF_RANGE (R531, R564): a supply of a Tenon, or of a Mortise die. -/
def execSupplyOutOfRange (t : Nat) (tenon : Option (Fin 6)) (die : Bool) (supply : Fin 8) (s : State) :
    Host.Outcome State Fault Refusal :=
  let s := s.at_ t
  .next (
    match tenon with
    | some tn =>
      let x := s.tenon tn.val
      if !s.present tn.val then s
      else
        (s.setTenon tn.val { x with rails := withRail x.rails supply.val true, locked := false }).isolateTenon tn.val icSupply 3 false
    | none =>
      let d := b2n die
      let s := { s with dieRails := smapSet 0 s.dieRails d (withRail (smapGet 0 s.dieRails d) supply.val true) }
      if s.part ≠ .vt8 then (if d = 0 && !s.poAsserted then s.powerReset else s)
      else if d = s.dx.die && s.dx.held then s.activeFault 0
      else if d ≠ s.dx.die then ((s.setIso kStandby 0 (some icSupply)).sbLeave 0).modeJudge.dueDone
      else s)

/-- PART_ISOLATE (R516, R517). -/
def execPartIsolate (t : Nat) (s : State) : Host.Outcome State Fault Refusal :=
  .next ((s.at_ t).partCmd State.partIsolate).dueDone

/-- PART_RELEASE (R517). -/
def execPartRelease (t : Nat) (s : State) : Host.Outcome State Fault Refusal :=
  .next ((s.at_ t).partCmd State.partRelease).dueDone

/-- PART_RESET (R517). -/
def execPartReset (t : Nat) (s : State) : Host.Outcome State Fault Refusal :=
  .next ((s.at_ t).partCmd State.partReset).dueDone

/-! ### Admission at the receive ports (R309, R310, R491) -/

/-- The standby's receive port takes a record while a free cell remains; otherwise it becomes LAGGING. -/
def State.standbyAdmit (s : State) (r : Rec) : State :=
  if s.dx.sbState = 0 || s.dx.sbState = 3 || r.cellCount ≤ s.freeCells then s
  else (s.withDx (fun x => { x with alone := x.alone ++ [(r.stream, r.seq)] })).sbLeave 3

/-- RECORD_ADMIT (R22, R309, R491): the receive port of a Tenon's port takes the oldest record of that port's transmit FIFO, once
no frame before its last has still to be replayed. -/
def execRecordAdmit (t : Nat) (tenon : Fin 6) (portB : Bool) (s : State) : Host.Outcome State Fault Refusal :=
  let s := s.at_ t
  let tn := tenon.val
  let x := s.tenon tn
  let active := s.part ≠ .vt8 || b2n portB = s.dx.die
  .next (
    if !s.present tn || x.down portB || s.poAsserted || (portB && s.part ≠ .vt8) || (x.link portB false).replay then s
    else
      match x.tx portB with
      | [] => s
      | r :: rest =>
        let s := s.setTenon tn (x.setTx portB rest)
        -- frames of a Tenon out of service are discarded, unless its port to the active alone is lost (R516, R554)
        if s.isolated kTenon tn && !x.portLoss then s
        else if !active then (s.standbyAdmit r).dueDone
        else
          let s := if s.part = .vt8 && s.dx.sbState != 0 && x.down (!portB) then
              s.withDx (fun y => { y with alone := y.alone ++ [(r.stream, r.seq)] })
            else s
          s.admitRec r)

/-- PORT_LOSS_RECORD (R310): the active's receive port of a Tenon writes the loss record it owes the stream of its oldest
record, when the queue can take both. -/
def execPortLossRecord (t : Nat) (tenon : Fin 6) (s : State) : Host.Outcome State Fault Refusal :=
  let s := s.at_ t
  let x := s.tenon tenon.val
  .next (
    match x.tx (s.part == .vt8 && s.dx.die == 1) with
    | [] => s
    | r :: _ => if s.present tenon.val && !s.poAsserted then s.portLoss r else s)

/-- TENON_LOSS_RECORD (R24, R287): a stream's loss record enters the transmit FIFO of a port as soon as it has room. -/
def execTenonLossRecord (t : Nat) (tenon : Fin 6) (portB : Bool) (stream : BitVec 16) (s : State) :
    Host.Outcome State Fault Refusal :=
  let s := s.at_ t
  let tn := tenon.val
  let x := s.tenon tn
  let sid := stream.toNat
  .next (
    match s.loss (b2n portB) sid with
    | none => s
    | some l =>
      let r := lossRec sid tn l
      if s.present tn && sid / 256 % 16 = tn && decide (fifoBytes (x.tx portB) + r.len * 8 ≤ fifoSize) then
        (s.setTenon tn (x.setTx portB (x.tx portB ++ [r]))).setLoss (b2n portB) sid none
      else s)

end Sys2Proof.Machine
end

