-- ==== Sys2Proof/Machine/Access.lean ====
section
/-! DEFINITION. Register access (22_address_map.md): the host's reads and writes of W0, the numbered commands of a Tenon,
and the register descriptors and frames of the fabric; and a fast channel's sample. -/

namespace Sys2Proof.Machine

open Sys2Proof

/-! ### The host on W0 -/

/-- REGISTER_WRITE (R5 to R8, R581, R582): the 8 bytes at W0 offset off, rounded down to a multiple of 8, with byte enables
be, through the endpoint of a die. -/
def execRegisterWrite (t : Nat) (die : Bool) (off : BitVec 26) (be : BitVec 8) (value : BitVec 64) (s : State) :
    Host.Outcome State Fault Refusal :=
  .next ((s.at_ t).w0Write (b2n die) (off.toNat / 8 * 8) be.toNat value.toNat).dueDone

/-- A host read of len bytes at W0 offset off: it completes once every earlier write from its endpoint has taken effect
(R583). -/
def State.hostW0Read (s : State) (d off len : Nat) : State :=
  if d = s.dx.die && s.writesWait then s.withDx (fun x => { x with reads := x.reads ++ [(d, off, len)] })
  else
    let (v, s) := s.w0Read d off len
    s.send (.readData off v)

/-- HALF_READ_LATCH (R391, R581, R582): a host read of len bytes at an offset of W0, or of W2, through the endpoint of a die; a
32-bit read of the low half of a 64-bit register of W0 latches its high half. W2 reads as the ring registers do through the
other die's endpoint. -/
def execHalfReadLatch (t : Nat) (die : Bool) (off : BitVec 26 ⊕ BitVec 20) (len : BitVec 13) (s : State) :
    Host.Outcome State Fault Refusal :=
  let s := s.at_ t
  .next (
    if len = 0 then s
    else
      match off with
      | .inl a => s.hostW0Read (b2n die) a.toNat len.toNat
      | .inr a =>
        s.send (.bellData a.toNat (if s.serves (b2n die) 0x50000 then s.bellRead a.toNat len.toNat else 0)))

/-- The W0 address of offset off of Tenon t's block. -/
def tenonAddr (t off : Nat) : Nat := 0x1000000 + t * 0x800000 + off

/-- TENON_REGISTER_ACCESS (R30, R31): the host writes the 8 bytes at an offset of a Tenon block, with byte enables be, or reads
there: 8 bytes where be enables them all, 4 otherwise. -/
def execTenonRegisterAccess (t : Nat) (die : Bool) (tenon : Fin 6) (off : BitVec 23) (write : Bool) (be : BitVec 8)
    (value : BitVec 64) (s : State) : Host.Outcome State Fault Refusal :=
  let s := s.at_ t
  let a := tenonAddr tenon.val off.toNat
  .next (
    if write then (s.w0Write (b2n die) (a / 8 * 8) be.toNat value.toNat).dueDone
    else if be = 255 then s.hostW0Read (b2n die) (a / 8 * 8) 8
    else s.hostW0Read (b2n die) (a / 4 * 4) 4)

/-- TENON_COMMAND (R25, R488): a register command, of the port and the number num, arrives at a Tenon: a write of the 8 bytes at
an offset of its block, or a read of them. It is executed from the port whose Mortise holds the PEG line, and discarded from the other. -/
def execTenonCommand (t : Nat) (tenon : Fin 6) (num : Bool × BitVec 32) (off : BitVec 23) (write : Bool) (be : BitVec 8)
    (value : BitVec 64) (s : State) : Host.Outcome State Fault Refusal :=
  let s := s.at_ t
  let tn := tenon.val
  let a := tenonAddr tn (off.toNat / 8 * 8)
  let d := s.dx.die
  .next (
    if s.present tn && s.tenonTakes tn && !s.poAsserted && num.1 == (s.part == .vt8 && s.dx.die == 1)
        && !((s.tenon tn).link num.1 true).replay then
      (s.tenonExec tn num.2.toNat (fun s => if write then (0, s.w0Put d a be.toNat value.toNat) else s.w0Word d a)).dueDone
    else s)

/-! ### Register descriptors and frames (R464, R587) -/

/-- A register descriptor's NODE names this node. -/
def State.localNode (s : State) (j : Job) : Bool :=
  let n := bitsAt (j.w 1) 48 16
  n == 0 || n == s.nodeId

/-- A register descriptor's request sent to the node that it names. -/
def State.regAsk (s : State) (j : Job) (ty : Nat) (ws : List Nat) : State :=
  let (tag, s) := s.newTag
  (s.setJob { j with tag := tag + 1, since := s.now }).originate {
    dest := bitsAt (j.w 1) 48 16, vc := 1, ty := ty, tag := tag, words := ws }

/-- Word 0 of a register request: OFFSET and W64. -/
def Job.regWord (j : Job) : Nat := bitsAt (j.w 1) 0 26 + b2n (bitAt (j.w 1) 32) * 2 ^ 32

/-- REG_READ (R397, R587). -/
def execRegRead (t : Nat) (sq : Fin 256) (s : State) : Host.Outcome State Fault Refusal :=
  .next ((s.at_ t).startDesc sq.val 0x02 (fun j s =>
    let n := if bitAt (j.w 1) 32 then 8 else 4
    if s.localNode j then
      let (v, s) := s.w0Read s.dx.die (bitsAt (j.w 1) 0 26 / n * n) n
      s.commit j stDone v
    else s.regAsk j frRegRd [j.regWord]))

/-- REG_WRITE (R397, R485, R587). -/
def execRegWrite (t : Nat) (sq : Fin 256) (s : State) : Host.Outcome State Fault Refusal :=
  .next ((s.at_ t).startDesc sq.val 0x03 (fun j s =>
    if !s.localNode j then s.regAsk j frRegWr [j.regWord, j.w 2 % 2 ^ 64]
    else if s.journaling then s.journal (.run j.id)
    else j.runRegWrite s)).dueDone

/-- REG_RD (R583, R587): the register read and the value sent back, once every earlier write has taken effect. -/
def execRegRd (t : Nat) (port : Fin 16) (lseq : BitVec 12) (src : BitVec 16) (tag : BitVec 14) (off : BitVec 26) (w64 : Bool)
    (s : State) : Host.Outcome State Fault Refusal :=
  let n := if w64 then 8 else 4
  .next ((s.at_ t).rxFor port.val lseq.toNat 1 1 (fun s =>
    if s.writesWait then s.journal (.regRd port.val src.toNat tag.toNat (off.toNat / n * n) n)
    else s.regAnswer port.val src.toNat tag.toNat (off.toNat / n * n) n))

/-- REG_WR (R587): the register written and the write answered. -/
def execRegWr (t : Nat) (port : Fin 16) (lseq : BitVec 12) (src : BitVec 16) (tag : BitVec 14) (off : BitVec 26) (w64 : Bool)
    (value : BitVec 64) (s : State) : Host.Outcome State Fault Refusal :=
  .next ((s.at_ t).rxFor port.val lseq.toNat 1 2 (fun s =>
    let a := off.toNat / 8 * 8
    let v := value.toNat
    let s :=
      if w64 then s.w0Write s.dx.die a 255 v
      else if off.toNat / 4 % 2 = 0 then s.w0Write s.dx.die a 15 (v % 2 ^ 32)
      else s.w0Write s.dx.die a 240 (v % 2 ^ 32 * 2 ^ 32)
    s.reply port.val src.toNat frRegRsp tag.toNat 0 [0])).dueDone

/-- REG_RSP (R587): the descriptor that waits for the answer completes. -/
def execRegRsp (t : Nat) (port : Fin 16) (lseq : BitVec 12) (tag : BitVec 14) (value : BitVec 64) (s : State) :
    Host.Outcome State Fault Refusal :=
  .next ((s.at_ t).rxFor port.val lseq.toNat 2 1 (fun s =>
    match s.jobs.find? (fun j => (j.op == 0x02 || j.op == 0x03) && j.tag == tag.toNat + 1) with
    | none => s
    | some j => s.commit j stDone (if j.op = 0x02 then value.toNat else 0)))

/-! ### A fast channel's sample -/

/-- SAMPLE (R42 to R44): the converter's code, its dither subtracted, at the newest aperture instant of a channel that
converts, once for each instant; a cross-trigger that the sample fires may ask for an urgent entry (R93). -/
def execSample (t : Nat) (tenon : Fin 6) (ch : Fin 128) (code : BitVec 16) (s : State) : Host.Outcome State Fault Refusal :=
  let s := s.at_ t
  let tn := tenon.val
  let c := ch.val
  let n := s.apIndex tn c (s.now : Int)
  let a := s.apInstant tn c (s.now : Int) n
  let b := bentIx tn (c / 8)
  let fires (s : State) : List Int := smapGet [] s.xtrig b
  .next (
    if !s.converting tn c || decide (a < 0)
        || (match (s.chan (chIx tn c)).lastAp with | none => false | some l => decide (a ≤ (l : Int))) then s
    else
      let s' := s.channelSample tn c n a.toNat code.toInt
      if fires s' ≠ fires s && s'.on F.BENT_CTRL_URG_TRIG_EN b then s'.urgentReq tn (c / 8) else s')

end Sys2Proof.Machine
end

