-- ==== Sys2Proof/Machine/Tap.lean ====
section
/-! DEFINITION. The TAP of the package (19_security.md, Debug access): its instructions, each with the data scan that
follows it. -/

namespace Sys2Proof.Machine

open Sys2Proof

/-- Bits, the first lowest, as a number. -/
def bitsNat : List Bool → Nat
  | [] => 0
  | b :: l => b2n b + 2 * bitsNat l

/-- The n low bits of a number, lowest first. -/
def natBits (v : Nat) : Nat → List Bool
  | 0 => []
  | n + 1 => (v % 2 == 1) :: natBits (v / 2) n

/-- What leaves TDO while tdi enters a register that has captured a value: the captured bits, then tdi. -/
def tapBitsOut (captured tdi : List Bool) : List Bool := (captured ++ tdi).take tdi.length

/-- What a register holds after tdi has entered it. -/
def tapBitsIn (captured tdi : List Bool) : List Bool := (captured ++ tdi).drop tdi.length

/-- An instruction in the instruction register, with its scan's bits on TDO. -/
def State.tapScan (s : State) (ir : TapIr) (bits : List Bool) : State :=
  { s with tap := { s.tap with ir := ir } }.send (.tdo (bitsNat bits))

/-- The bypass register of one bit, which captures 0. -/
def State.tapBypass (s : State) (ir : TapIr) (tdi : List Bool) : State := s.tapScan ir (tapBitsOut [false] tdi)

/-- The IDCODE of a part. -/
def Part.idcode (p : Part) : Nat :=
  1 + 0x4E1 * 2 ^ 1 + (match p with | .vt2 => 0xB702 | .vt4 => 0xB704 | .vt8 => 0xB708) * 2 ^ 12 + 1 * 2 ^ 28

/-- Whether EXTEST, CLAMP and HIGHZ take effect: in BOOT or SETUP (R548). -/
def State.tapDrives (s : State) : Bool := s.mode == mBoot || s.mode == mSetup

/-- Whether debug is open on a die of the part (R548, R549). -/
def State.debugOpen (s : State) : Bool := s.on F.SEC_STATUS_DEBUG 0 || (s.part == .vt8 && s.on F.SEC_STATUS_DEBUG 1)

/-- The boundary register scanned: it captures the pins, and its new values are held for EXTEST and CLAMP. -/
def State.tapBoundary (s : State) (ir : TapIr) (pins tdi : List Bool) : State :=
  { s with tap := { s.tap with cells := tapBitsIn pins tdi } }.tapScan ir (tapBitsOut pins tdi)

/-- A scan of a register whose contents the manual does not give: what leaves TDO is open. -/
def State.tapOpen (s : State) (ir : TapIr) (tdi : List Bool) : State :=
  let v := natBits (Config.freeBits tdi.length s.free) tdi.length
  { s with free := s.free + 1 }.tapScan ir v

/-- BYPASS (R548). -/
def execBypass (t : Nat) (tdi : List Bool) (s : State) : Host.Outcome State Fault Refusal :=
  .next ((s.at_ t).tapBypass .bypass tdi)

/-- IDCODE: the 32 bits of the identification register. -/
def execIdcode (t : Nat) (tdi : List Bool) (s : State) : Host.Outcome State Fault Refusal :=
  .next ((s.at_ t).tapScan .idcode (tapBitsOut (natBits s.part.idcode 32) tdi))

/-- SAMPLE_PRELOAD (R548): the digital I/O balls sampled, the boundary register preloaded. -/
def execSamplePreload (t : Nat) (pins tdi : List Bool) (s : State) : Host.Outcome State Fault Refusal :=
  .next ((s.at_ t).tapBoundary .samplePreload pins tdi)

/-- EXTEST (R548): as SAMPLE_PRELOAD, and the boundary register drives the balls. -/
def execExtest (t : Nat) (pins tdi : List Bool) (s : State) : Host.Outcome State Fault Refusal :=
  let s := s.at_ t
  .next (if s.tapDrives then s.tapBoundary .extest pins tdi else s.tapBypass .extest tdi)

/-- CLAMP (R548): the preloaded values drive the balls, with the bypass register between TDI and TDO. -/
def execClamp (t : Nat) (tdi : List Bool) (s : State) : Host.Outcome State Fault Refusal :=
  .next ((s.at_ t).tapBypass .clamp tdi)

/-- HIGHZ (R548): the outputs are high-impedance, with the bypass register between TDI and TDO. -/
def execHighz (t : Nat) (tdi : List Bool) (s : State) : Host.Outcome State Fault Refusal :=
  .next ((s.at_ t).tapBypass .highz tdi)

/-- What the TAP does to the balls of the boundary register: 0 nothing, 1 they carry its values, 2 they are
high-impedance (R548). -/
def State.tapPins (s : State) : Nat :=
  if !s.tapDrives then 0
  else
    match s.tap.ir with
    | .extest | .clamp => 1
    | .highz => 2
    | _ => 0

/-- INTSCAN (R548): the internal scan chains, while debug is open. -/
def execIntscan (t : Nat) (tdi : List Bool) (s : State) : Host.Outcome State Fault Refusal :=
  let s := s.at_ t
  .next (if s.debugOpen then s.tapOpen .intscan tdi else s.tapBypass .intscan tdi)

/-- ZDEBUG (R548): the Zillo debug chain, while debug is open. -/
def execZdebug (t : Nat) (tdi : List Bool) (s : State) : Host.Outcome State Fault Refusal :=
  let s := s.at_ t
  .next (if s.debugOpen then s.tapOpen .zdebug tdi else s.tapBypass .zdebug tdi)

end Sys2Proof.Machine
end

