-- ==== Sys2Proof/Machine/Dispatch.lean ====
section
/-! DEFINITION. One arm per command: the command's effect on everything but the queue of waiting commands. -/

namespace Sys2Proof.Machine

def exec (i : Instr) (s : State) : Host.Outcome State Fault Refusal :=
  match i with
  | .registerWrite t die off be value => Sys2Proof.Machine.execRegisterWrite t die off be value s
  | .halfReadLatch t die off len => Sys2Proof.Machine.execHalfReadLatch t die off len s
  | .plumbNowRead t => Sys2Proof.Machine.execPlumbNowRead t s
  | .powerOnAssert t => Sys2Proof.Machine.execPowerOnAssert t s
  | .powerOnRelease t => Sys2Proof.Machine.execPowerOnRelease t s
  | .pinReset t => Sys2Proof.Machine.execPinReset t s
  | .perst t die => Sys2Proof.Machine.execPerst t die s
  | .hostReset t die => Sys2Proof.Machine.execHostReset t die s
  | .supplyOutOfRange t tenon die supply => Sys2Proof.Machine.execSupplyOutOfRange t tenon die supply s
  | .supplyInRange t tenon die supply => Sys2Proof.Machine.execSupplyInRange t tenon die supply s
  | .vexLowSet t tenon => Sys2Proof.Machine.execVexLowSet t tenon s
  | .vexLowClear t tenon => Sys2Proof.Machine.execVexLowClear t tenon s
  | .refclkArrival t die => Sys2Proof.Machine.execRefclkArrival t die s
  | .bootStepDone t die step => Sys2Proof.Machine.execBootStepDone t die step s
  | .memoryFillDone t tenon die => Sys2Proof.Machine.execMemoryFillDone t tenon die s
  | .selfTestDone t tenon die ok => Sys2Proof.Machine.execSelfTestDone t tenon die ok s
  | .bootBundleVerify t die => Sys2Proof.Machine.execBootBundleVerify t die s
  | .bootComplete t die => Sys2Proof.Machine.execBootComplete t die s
  | .tclkPllLock t tenon => Sys2Proof.Machine.execTclkPllLock t tenon s
  | .lossOfLock t tenon => Sys2Proof.Machine.execLossOfLock t tenon s
  | .tenonCounterLoad t tenon => Sys2Proof.Machine.execTenonCounterLoad t tenon s
  | .tenonCounterCheck t tenon slip => Sys2Proof.Machine.execTenonCounterCheck t tenon slip s
  | .tenonReload t tenon => Sys2Proof.Machine.execTenonReload t tenon s
  | .tenonLinkFrameRx t tenon dir frame => Sys2Proof.Machine.execTenonLinkFrameRx t tenon dir frame s
  | .tenonPortDown t tenon portB => Sys2Proof.Machine.execTenonPortDown t tenon portB s
  | .tenonCommand t tenon num off write be value => Sys2Proof.Machine.execTenonCommand t tenon num off write be value s
  | .tenonRegisterAccess t die tenon off write be value => Sys2Proof.Machine.execTenonRegisterAccess t die tenon off write be value s
  | .tenonLossRecord t tenon portB stream => Sys2Proof.Machine.execTenonLossRecord t tenon portB stream s
  | .sample t tenon ch code => Sys2Proof.Machine.execSample t tenon ch code s
  | .overRangeTrip t tenon ch positive => Sys2Proof.Machine.execOverRangeTrip t tenon ch positive s
  | .overRangeRelease t tenon ch => Sys2Proof.Machine.execOverRangeRelease t tenon ch s
  | .commonModeExcursion t tenon ch => Sys2Proof.Machine.execCommonModeExcursion t tenon ch s
  | .rangeChange t tenon ch range => Sys2Proof.Machine.execRangeChange t tenon ch range s
  | .couplingChange t tenon ch coupling iepe enable => Sys2Proof.Machine.execCouplingChange t tenon ch coupling iepe enable s
  | .enableOff t tenon ch => Sys2Proof.Machine.execEnableOff t tenon ch s
  | .fsEnChange t tenon ch on => Sys2Proof.Machine.execFsEnChange t tenon ch on s
  | .settlingSpanEnd t tenon ch => Sys2Proof.Machine.execSettlingSpanEnd t tenon ch s
  | .iepeBiasReading t tenon ch bias => Sys2Proof.Machine.execIepeBiasReading t tenon ch bias s
  | .openDwellExpiry t tenon ch => Sys2Proof.Machine.execOpenDwellExpiry t tenon ch s
  | .contCheckStart t tenon ch convA => Sys2Proof.Machine.execContCheckStart t tenon ch convA s
  | .contCheckPulseEnd t tenon ch convB => Sys2Proof.Machine.execContCheckPulseEnd t tenon ch convB s
  | .contCheckRecoveryEnd t tenon ch => Sys2Proof.Machine.execContCheckRecoveryEnd t tenon ch s
  | .discriminatorEdge t tenon ch falling edge => Sys2Proof.Machine.execDiscriminatorEdge t tenon ch falling edge s
  | .discThresholdChange t tenon ch thresh hyst => Sys2Proof.Machine.execDiscThresholdChange t tenon ch thresh hyst s
  | .pulserFire t tenon ch => Sys2Proof.Machine.execPulserFire t tenon ch s
  | .pulserPeriodicFire t tenon ch => Sys2Proof.Machine.execPulserPeriodicFire t tenon ch s
  | .orCountClr tenon ch => Sys2Proof.Machine.execOrCountClr tenon ch s
  | .fsBlockTimeout t tenon ch => Sys2Proof.Machine.execFsBlockTimeout t tenon ch s
  | .decBlockTimeout t tenon ch => Sys2Proof.Machine.execDecBlockTimeout t tenon ch s
  | .useChange t tenon bent use => Sys2Proof.Machine.execUseChange t tenon bent use s
  | .excitationRampEnd t tenon bent => Sys2Proof.Machine.execExcitationRampEnd t tenon bent s
  | .seqRunStart t tenon bent => Sys2Proof.Machine.execSeqRunStart t tenon bent s
  | .seqRunStop t tenon bent => Sys2Proof.Machine.execSeqRunStop t tenon bent s
  | .passStart t tenon bent => Sys2Proof.Machine.execPassStart t tenon bent s
  | .entryStart t tenon bent => Sys2Proof.Machine.execEntryStart t tenon bent s
  | .entryConnect t tenon bent => Sys2Proof.Machine.execEntryConnect t tenon bent s
  | .leadStepEnd t tenon bent loopP loopN => Sys2Proof.Machine.execLeadStepEnd t tenon bent loopP loopN s
  | .demodPeriodEnd t tenon bent xs phases cur dropP dropN rev => Sys2Proof.Machine.execDemodPeriodEnd t tenon bent xs phases cur dropP dropN rev s
  | .polarityReversal t tenon bent => Sys2Proof.Machine.execPolarityReversal t tenon bent s
  | .entrySamplingEnd t tenon bent => Sys2Proof.Machine.execEntrySamplingEnd t tenon bent s
  | .vwListenEnd t tenon bent amp => Sys2Proof.Machine.execVwListenEnd t tenon bent amp s
  | .excCurrentLimit t tenon bent => Sys2Proof.Machine.execExcCurrentLimit t tenon bent s
  | .excShutdown t tenon bent => Sys2Proof.Machine.execExcShutdown t tenon bent s
  | .excRetry t tenon bent shorted => Sys2Proof.Machine.execExcRetry t tenon bent shorted s
  | .urgentGo t tenon bent => Sys2Proof.Machine.execUrgentGo t tenon bent s
  | .scanRecordTimeout t tenon bent => Sys2Proof.Machine.execScanRecordTimeout t tenon bent s
  | .bentCountClr tenon bent => Sys2Proof.Machine.execBentCountClr tenon bent s
  | .calConstantWrite t tenon bent off value => Sys2Proof.Machine.execCalConstantWrite t tenon bent off value s
  | .leadWrite t tenon bent input neg value => Sys2Proof.Machine.execLeadWrite t tenon bent input neg value s
  | .pairGuardStart t tenon bent => Sys2Proof.Machine.execPairGuardStart t tenon bent s
  | .decConfigChange t tenon ch field value => Sys2Proof.Machine.execDecConfigChange t tenon ch field value s
  | .userSetCommit t tenon set => Sys2Proof.Machine.execUserSetCommit t tenon set s
  | .dcbEnableChange t tenon ch on => Sys2Proof.Machine.execDcbEnableChange t tenon ch on s
  | .dcbFreezeChange t tenon ch on => Sys2Proof.Machine.execDcbFreezeChange t tenon ch on s
  | .syncNEdge t lowNs => Sys2Proof.Machine.execSyncNEdge t lowNs s
  | .syncCommand t sec => Sys2Proof.Machine.execSyncCommand t sec s
  | .alignment t tenon => Sys2Proof.Machine.execAlignment t tenon s
  | .decSyncClr tenon => Sys2Proof.Machine.execDecSyncClr tenon s
  | .allotmentChange t tenon ch pages avg => Sys2Proof.Machine.execAllotmentChange t tenon ch pages avg s
  | .crossTrigger t tenon ch => Sys2Proof.Machine.execCrossTrigger t tenon ch s
  | .plumbTimedTrigger t tenon time => Sys2Proof.Machine.execPlumbTimedTrigger t tenon time s
  | .captureForce t tenon ch => Sys2Proof.Machine.execCaptureForce t tenon ch s
  | .rearmInstant t tenon ch => Sys2Proof.Machine.execRearmInstant t tenon ch s
  | .segmentRecordEnqueue t tenon ch => Sys2Proof.Machine.execSegmentRecordEnqueue t tenon ch s
  | .capCountClr tenon ch => Sys2Proof.Machine.execCapCountClr tenon ch s
  | .capFabClr tenon => Sys2Proof.Machine.execCapFabClr tenon s
  | .vernierDone t tenon ch steps => Sys2Proof.Machine.execVernierDone t tenon ch steps s
  | .stampRelease t tenon ch => Sys2Proof.Machine.execStampRelease t tenon ch s
  | .calRunStart t tenon ch => Sys2Proof.Machine.execCalRunStart t tenon ch s
  | .calRunEnd t tenon ch vernier hist => Sys2Proof.Machine.execCalRunEnd t tenon ch vernier hist s
  | .stampBatchTimeout t tenon stream => Sys2Proof.Machine.execStampBatchTimeout t tenon stream s
  | .stCountClr tenon ch => Sys2Proof.Machine.execStCountClr tenon ch s
  | .intervalStopHoldEnd t tenon unit => Sys2Proof.Machine.execIntervalStopHoldEnd t tenon unit s
  | .intervalWindowExpiry t tenon unit => Sys2Proof.Machine.execIntervalWindowExpiry t tenon unit s
  | .intervalRecordTimeout t tenon unit => Sys2Proof.Machine.execIntervalRecordTimeout t tenon unit s
  | .intCountClr tenon unit => Sys2Proof.Machine.execIntCountClr tenon unit s
  | .peCheckGo t tenon ch => Sys2Proof.Machine.execPeCheckGo t tenon ch s
  | .peFire t tenon ch launch echo => Sys2Proof.Machine.execPeFire t tenon ch launch echo s
  | .peCheckEnd t tenon ch => Sys2Proof.Machine.execPeCheckEnd t tenon ch s
  | .gateOpen t tenon unit => Sys2Proof.Machine.execGateOpen t tenon unit s
  | .gateClose t tenon unit => Sys2Proof.Machine.execGateClose t tenon unit s
  | .gateFull t tenon unit => Sys2Proof.Machine.execGateFull t tenon unit s
  | .regGo t tenon unit => Sys2Proof.Machine.execRegGo t tenon unit s
  | .regResultEnter t tenon => Sys2Proof.Machine.execRegResultEnter t tenon s
  | .freqRecordTimeout t tenon => Sys2Proof.Machine.execFreqRecordTimeout t tenon s
  | .regCountClr tenon unit => Sys2Proof.Machine.execRegCountClr tenon unit s
  | .statValue t acc => Sys2Proof.Machine.execStatValue t acc s
  | .statCfgWrite t acc word value => Sys2Proof.Machine.execStatCfgWrite t acc word value s
  | .statRecordRelease t acc => Sys2Proof.Machine.execStatRecordRelease t acc s
  | .loopPeriod t tenon bent => Sys2Proof.Machine.execLoopPeriod t tenon bent s
  | .loopDacWrite t tenon bent => Sys2Proof.Machine.execLoopDacWrite t tenon bent s
  | .loopStart t tenon bent => Sys2Proof.Machine.execLoopStart t tenon bent s
  | .loopStop t tenon bent => Sys2Proof.Machine.execLoopStop t tenon bent s
  | .loopCommit0 t tenon bent => Sys2Proof.Machine.execLoopCommit0 t tenon bent s
  | .loopCommit1 t tenon bent => Sys2Proof.Machine.execLoopCommit1 t tenon bent s
  | .lawHandover t tenon bent law => Sys2Proof.Machine.execLawHandover t tenon bent law s
  | .loopRearm t tenon bent => Sys2Proof.Machine.execLoopRearm t tenon bent s
  | .spxEdge t tenon bent rising => Sys2Proof.Machine.execSpxEdge t tenon bent rising s
  | .telemetryRecordTimeout t tenon bent => Sys2Proof.Machine.execTelemetryRecordTimeout t tenon bent s
  | .loopCountClr tenon bent => Sys2Proof.Machine.execLoopCountClr tenon bent s
  | .ppsEdge t falling => Sys2Proof.Machine.execPpsEdge t falling s
  | .ppsMissing t => Sys2Proof.Machine.execPpsMissing t s
  | .roleChange t role => Sys2Proof.Machine.execRoleChange t role s
  | .plumbReqSend t port => Sys2Proof.Machine.execPlumbReqSend t port s
  | .plumbReq t port seq t3 => Sys2Proof.Machine.execPlumbReq t port seq t3 s
  | .plumbRsp t port seq hops state gm t2 t3 phase => Sys2Proof.Machine.execPlumbRsp t port seq hops state gm t2 t3 phase s
  | .exchangeTimeout t port => Sys2Proof.Machine.execExchangeTimeout t port s
  | .plumbStep t => Sys2Proof.Machine.execPlumbStep t s
  | .steplogClr => Sys2Proof.Machine.execSteplogClr s
  | .recordAdmit t tenon portB => Sys2Proof.Machine.execRecordAdmit t tenon portB s
  | .portLossRecord t tenon => Sys2Proof.Machine.execPortLossRecord t tenon s
  | .producerResume t producer => Sys2Proof.Machine.execProducerResume t producer s
  | .eccWriteback t mem addr => Sys2Proof.Machine.execEccWriteback t mem addr s
  | .queueResume queue => Sys2Proof.Machine.execQueueResume queue s
  | .qdropClr queue => Sys2Proof.Machine.execQdropClr queue s
  | .memEccClr mem => Sys2Proof.Machine.execMemEccClr mem s
  | .scrub t sq => Sys2Proof.Machine.execScrub t sq s
  | .scrubDone t sq => Sys2Proof.Machine.execScrubDone t sq s
  | .bankRepair t sq => Sys2Proof.Machine.execBankRepair t sq s
  | .cellMigrate t => Sys2Proof.Machine.execCellMigrate t s
  | .bankRepairDone t ok => Sys2Proof.Machine.execBankRepairDone t ok s
  | .seifRecordTake t engine => Sys2Proof.Machine.execSeifRecordTake t engine s
  | .seifBlockDone t engine => Sys2Proof.Machine.execSeifBlockDone t engine s
  | .seifCompress t sq => Sys2Proof.Machine.execSeifCompress t sq s
  | .seifDecompress t sq => Sys2Proof.Machine.execSeifDecompress t sq s
  | .seifCntClr engine => Sys2Proof.Machine.execSeifCntClr engine s
  | .seifDfaultClr => Sys2Proof.Machine.execSeifDfaultClr s
  | .nop t core => Sys2Proof.Machine.execNop t core s
  | .add t core => Sys2Proof.Machine.execAdd t core s
  | .sub t core => Sys2Proof.Machine.execSub t core s
  | .and t core => Sys2Proof.Machine.execAnd t core s
  | .or t core => Sys2Proof.Machine.execOr t core s
  | .xor t core => Sys2Proof.Machine.execXor t core s
  | .shl t core => Sys2Proof.Machine.execShl t core s
  | .shr t core => Sys2Proof.Machine.execShr t core s
  | .sar t core => Sys2Proof.Machine.execSar t core s
  | .mul t core => Sys2Proof.Machine.execMul t core s
  | .clt t core => Sys2Proof.Machine.execClt t core s
  | .addi t core => Sys2Proof.Machine.execAddi t core s
  | .andi t core => Sys2Proof.Machine.execAndi t core s
  | .shli t core => Sys2Proof.Machine.execShli t core s
  | .shri t core => Sys2Proof.Machine.execShri t core s
  | .movi t core => Sys2Proof.Machine.execMovi t core s
  | .movh t core => Sys2Proof.Machine.execMovh t core s
  | .ldw t core => Sys2Proof.Machine.execLdw t core s
  | .stw t core => Sys2Proof.Machine.execStw t core s
  | .ldd t core => Sys2Proof.Machine.execLdd t core s
  | .std t core => Sys2Proof.Machine.execStd t core s
  | .maxm t core => Sys2Proof.Machine.execMaxm t core s
  | .minm t core => Sys2Proof.Machine.execMinm t core s
  | .seta t core => Sys2Proof.Machine.execSeta t core s
  | .setc t core => Sys2Proof.Machine.execSetc t core s
  | .geta t core => Sys2Proof.Machine.execGeta t core s
  | .adda t core => Sys2Proof.Machine.execAdda t core s
  | .cmac t core => Sys2Proof.Machine.execCmac t core s
  | .cmacr t core => Sys2Proof.Machine.execCmacr t core s
  | .clra t core => Sys2Proof.Machine.execClra t core s
  | .extc t core => Sys2Proof.Machine.execExtc t core s
  | .extr t core => Sys2Proof.Machine.execExtr t core s
  | .b t core => Sys2Proof.Machine.execB t core s
  | .bz t core => Sys2Proof.Machine.execBz t core s
  | .bnz t core => Sys2Proof.Machine.execBnz t core s
  | .blt t core => Sys2Proof.Machine.execBlt t core s
  | .call t core => Sys2Proof.Machine.execCall t core s
  | .jr t core => Sys2Proof.Machine.execJr t core s
  | .rpt t core => Sys2Proof.Machine.execRpt t core s
  | .rptr t core => Sys2Proof.Machine.execRptr t core s
  | .wait t core => Sys2Proof.Machine.execWait t core s
  | .reti t core => Sys2Proof.Machine.execReti t core s
  | .mfc t core => Sys2Proof.Machine.execMfc t core s
  | .mtc t core => Sys2Proof.Machine.execMtc t core s
  | .sig t core => Sys2Proof.Machine.execSig t core s
  | .halt t core => Sys2Proof.Machine.execHalt t core s
  | .qopen t core => Sys2Proof.Machine.execQopen t core s
  | .qrdd t core => Sys2Proof.Machine.execQrdd t core s
  | .qblk t core => Sys2Proof.Machine.execQblk t core s
  | .qdone t core => Sys2Proof.Machine.execQdone t core s
  | .qnew t core => Sys2Proof.Machine.execQnew t core s
  | .qwrd t core => Sys2Proof.Machine.execQwrd t core s
  | .qpblk t core => Sys2Proof.Machine.execQpblk t core s
  | .qclose t core => Sys2Proof.Machine.execQclose t core s
  | .illegalOpcode t core => Sys2Proof.Machine.execIllegalOpcode t core s
  | .interruptTake t core => Sys2Proof.Machine.execInterruptTake t core s
  | .coreTimerExpiry t core => Sys2Proof.Machine.execCoreTimerExpiry t core s
  | .mboxInWrite core value => Sys2Proof.Machine.execMboxInWrite core value s
  | .watchdogExpiry t core => Sys2Proof.Machine.execWatchdogExpiry t core s
  | .coreRun t core => Sys2Proof.Machine.execCoreRun t core s
  | .coreHaltRequest t core => Sys2Proof.Machine.execCoreHaltRequest t core s
  | .coreHaltTimeout t core => Sys2Proof.Machine.execCoreHaltTimeout t core s
  | .zcCyclesClr t core => Sys2Proof.Machine.execZcCyclesClr t core s
  | .zilloLoad t sq => Sys2Proof.Machine.execZilloLoad t sq s
  | .bundleVerifyDone t => Sys2Proof.Machine.execBundleVerifyDone t s
  | .sqTail t page be value => Sys2Proof.Machine.execSqTail t page be value s
  | .cqHead t page be value => Sys2Proof.Machine.execCqHead t page be value s
  | .rrTail t page j be value => Sys2Proof.Machine.execRrTail t page j be value s
  | .remoteDb t page half be value => Sys2Proof.Machine.execRemoteDb t page half be value s
  | .descriptorFetch t => Sys2Proof.Machine.execDescriptorFetch t s
  | .nopDescriptor t sq => Sys2Proof.Machine.execNopDescriptor t sq s
  | .abort t sq => Sys2Proof.Machine.execAbort t sq s
  | .regRead t sq => Sys2Proof.Machine.execRegRead t sq s
  | .regWrite t sq => Sys2Proof.Machine.execRegWrite t sq s
  | .captureArm t sq => Sys2Proof.Machine.execCaptureArm t sq s
  | .captureStop t sq => Sys2Proof.Machine.execCaptureStop t sq s
  | .captureRead t sq => Sys2Proof.Machine.execCaptureRead t sq s
  | .triggerAt t sq => Sys2Proof.Machine.execTriggerAt t sq s
  | .pulseAt t sq => Sys2Proof.Machine.execPulseAt t sq s
  | .syncAt t sq => Sys2Proof.Machine.execSyncAt t sq s
  | .attest t sq => Sys2Proof.Machine.execAttest t sq s
  | .getId t sq => Sys2Proof.Machine.execGetId t sq s
  | .enrolId t sq => Sys2Proof.Machine.execEnrolId t sq s
  | .enrolOwner t sq => Sys2Proof.Machine.execEnrolOwner t sq s
  | .revokeOwner t sq => Sys2Proof.Machine.execRevokeOwner t sq s
  | .storeBoot t sq => Sys2Proof.Machine.execStoreBoot t sq s
  | .advanceSvn t sq => Sys2Proof.Machine.execAdvanceSvn t sq s
  | .debugOpen t sq => Sys2Proof.Machine.execDebugOpen t sq s
  | .debugClose t sq => Sys2Proof.Machine.execDebugClose t sq s
  | .probe t sq => Sys2Proof.Machine.execProbe t sq s
  | .fabricReset t sq => Sys2Proof.Machine.execFabricReset t sq s
  | .badOpcode t sq => Sys2Proof.Machine.execBadOpcode t sq s
  | .completionEntryWrite t ring => Sys2Proof.Machine.execCompletionEntryWrite t ring s
  | .completionIrqTimer t ring => Sys2Proof.Machine.execCompletionIrqTimer t ring s
  | .recordRingTake t ring => Sys2Proof.Machine.execRecordRingTake t ring s
  | .recordBufferFlush t ring => Sys2Proof.Machine.execRecordBufferFlush t ring s
  | .ringEnable t kind ring => Sys2Proof.Machine.execRingEnable t kind ring s
  | .ringDisable t kind ring => Sys2Proof.Machine.execRingDisable t kind ring s
  | .msixUnmask t vector => Sys2Proof.Machine.execMsixUnmask t vector s
  | .proxyTimeoutRetry t => Sys2Proof.Machine.execProxyTimeoutRetry t s
  | .hostWriteResend t => Sys2Proof.Machine.execHostWriteResend t s
  | .proxyPcieIssue t => Sys2Proof.Machine.execProxyPcieIssue t s
  | .pcieReadCompletion t tag err data => Sys2Proof.Machine.execPcieReadCompletion t tag err data s
  | .hrProxyClr => Sys2Proof.Machine.execHrProxyClr s
  | .laneLoss t lane cause hdrErrs => Sys2Proof.Machine.execLaneLoss t lane cause hdrErrs s
  | .blockLock t lane => Sys2Proof.Machine.execBlockLock t lane s
  | .hiBerClear t lane => Sys2Proof.Machine.execHiBerClear t lane s
  | .trainingComplete t lane => Sys2Proof.Machine.execTrainingComplete t lane s
  | .retrain t lane => Sys2Proof.Machine.execRetrain t lane s
  | .pstateWrite t lane pstate => Sys2Proof.Machine.execPstateWrite t lane pstate s
  | .trainingIdleStart t lane => Sys2Proof.Machine.execTrainingIdleStart t lane s
  | .trainBlockRx t lane payload => Sys2Proof.Machine.execTrainBlockRx t lane payload s
  | .adaptationFreeze t lane => Sys2Proof.Machine.execAdaptationFreeze t lane s
  | .quietAutoWake t lane => Sys2Proof.Machine.execQuietAutoWake t lane s
  | .deepWake t lane => Sys2Proof.Machine.execDeepWake t lane s
  | .laneInject t lane => Sys2Proof.Machine.execLaneInject t lane s
  | .laneTestWrite t lane value => Sys2Proof.Machine.execLaneTestWrite t lane value s
  | .laneCntClr lane => Sys2Proof.Machine.execLaneCntClr lane s
  | .laneBertClr lane => Sys2Proof.Machine.execLaneBertClr lane s
  | .linkInitTimer t port => Sys2Proof.Machine.execLinkInitTimer t port s
  | .linkInit t port node peerPort width die standby credits => Sys2Proof.Machine.execLinkInit t port node peerPort width die standby credits s
  | .linkCtl t port ackSeq nak credits => Sys2Proof.Machine.execLinkCtl t port ackSeq nak credits s
  | .linkCtlTimer t port => Sys2Proof.Machine.execLinkCtlTimer t port s
  | .replayTimeout t port => Sys2Proof.Machine.execReplayTimeout t port s
  | .fabricPortDown t port => Sys2Proof.Machine.execFabricPortDown t port s
  | .frameForward t port lseq dest src vc ty hops first last tag aux words => Sys2Proof.Machine.execFrameForward t port lseq dest src vc ty hops first last tag aux words s
  | .dwellExpiry t port => Sys2Proof.Machine.execDwellExpiry t port s
  | .probeFrame t port lseq src tag hopsLeft fwd hops index assign rev => Sys2Proof.Machine.execProbeFrame t port lseq src tag hopsLeft fwd hops index assign rev s
  | .probeRsp t port lseq tag words => Sys2Proof.Machine.execProbeRsp t port lseq tag words s
  | .bcast t port lseq src tag hops aux w0 w1 => Sys2Proof.Machine.execBcast t port lseq src tag hops aux w0 w1 s
  | .event t port lseq body vector usable => Sys2Proof.Machine.execEvent t port lseq body vector usable s
  | .faReq t port lseq src tag words => Sys2Proof.Machine.execFaReq t port lseq src tag words s
  | .faRsp t port lseq tag accepted => Sys2Proof.Machine.execFaRsp t port lseq tag accepted s
  | .fabricResetAct t => Sys2Proof.Machine.execFabricResetAct t s
  | .hostRd t port lseq src tag addr bytes usable => Sys2Proof.Machine.execHostRd t port lseq src tag addr bytes usable s
  | .doorbell t port lseq src tag value => Sys2Proof.Machine.execDoorbell t port lseq src tag value s
  | .regRd t port lseq src tag off w64 => Sys2Proof.Machine.execRegRd t port lseq src tag off w64 s
  | .regWr t port lseq src tag off w64 value => Sys2Proof.Machine.execRegWr t port lseq src tag off w64 value s
  | .hostRdData t port lseq tag err data => Sys2Proof.Machine.execHostRdData t port lseq tag err data s
  | .hostAck t port lseq tag => Sys2Proof.Machine.execHostAck t port lseq tag s
  | .regRsp t port lseq tag value => Sys2Proof.Machine.execRegRsp t port lseq tag value s
  | .entryWr t port lseq src tag addr w1 w2 usable => Sys2Proof.Machine.execEntryWr t port lseq src tag addr w1 w2 usable s
  | .msix t port lseq vector usable => Sys2Proof.Machine.execMsix t port lseq vector usable s
  | .hostWr t port lseq src tag addr data usable => Sys2Proof.Machine.execHostWr t port lseq src tag addr data usable s
  | .record t port lseq src tag first last slot fwd words => Sys2Proof.Machine.execRecord t port lseq src tag first last slot fwd words s
  | .fwdAck t port lseq src tag slot => Sys2Proof.Machine.execFwdAck t port lseq src tag slot s
  | .doorbellResendTimeout t page => Sys2Proof.Machine.execDoorbellResendTimeout t page s
  | .forwarderTake t fwd => Sys2Proof.Machine.execForwarderTake t fwd s
  | .forwarderResend t fwd => Sys2Proof.Machine.execForwarderResend t fwd s
  | .fabDropClr => Sys2Proof.Machine.execFabDropClr s
  | .fabPcntClr port => Sys2Proof.Machine.execFabPcntClr port s
  | .pegRequest t die => Sys2Proof.Machine.execPegRequest t die s
  | .pegGrant t => Sys2Proof.Machine.execPegGrant t s
  | .duplexCutoff t => Sys2Proof.Machine.execDuplexCutoff t s
  | .heartbeatTimer t => Sys2Proof.Machine.execHeartbeatTimer t s
  | .journalCycleRx t => Sys2Proof.Machine.execJournalCycleRx t s
  | .cycleAck t => Sys2Proof.Machine.execCycleAck t s
  | .heartbeatMissed t => Sys2Proof.Machine.execHeartbeatMissed t s
  | .standbyLagTimeout t => Sys2Proof.Machine.execStandbyLagTimeout t s
  | .activeFault t kind => Sys2Proof.Machine.execActiveFault t kind s
  | .switch t die => Sys2Proof.Machine.execSwitch t die s
  | .forceTake t die => Sys2Proof.Machine.execForceTake t die s
  | .bulkCopyDone t => Sys2Proof.Machine.execBulkCopyDone t s
  | .dxCountClr die => Sys2Proof.Machine.execDxCountClr die s
  | .dxScarfClr die => Sys2Proof.Machine.execDxScarfClr die s
  | .crossCertify t => Sys2Proof.Machine.execCrossCertify t s
  | .reqSetup t => Sys2Proof.Machine.execReqSetup t s
  | .reqRun t => Sys2Proof.Machine.execReqRun t s
  | .reqDormant t => Sys2Proof.Machine.execReqDormant t s
  | .reqService t => Sys2Proof.Machine.execReqService t s
  | .reqSafe t => Sys2Proof.Machine.execReqSafe t s
  | .overTemperature t tenon die hot => Sys2Proof.Machine.execOverTemperature t tenon die hot s
  | .dormantDrainEnd t => Sys2Proof.Machine.execDormantDrainEnd t s
  | .dutyPowerUp t tenon bent => Sys2Proof.Machine.execDutyPowerUp t tenon bent s
  | .dutyPowerDown t tenon bent => Sys2Proof.Machine.execDutyPowerDown t tenon bent s
  | .wakeTimer t => Sys2Proof.Machine.execWakeTimer t s
  | .wakeHost t => Sys2Proof.Machine.execWakeHost t s
  | .domainPowered t kind index => Sys2Proof.Machine.execDomainPowered t kind index s
  | .partIsolate t => Sys2Proof.Machine.execPartIsolate t s
  | .partRelease t => Sys2Proof.Machine.execPartRelease t s
  | .partReset t => Sys2Proof.Machine.execPartReset t s
  | .tenonSilenceTimeout t tenon => Sys2Proof.Machine.execTenonSilenceTimeout t tenon s
  | .healthRecord t mortA mortB ten0 ten1 ten2 ten3 ten4 ten5 => Sys2Proof.Machine.execHealthRecord t mortA mortB ten0 ten1 ten2 ten3 ten4 ten5 s
  | .bypass t tdi => Sys2Proof.Machine.execBypass t tdi s
  | .idcode t tdi => Sys2Proof.Machine.execIdcode t tdi s
  | .samplePreload t pins tdi => Sys2Proof.Machine.execSamplePreload t pins tdi s
  | .extest t pins tdi => Sys2Proof.Machine.execExtest t pins tdi s
  | .clamp t tdi => Sys2Proof.Machine.execClamp t tdi s
  | .highz t tdi => Sys2Proof.Machine.execHighz t tdi s
  | .intscan t tdi => Sys2Proof.Machine.execIntscan t tdi s
  | .zdebug t tdi => Sys2Proof.Machine.execZdebug t tdi s
  | .pulseAtFire t tenon ch => Sys2Proof.Machine.execPulseAtFire t tenon ch s
  | .commonModeReturn t tenon ch => Sys2Proof.Machine.execCommonModeReturn t tenon ch s
  | .laneSignalArrival t lane => Sys2Proof.Machine.execLaneSignalArrival t lane s
  | .frameRxError t port kind lseq vc len => Sys2Proof.Machine.execFrameRxError t port kind lseq vc len s
  | .gwDownAnswer t port lseq tag => Sys2Proof.Machine.execGwDownAnswer t port lseq tag s
  | .resendHoldExpiry t => Sys2Proof.Machine.execResendHoldExpiry t s
  | .securityOpDone t => Sys2Proof.Machine.execSecurityOpDone t s
  | .singleEventUpset t mem addr mask => Sys2Proof.Machine.execSingleEventUpset t mem addr mask s

end Sys2Proof.Machine
end

