-- ==== Sys2Proof/Safety.lean ====
section
/-! DEFINITION. What counts as a safe run, in the terms that statements use: a command never stops the node, and it touches
neither the queue of waiting commands nor the part. Beside it, the conditions that several statements share. -/

namespace Sys2Proof

open Sys2Proof.Machine

/-- The state that an outcome goes on with. -/
def nextOf (o : Host.Outcome State Fault Refusal) : Option State :=
  match o with
  | .next t => some t
  | .fault _ => none
  | .refused _ => none

/-- A command runs: it ends in a next state. -/
def Runs (c : Instr) (s : State) : Prop := ∃ t, exec c s = .next t

/-- What no command touches: the queue and the part; and the instant never moves back. -/
def Kept (s t : State) : Prop := t.pending = s.pending ∧ t.part = s.part ∧ s.now ≤ t.now

/-- From s to t the named register fields take the named values, every other field of every copy reads as before, and
nothing but registers differs. -/
def RegsSet (s t : State) (l : List (Fld × Nat × Nat)) : Prop :=
  (∀ x ∈ l, t.rd x.1 x.2.1 = x.2.2) ∧
  (∀ f i, (∀ x ∈ l, fkey f i ≠ fkey x.1 x.2.1) → t.rd f i = s.rd f i) ∧
  { t with regs := s.regs } = s

/-- j is the next descriptor of ring sq with opcode op, as it starts at the present instant (R392). -/
def Started (s : State) (sq op : Nat) (j : Job) : Prop :=
  ∃ d, s.nextDesc sq = some d ∧ d.op = op ∧ j = { d with started := true, since := s.now }

/-- A frame numbered lseq is the one that port p, of the die that acts, expects on an assigned node; s1 is the state once
the receiver has taken it (R453). -/
def Arrives (s : State) (p lseq : Nat) (s1 : State) : Prop :=
  s.nodeId ≠ 0xFFFF ∧ s.ownDie p = true ∧ s.rxTake p lseq = (true, s1)

/-- The credits of a frame of n 64-bit words on a VC returned on the port it came from (R455). -/
def credited (s : State) (p vc n : Nat) : State := s.giveCredits p vc (ceilDiv (n * 8 + 20) 64)

/-- Core z runs, and the word that it can fetch at its pc spells instruction i; s1 is the state once it is fetched
(R364). -/
def ZAt (s : State) (z : Nat) (i : ZOp) (s1 : State) : Prop :=
  s.zRuns z = true ∧ ∃ w, s.zfetch z (s.zcore z).pc.toNat = (w, true, s1) ∧ zDecode w = some i

end Sys2Proof
end

