-- ==== Sys2Proof/WellFormed.lean ====
section
/-! DEFINITION. Which terms are commands: operands whose types hold more than the part can be given. Every other operand
has every value of its type. -/

namespace Sys2Proof

/-- Whether a command can occur (log entry 13): a code-density histogram has one count for each phase (32) or vernier code
(512), 2^20 in all (R172); frame data are whole words within the sizes of R451, R416 and R417,
none where an error is answered; T3 has 80 bits; a probe reply has six words (R473); a boundary scan shifts at least one bit. -/
def Instr.wf : Instr → Bool
  | .calRunEnd _ _ _ vernier hist => hist.length == (if vernier then 512 else 32) && hist.sum == 2 ^ 20
  | .plumbReq _ _ _ t3 => decide (t3 < 2 ^ 80)
  | .pcieReadCompletion _ _ err data => if err then data == [] else decide (1 ≤ data.length) && decide (data.length ≤ 32)
  | .hostRdData _ _ _ _ err data => if err then data == [] else decide (1 ≤ data.length) && decide (data.length ≤ 32)
  | .hostWr _ _ _ _ _ _ data _ => decide (1 ≤ data.length) && decide (data.length ≤ 255)
  | .frameForward _ _ _ _ _ _ _ _ _ _ _ _ words => decide (words.length ≤ 256)
  | .faReq _ _ _ _ _ words => decide (words.length ≤ 256)
  | .record _ _ _ _ _ _ _ _ _ words => decide (1 ≤ words.length) && decide (words.length ≤ 256)
  | .probeRsp _ _ _ _ words => words.length == 6
  | .bypass _ tdi | .idcode _ tdi | .clamp _ tdi | .highz _ tdi | .intscan _ tdi | .zdebug _ tdi => tdi != []
  | .samplePreload _ _ tdi | .extest _ _ tdi => tdi != []
  | _ => true

end Sys2Proof
end

