-- ==== Sys2Proof/Certificates/Slice0/Obligations.lean ====
section
/-! DEFINITION. The statements for the provers. -/

open Sys2Proof Sys2Proof.Machine

/-- When a converting channel trips that is not in over-range, OVER_RANGE_TRIP ends in the state in which the channel
is in over-range since now with the given polarity, with an open quality-1 span of that polarity, each other channel
of its bent has an open quality-2 span that the trip began, OR_COUNT is one higher (up to 65,535), and the sticky bit
OVR is set with its event; nothing else changes. COMMON_MODE_EXCURSION of a converting channel whose condition does
not stand marks it, opens a quality-1 span and sets the sticky bit CM; COMMON_MODE_RETURN ends the condition and its
span. -/
def Obligations.OverRangeTripMarksTheBentAndCounts : Prop :=
  ∀ (s : State) (t : Nat) (tn : Fin 6) (c : Fin 128) (positive : Bool),
    let u := s.at_ t
    let i := chIx tn.val c.val
    (u.converting tn.val c.val = true → (u.chan i).ovr = false →
      exec (.overRangeTrip t tn c positive) s = .next
        ((((List.range 8).foldl (fun (v : State) k =>
              if k = c.val % 8 then v
              else v.addSpan (chIx tn.val (c.val / 8 * 8 + k))
                { src := srcTrip + c.val % 8, q := 2, start := v.now, stop := none })
            ((u.setChan i { u.chan i with ovr := true, ovrPos := positive, ovrAt := u.now }).addSpan i
              { src := if positive then srcOverPos else srcOverNeg, q := 1, start := u.now, stop := none })).countUp
          F.CH_OR_COUNT_OR_COUNT i 1 65535).chStick tn.val c.val F.CH_STATUS_OVR F.CH_EVENT_EN_EV_OVR 0)) ∧
    (u.converting tn.val c.val = true → (u.chan i).cm = false →
      exec (.commonModeExcursion t tn c) s =
        .next (((u.setChan i { u.chan i with cm := true }).addSpan i
          { src := srcCm, q := 1, start := u.now, stop := none }).chStick tn.val c.val F.CH_STATUS_CM F.CH_EVENT_EN_EV_CM 1)) ∧
    exec (.commonModeReturn t tn c) s = .next ((u.setChan i { u.chan i with cm := false }).endSpan i srcCm u.now)

/-- When a channel in over-range is released, OVER_RANGE_RELEASE ends the over-range, its quality-1 span and the dwell
contribution to OPEN_NOW, gives the channel a quality-2 span of 2 µs, and closes 5 µs from now the spans that its trip
opened on the bent's channels. OPEN_DWELL_EXPIRY, once OPEN_DWELL ms of continuous over-range have passed, makes the
dwell contribution to OPEN_NOW true, through the shared rule that sets OPEN when OPEN_NOW rises. -/
def Obligations.OverRangeReleaseLeavesRecoverySpans : Prop :=
  ∀ (s : State) (t : Nat) (tn : Fin 6) (c : Fin 128),
    let u := s.at_ t
    let i := chIx tn.val c.val
    (u.chan i).ovr = true →
      exec (.overRangeRelease t tn c) s = .next
        ((List.range 8).foldl (fun (v : State) k => v.endSpan (chIx tn.val (c.val / 8 * 8 + k)) (srcTrip + c.val % 8)
            (v.now + 5 * usF))
          ((((u.setChan i { u.chan i with ovr := false, dwellOpen := false }).endSpan i srcOverPos u.now).endSpan i srcOverNeg
            u.now).addSpan i { src := srcRelease, q := 2, start := u.now, stop := some (u.now + 2 * usF) })) ∧
      ((u.chan i).ovrAt + u.rd F.CH_OPEN_OPEN_DWELL i * msF ≤ u.now →
        exec (.openDwellExpiry t tn c) s = .next (u.setOpen tn.val c.val { u.chan i with dwellOpen := true }))

/-- On a reachable Tenon, RANGE_CHANGE to another legal range takes effect at the channel's next aperture instant:
RANGE is written, the old range is kept until then, 1.2 µs of quality 3 and of quiet begin there, the decimation chain
has a requirement whose change instant is their end, a continuity check is abandoned, and the regression gates of the
channel break; written with its own value it changes nothing. COUPLING_CHANGE applies COUPLING, IEPE_EN and ENABLE in
this order. ENABLE_OFF and FS_EN_CHANGE run the shared operations that end the streams. DISC_THRESHOLD_CHANGE to
another pair writes THRESH and HYST, starts 200 ns of quiet and disarms both edges (the quiet span after THRESH is the
reading of log entry 14). -/
def Obligations.ChannelSettingsTakeEffect : Prop :=
  ∀ (s : State) (t : Nat) (tn : Fin 6) (c : Fin 128),
    let u := s.at_ t
    let i := chIx tn.val c.val
    let x := u.chan i
    let a := u.nextAp tn.val c.val (u.now : Int)
    u.reachable tn.val = true →
      (∀ r : BitVec 3, legalValue F.CH_CTRL_RANGE i r.toNat ≠ u.rd F.CH_CTRL_RANGE i →
        exec (.rangeChange t tn c r) s = .next
          (((((((u.setChan i { x with
              rangeOld := u.rangeAt tn.val c.val u.now, rangeFrom := a, quiet := x.quiet ++ [(a, a + rangeSpan)] }).wr
            F.CH_CTRL_RANGE i (legalValue F.CH_CTRL_RANGE i r.toNat)).addSpan i
              { src := srcRange, q := 3, start := a, stop := some (a + rangeSpan) }).addSup i gcRange
              { start := a, change := some (a + rangeSpan) }).contAbandon tn.val c.val).breakGates tn.val (fun g => g.ch == c.val) 32))) ∧
      (∀ r : BitVec 3, legalValue F.CH_CTRL_RANGE i r.toNat = u.rd F.CH_CTRL_RANGE i →
        exec (.rangeChange t tn c r) s = .next u) ∧
      (∀ (k : BitVec 2) (iepe en : Bool), exec (.couplingChange t tn c k iepe en) s = .next
        (((u.setCoupling tn.val c.val k.toNat).setIepe tn.val c.val iepe).setEnable tn.val c.val en)) ∧
      exec (.enableOff t tn c) s = .next (u.enableOff tn.val c.val) ∧
      (∀ on : Bool, exec (.fsEnChange t tn c on) s = .next (u.setFsEn tn.val c.val on)) ∧
      (∀ (th : BitVec 12) (hy : BitVec 6), th.toNat ≠ u.rd F.CH_DISC_THRESH i →
        exec (.discThresholdChange t tn c th hy) s = .next
          (((u.setChan i { x with quiet := x.quiet ++ [(u.now, u.now + 163840)], discAt := u.now }).wr F.CH_DISC_THRESH i th.toNat).wr
            F.CH_DISC_HYST i hy.toNat))

/-- When a check may run, CONT_CHECK_START keeps conversion A, sets the next check CONT_PERIOD seconds later (the
reading of log entry 17) and opens a quality-2 span of 101 µs. 51 µs after conversion A, CONT_CHECK_PULSE_END writes
the absolute difference of the conversions (at most 65,535) to CONT_DV and makes the continuity contribution to
OPEN_NOW true exactly when it reaches CONT_THR; at any other instant it changes nothing. CONT_CHECK_RECOVERY_END ends
the check from 101 µs after conversion A on, and not before. SETTLING_SPAN_END removes the quality-3 spans that are
over. IEPE_BIAS_READING writes IEPE_BIAS and, on the third reading in a row within a band or outside it, sets or
clears that band's bits. -/
def Obligations.ContinuityCheckMeasures : Prop :=
  ∀ (s : State) (t : Nat) (tn : Fin 6) (c : Fin 128),
    let u := s.at_ t
    let i := chIx tn.val c.val
    let x := u.chan i
    (∀ a : Int, u.contReady tn.val c.val = true → exec (.contCheckStart t tn c a) s = .next
      ((u.setChan i { x with 
        contPhase := 1, contA := a, contAt := u.now, contWas := (u.rd F.CH_MON_CONT_DV i, x.contOpen)
        contNext := u.now + u.rd F.CH_CONT_CONT_PERIOD i * secF }).addSpan i
        { src := srcCont, q := 2, start := u.now, stop := some (u.now + 101 * usF) })) ∧
    (∀ b : Int, ¬ (x.contPhase = 1 ∧ u.now = x.contAt + 51 * usF) → exec (.contCheckPulseEnd t tn c b) s = .next u) ∧
    (∀ b : Int, x.contPhase = 1 → u.now = x.contAt + 51 * usF → exec (.contCheckPulseEnd t tn c b) s = .next
      ((u.wr F.CH_MON_CONT_DV i (min (b - x.contA).natAbs 65535)).setOpen tn.val c.val
        { x with contPhase := 2, contOpen := decide (u.rd F.CH_CONT_CONT_THR i ≤ (b - x.contA).natAbs) })) ∧
    (x.contAt + 101 * usF ≤ u.now → exec (.contCheckRecoveryEnd t tn c) s = .next (u.setChan i { x with contPhase := 0 })) ∧
    (u.now < x.contAt + 101 * usF → exec (.contCheckRecoveryEnd t tn c) s = .next u) ∧
    (let ended (y : QSpan) : Bool := y.q == 3 && (match y.stop with | none => false | some e => decide (e ≤ u.now));
      exec (.settlingSpanEnd t tn c) s = .next (u.setChan i { x with spans := x.spans.filter (fun y => !ended y) })) ∧
    (∀ bias : BitVec 16, u.converting tn.val c.val = true → u.on F.CH_CTRL_IEPE_EN i = true → u.railsUp tn.val = true →
      let b := iepeBand bias.toInt
      let run := if x.band = b then min 3 (x.bandRun + 1) else 1
      let outRun := iepeBands.zipWith (fun k n => if k = b then 0 else min 3 (n + 1)) x.outRun
      let v := (iepeBands.zip outRun).foldl
        (fun (v : State) p => if p.2 = 3 then v.iepeLive tn.val c.val p.1 false else v)
        ((u.setChan i { x with band := b, bandRun := run, outRun := outRun }).wr F.CH_MON_IEPE_BIAS i bias.toNat)
      exec (.iepeBiasReading t tn c bias) s =
        .next (if run = 3 ∧ b ≠ 2 then v.iepeLive tn.val c.val b true else v))

/-- SAMPLE of a converting channel whose newest aperture instant up to now lies at or after zero and after the last
one used runs the shared sample operation once at that instant, with the code read as two's complement; when a
cross-trigger of the bent fired during it and URG_TRIG_EN is 1, the bent's urgent entry is requested. At an aperture
instant already used it changes nothing but the instant. -/
def Obligations.SampleFeedsItsChannel : Prop :=
  ∀ (s : State) (t : Nat) (tn : Fin 6) (c : Fin 128) (code : BitVec 16),
    let u := s.at_ t
    let i := chIx tn.val c.val
    let n := u.apIndex tn.val c.val (u.now : Int)
    let a := u.apInstant tn.val c.val (u.now : Int) n
    let b := bentIx tn.val (c.val / 8)
    let v := u.channelSample tn.val c.val n a.toNat code.toInt
    u.converting tn.val c.val = true → 0 ≤ a →
      ((∀ l, (u.chan i).lastAp = some l → (l : Int) < a) →
        (smapGet [] v.xtrig b = smapGet [] u.xtrig b ∨ v.on F.BENT_CTRL_URG_TRIG_EN b = false →
          exec (.sample t tn c code) s = .next v) ∧
        (smapGet [] v.xtrig b ≠ smapGet [] u.xtrig b ∧ v.on F.BENT_CTRL_URG_TRIG_EN b = true →
          exec (.sample t tn c code) s = .next (v.urgentReq tn.val (c.val / 8)))) ∧
      (∀ l, (u.chan i).lastAp = some l → a ≤ (l : Int) → exec (.sample t tn c code) s = .next u)

/-- On a powered bent whose rails are up, a fire that is not within 15 µs of the last one records the instant, opens
15 µs of quality 2 on the channel and sends the pulse with AMPL and POL: so do PULSER_FIRE on a reachable Tenon,
PULSER_PERIODIC_FIRE in MODE 1 at a multiple of PERIOD ms of the Tenon's Plumb time, and PULSE_AT_FIRE once an
outstanding pulse of the channel is due, which is removed. Within 15 µs of the last fire, PULSER_FIRE does nothing. -/
def Obligations.PulserFires : Prop :=
  ∀ (s : State) (t : Nat) (tn : Fin 6) (c : Fin 128),
    let u := s.at_ t
    let i := chIx tn.val c.val
    let fired (v : State) : State :=
      ((v.setChan i { v.chan i with lastFire := some v.now }).addSpan i
        { src := srcPulse, q := 2, start := v.now, stop := some (v.now + 15 * usF) }).send
          (.pulse tn.val c.val (u.rd F.CH_PULSER_AMPL i) (u.on F.CH_PULSER_POL i))
    let due (p : Nat × Int) : Bool := p.1 == c.val && decide (p.2 ≤ u.plumbOfTenon tn.val (u.now : Int))
    u.bentOn tn.val (c.val / 8) = true → u.railsUp tn.val = true →
      ((∀ f, (u.chan i).lastFire = some f → f + 15 * usF ≤ u.now) →
        (u.reachable tn.val = true → exec (.pulserFire t tn c) s = .next (fired u)) ∧
        (u.rd F.CH_PULSER_MODE i = 1 →
          u.plumbOfTenon tn.val (u.now : Int) % ((u.rd F.CH_PULSER_PERIOD i * msF : Nat) : Int) = 0 →
          exec (.pulserPeriodicFire t tn c) s = .next (fired u)) ∧
        ((u.tenon tn.val).pulses.any due = true → exec (.pulseAtFire t tn c) s = .next
          ((u.setTenon tn.val { u.tenon tn.val with
            pulses := (u.tenon tn.val).pulses.filter (fun p => !due p) }).firePulser tn.val c.val))) ∧
      (∀ f, u.reachable tn.val = true → (u.chan i).lastFire = some f → u.now < f + 15 * usF →
        exec (.pulserFire t tn c) s = .next u)

/-- SEQ_RUN_START and SEQ_RUN_STOP on a reachable Tenon write SEQ_RUN: 1 starts the sequencer where it may run, 0
stops it, and an entry in progress then completes alone. At a start instant of a running sequencer on a powered bent
whose rails are up, PASS_START starts a pass at entry 0 when no pass and no urgent entry is in progress or waits,
marks the pass missed when an urgent request waits, and where a pass is still in progress counts the skip and sets
PASS_SKIP, or does nothing with PASS_PERIOD 0. URGENT_GO latches the entry BENT_URGENT names when the scanner owns the
driver and is idle, and counts a drop otherwise (without the driver: log entry 102). USE_CHANGE on a reachable Tenon
runs the shared change of the driver's user. -/
def Obligations.ScannerPassesStartAndStop : Prop :=
  ∀ (s : State) (t : Nat) (tn : Fin 6) (b : Fin 16),
    let u := s.at_ t
    let i := bentIx tn.val b.val
    let x := u.bent i
    (u.reachable tn.val = true → u.on F.BENT_CTRL_SEQ_RUN i = false → (u.wr F.BENT_CTRL_SEQ_RUN i 1).seqMay i = false →
      exec (.seqRunStart t tn b) s = .next (u.wr F.BENT_CTRL_SEQ_RUN i 1)) ∧
    (u.reachable tn.val = true → u.on F.BENT_CTRL_SEQ_RUN i = false → (u.wr F.BENT_CTRL_SEQ_RUN i 1).seqMay i = true →
      exec (.seqRunStart t tn b) s = .next ((u.wr F.BENT_CTRL_SEQ_RUN i 1).seqStart i)) ∧
    (u.reachable tn.val = true → u.on F.BENT_CTRL_SEQ_RUN i = true →
      exec (.seqRunStop t tn b) s = .next (((u.wr F.BENT_CTRL_SEQ_RUN i 0).setBent i
        { x with seqOn := false, missed := false, passOn := false, entry := x.entry.map (fun e => { e with lone := true }) }))) ∧
    (x.seqOn = true → u.startInstant tn.val b.val = true → u.bentOn tn.val b.val = true →
      (u.tenon tn.val).vexLow = false →
      (x.passOn = false → x.entry = none → x.urgent = none →
        exec (.passStart t tn b) s =
          .next (u.setBent i { x with passOn := true, next := 0, passes := x.passes + 1, guard := false })) ∧
      (x.passOn = false → x.entry = none → x.urgent.isSome = true →
        exec (.passStart t tn b) s = .next (u.setBent i { x with missed := true, guard := false })) ∧
      (x.passOn = true → u.rd F.BENT_PASS_PASS_PERIOD i = 0 → exec (.passStart t tn b) s = .next u) ∧
      (x.passOn = true → u.rd F.BENT_PASS_PASS_PERIOD i ≠ 0 → exec (.passStart t tn b) s = .next
        (((u.setBent i { x with guard := false }).countUp F.BENT_COUNT_PASS_SKIPS i 1 32767).bentStick tn.val b.val
          F.BENT_STATUS_PASS_SKIP 5))) ∧
    (u.reachable tn.val = true →
      (x.user = 1 → x.entry = none → x.urgent = none → x.passOn = false → exec (.urgentGo t tn b) s =
        .next (u.setBent i { x with urgent := some (u.rd F.BENT_URGENT_ENTRY i) })) ∧
      (x.user ≠ 1 ∨ x.entry.isSome = true ∨ x.urgent.isSome = true ∨ x.passOn = true → exec (.urgentGo t tn b) s = .next
        ((u.countUp F.BENT_COUNT_URGENT_DROPS i 1 65535).bentStick tn.val b.val F.BENT_STATUS_URGENT_DROP 4))) ∧
    (u.reachable tn.val = true → ∀ v : BitVec 2,
      exec (.useChange t tn b v) s = .next (u.setUse tn.val b.val v.toNat))

/-- On a powered bent whose scanner owns the driver, with no entry in progress and room in the open record,
ENTRY_START starts the urgent entry that waits, or else the next entry of the pass. ENTRY_CONNECT at or after the
connect instant of a steady entry whose excitation is not shorted starts its sampling; POLARITY_REVERSAL at the end of
the first half of a square-wave entry starts the second half; DEMOD_PERIOD_END of a voltage entry without excitation
demodulates the corrected samples, flags OVR where one lies beyond 105 % of the range, adds the period's value to the
sums inside the sampling time, and outside it adds nothing; ENTRY_SAMPLING_END at its end queues the result, computed
by the shared rule, with no flag added where its channel is not open, a polarity is not reversed and no subtracted
lead value is above LEAD_MAX, at the middle of the time its samples weigh, and ends the entry; VW_LISTEN_END does the
same for a vibrating wire. -/
def Obligations.EntryRunsFromStartToResult : Prop :=
  ∀ (s : State) (t : Nat) (tn : Fin 6) (b : Fin 16),
    let u := s.at_ t
    let i := bentIx tn.val b.val
    let x := u.bent i
    (u.bentOn tn.val b.val = true → x.user = 1 → x.entry = none → (u.stream (scanSid tn.val b.val)).cur = none →
      u.on F.BENT_CAL_SRC_EN i = false → x.guard = false → x.useRamp = none →
      (∀ e, x.urgent = some e → exec (.entryStart t tn b) s = .next (u.entryStart tn.val b.val e true)) ∧
      (x.urgent = none → x.seqOn = true → x.passOn = true → x.next ≤ u.rd F.BENT_CTRL_SEQ_LEN_M1 i →
        exec (.entryStart t tn b) s = .next (u.entryStart tn.val b.val x.next false))) ∧
    (∀ e, x.entry = some e → e.phase = .connect → e.connectAt ≤ u.now → u.bentOn tn.val b.val = true →
      e.prof.wave = 0 ∨ u.on F.BENT_STATUS_EXC_SHORT_NOW i = false →
      (e.mode ≠ 5 → ¬ (e.mode = 0 ∧ e.input = 12) → exec (.entryConnect t tn b) s =
        .next (u.setBent i { u.driver tn.val b.val with entry := some (u.sampling i e .sample) })) ∧
      (e.mode = 5 → exec (.entryConnect t tn b) s = .next
        ((u.addSpan (chIx tn.val (8 * b.val + e.input)) { src := srcExc, q := 2, start := u.now, stop := none }).setBent i
          { u.driver tn.val b.val with entry := some { e with phase := .drive, excEnd := u.driveEnd e.prof } }))) ∧
    (∀ e, x.entry = some e → e.phase = .sample → e.prof.wave = 2 → e.sampTo ≤ u.now →
      exec (.polarityReversal t tn b) s =
        .next (u.setBent i { x with entry := some (u.sampling i { e with plus := e.acc } .second) })) ∧
    (∀ e xs ph cur dp dn rev, x.entry = some e → e.phase = .sample → e.mode = 0 → e.prof.wave = 0 →
      let v := demodulate false ((xs.map (u.scanValue i e.gain)).zip ph);
      let fl := e.flags ||| (if xs.any scanOver then sfOvr else 0);
      (e.stages = [] → e.fillFrom < u.now → e.sampFrom < u.now → u.now ≤ e.sampTo →
        exec (.demodPeriodEnd t tn b xs ph cur dp dn rev) s = .next (u.setBent i { x with entry := some { e with
          flags := fl, stages := [], dec := (e.dec + xs.length) % 50
          acc := { n := e.acc.n + 1, i := e.acc.i + v.1, q := e.acc.q + v.2, m := e.acc.m + 1
                   cur := e.acc.cur + rhu (cur * (u.rd F.IMON_GAIN_CAL i : Int)) 30 } } })) ∧
      (u.now ≤ e.fillFrom ∨ e.sampTo < u.now → exec (.demodPeriodEnd t tn b xs ph cur dp dn rev) s =
        .next (u.setBent i { x with entry := some { e with flags := fl } }))) ∧
    (∀ e v, x.entry = some e → (e.phase = .sample ∧ e.prof.wave ≠ 2) ∨ e.phase = .second → e.sampTo ≤ u.now →
      u.entryValue i e = some v → ¬ (e.mode = 0 ∧ e.input = 12) → (e.mode = 6 → 0 ≤ v.1) →
      (e.mode = 0 → e.input ≤ 7 → (u.chan (chIx tn.val (8 * b.val + e.input))).openNow = false) →
      u.leadHigh i e = false → exec (.entrySamplingEnd t tn b) s = .next
        ((u.scanResult tn.val b.val e v.1 v.2 ((u.leadUsed i e : Nat) : Int)
          (rhu (u.plumbOfTenon tn.val (e.weighFrom : Int) + u.plumbOfTenon tn.val (e.sampTo : Int)) 1)).entryEnd
            tn.val b.val)) ∧
    (∀ e amp, x.entry = some e → e.phase = .listen → e.excEnd + e.listen * msF ≤ u.now →
      exec (.vwListenEnd t tn b amp) s = .next
        ((u.scanResult tn.val b.val e (divHalfUp amp 10000) (e.regUnit : Int) 0
          (u.plumbOfTenon tn.val (e.excEnd : Int) + ((e.listen * msF / 2 : Nat) : Int))).entryEnd tn.val b.val))

/-- LEAD_STEP_END after the step of a 4-wire lead measurement whose loop stays below 1,250,000 writes half of it,
rounded up, to LEAD_N and flags LEAD_MEAS and, above LEAD_MAX, LEAD_HIGH; above that limit the entry fails as open.
EXC_CURRENT_LIMIT flags the running entry; EXC_SHUTDOWN of a powered bent sets EXC_SHORT_NOW, remembers the instant,
counts as a limit of a slice that has the driver, and sets the sticky bit; EXC_RETRY one second later clears
EXC_SHORT_NOW when the short is gone and only remembers the instant when it is not. EXCITATION_RAMP_END at the end of
a change of user gives the driver to the incoming user, and changes nothing before it or while a slice has yet to
stop. PAIR_GUARD_START within GUARD of the end of the bent's slot abandons the entry and holds the pass until the next
start. -/
def Obligations.ExcitationIsSupervised : Prop :=
  ∀ (s : State) (t : Nat) (tn : Fin 6) (b : Fin 16),
    let u := s.at_ t
    let i := bentIx tn.val b.val
    let x := u.bent i
    (∀ e le p n, x.entry = some e → e.leadEnd = some le → le ≤ u.now → e.phase = .connect →
      e.flags &&& sfLeadMeas = 0 → e.sixWire = false →
      (n ≤ 1250000 → exec (.leadStepEnd t tn b p n) s = .next
        (let v := u.wr F.LEAD_LEAD_N (i * 8 + e.input) ((n + 1) / 2);
         let fl := e.flags ||| sfLeadMeas;
         v.setBent i { v.bent i with entry := some { e with
           flags := if v.rd F.BENT_LEADMAX_LEAD_MAX i < (n + 1) / 2 then fl ||| sfLeadHigh else fl } })) ∧
      (1250000 < n → exec (.leadStepEnd t tn b p n) s =
        .next (u.entryFail tn.val b.val { e with flags := e.flags ||| sfLeadMeas } sfOpen))) ∧
    (∀ e, x.entry = some e → x.user = 1 → e.phase = .sample → e.sampFrom ≤ u.now → u.now ≤ e.sampTo →
      exec (.excCurrentLimit t tn b) s =
      .next (u.setBent i { x with entry := some { e with flags := e.flags ||| sfExcLimit } })) ∧
    (u.bentOn tn.val b.val = true → u.on F.BENT_STATUS_EXC_SHORT_NOW i = false → exec (.excShutdown t tn b) s = .next
      ((((u.wr F.BENT_STATUS_EXC_SHORT_NOW i 1).setBent i { x with shutAt := u.now }).loopLimited i).bentStick tn.val b.val
        F.BENT_STATUS_EXC_SHORT 0)) ∧
    (u.on F.BENT_STATUS_EXC_SHORT_NOW i = true → x.shutAt + secF ≤ u.now →
      exec (.excRetry t tn b false) s =
        .next (((u.setBent i { x with shutAt := u.now }).loopLimited i).wr F.BENT_STATUS_EXC_SHORT_NOW i 0) ∧
      exec (.excRetry t tn b true) s = .next (u.setBent i { x with shutAt := u.now })) ∧
    (∀ a e, x.useRamp = some (a, some e) →
      (e ≤ u.now → exec (.excitationRampEnd t tn b) s = .next (u.useTake i (u.rd F.BENT_CTRL_USE i))) ∧
      (u.now < e → exec (.excitationRampEnd t tn b) s = .next u)) ∧
    (∀ a, x.useRamp = some (a, none) → exec (.excitationRampEnd t tn b) s = .next u) ∧
    (let per : Int := ((u.rd F.BENT_PASS_PASS_PERIOD i * msF : Nat) : Int);
     let now := u.plumbOfTenon tn.val (u.now : Int);
     u.on F.BENT_PAIR_EN i = true → u.on F.BENT_PAIR_SOLO i = false → per ≠ 0 →
      now / per % 2 = (u.rd F.BENT_PAIR_SLOT i : Int) → per - now % per ≤ ((u.rd F.BENT_PAIR_GUARD i * usF : Nat) : Int) →
      exec (.pairGuardStart t tn b) s = .next
        (let v := (u.excSupEnd tn.val b.val u.now).entryAbandon tn.val b.val;
         v.setBent i { v.bent i with guard := true, passOn := false, prof := none, rampTo := none }))

/-- On a reachable Tenon: DCB_ENABLE_CHANGE to 1 while DEC_EN is 1 writes DCB_EN and starts the DC block alone over
DCB_ACQ outputs, to 0 writes it and clears the block's estimate and acquisition; DCB_FREEZE_CHANGE to 0 with the block
and the chain on starts the block alone, to 1 only writes the bit; DEC_CONFIG_CHANGE of DEC_EN to 0 writes it and ends
the chain's stream; of another field it runs the shared write; USER_SET_COMMIT copies the shadow registers into the
active set, and where no chain selects the set changes nothing else. CAL_CONSTANT_WRITE and LEAD_WRITE run the shared
writes that move the epochs. -/
def Obligations.ChainSettingsRestartTheChain : Prop :=
  ∀ (s : State) (t : Nat) (tn : Fin 6) (c : Fin 128),
    let u := s.at_ t
    let i := chIx tn.val c.val
    u.reachable tn.val = true →
      (u.on F.DEC_CTRL_DCB_EN i = false → (u.wr F.DEC_CTRL_DCB_EN i 1).on F.DEC_CTRL_DEC_EN i = true →
        exec (.dcbEnableChange t tn c true) s = .next ((u.wr F.DEC_CTRL_DCB_EN i 1).dcbAlone i)) ∧
      (u.on F.DEC_CTRL_DCB_EN i = true → exec (.dcbEnableChange t tn c false) s = .next
        ((u.wr F.DEC_CTRL_DCB_EN i 0).setChain i { u.chain i with m := 0, acqSkip := 0, acqLeft := 0, acqSum := 0 })) ∧
      (u.on F.DEC_CTRL_DCB_FREEZE i = false →
        exec (.dcbFreezeChange t tn c true) s = .next (u.wr F.DEC_CTRL_DCB_FREEZE i 1)) ∧
      (u.on F.DEC_CTRL_DCB_FREEZE i = true → (u.wr F.DEC_CTRL_DCB_FREEZE i 0).on F.DEC_CTRL_DCB_EN i = true →
        (u.wr F.DEC_CTRL_DCB_FREEZE i 0).on F.DEC_CTRL_DEC_EN i = true →
        exec (.dcbFreezeChange t tn c false) s = .next ((u.wr F.DEC_CTRL_DCB_FREEZE i 0).dcbAlone i)) ∧
      (u.rd F.DEC_CTRL_DEC_EN i ≠ 0 → exec (.decConfigChange t tn c .decEn 0) s =
        .next ((u.wr F.DEC_CTRL_DEC_EN i 0).decOff tn.val c.val)) ∧
      (∀ f v, exec (.decConfigChange t tn c f v) s = .next (u.decWrite tn.val c.val f v)) ∧
      (∀ set : Fin 4,
        let v : State := { u with userSets := smapSet {} u.userSets (4 * tn.val + set.val) (u.shadowSet tn.val set.val) }
        (∀ k, k < 128 → v.rd F.DEC_CTRL_FIR_SET (chIx tn.val k) ≠ 16 + set.val) →
          exec (.userSetCommit t tn set) s = .next v) ∧
      (∀ (b : Fin 16) (off : BitVec 12) (x : BitVec 32), exec (.calConstantWrite t tn b off x) s =
        .next (u.calWrite tn.val b.val off.toNat x.toNat)) ∧
      (∀ (b : Fin 16) (k : Fin 8) (neg : Bool) (x : BitVec 20), exec (.leadWrite t tn b k neg x) s = .next
        ((u.wrLegal (if neg then F.LEAD_LEAD_N else F.LEAD_LEAD_P) (bentIx tn.val b.val * 8 + k.val) x.toNat).scanEpoch
          tn.val b.val))

/-- Outside BOOT, a SYNC_N low time of at least 100 ns schedules an alignment at the first whole second at least 1 ms
ahead, and below 20 ns does nothing; what lies between is open and either schedules it or does nothing. SYNC_COMMAND
at least 1 ms before its second schedules it. ALIGNMENT of an acquiring Tenon aligns its 128 chains to each scheduled
second its counter has reached, writes LAST_SEC and keeps the seconds it has not reached. -/
def Obligations.AlignmentAtTheSecond : Prop :=
  ∀ (s : State) (t : Nat),
    let u := s.at_ t
    let sec := ((u.plumbNow + (msF : Int) + (secF : Int) - 1) / (secF : Int) % 2 ^ 40).toNat
    (∀ ns, u.mode ≠ mBoot → u.mode ≠ 0 →
      (100 ≤ ns → exec (.syncNEdge t ns) s = .next (u.scheduleSync sec)) ∧
      (ns < 20 → exec (.syncNEdge t ns) s = .next u) ∧
      (20 ≤ ns → ns < 100 → exec (.syncNEdge t ns) s = .next (({ u with free := u.free + 1 } : State).scheduleSync sec) ∨
        exec (.syncNEdge t ns) s = .next { u with free := u.free + 1 })) ∧
    (∀ x : BitVec 40, u.plumbNow + (msF : Int) ≤ plumbSec x.toNat * (secF : Int) →
      exec (.syncCommand t x) s = .next (u.scheduleSync x.toNat)) ∧
    (∀ tn : Fin 6, u.acquiring tn.val = true →
      let due (n : Nat) : Bool := decide (plumbSec n * (secF : Int) ≤ u.plumbOfTenon tn.val (u.now : Int))
      exec (.alignment t tn) s = .next
        (((u.tenon tn.val).syncs.filter due).foldl
          (fun v n => ((List.range 128).foldl (fun v c => v.alignChain tn.val c n) v).wr F.DEC_SYNC_STAT_LAST_SEC tn.val n)
          (u.setTenon tn.val { u.tenon tn.val with syncs := (u.tenon tn.val).syncs.filter (fun n => !due n) })))

/-- CROSS_TRIGGER takes the oldest cross-trigger on its way to a channel; one whose SRC_BENT is 1 waits for its value,
applies it to a stored value or refuses it as too late, and one whose SRC_BENT is 0 drops it. PLUMB_TIMED_TRIGGER
hands the time to every channel of an acquiring Tenon whose SRC_FABRIC is 1. CAPTURE_FORCE makes the next value of the
channel judge a trigger. REARM_INSTANT arms a capturing channel that has no segment open once its gap is over.
ALLOTMENT_CHANGE in SETUP runs the shared allotment and settles the reads of segments that it discards, and outside
SETUP changes nothing. -/
def Obligations.TriggersReachTheCapture : Prop :=
  ∀ (s : State) (t : Nat) (tn : Fin 6) (c : Fin 128),
    let u := s.at_ t
    let i := chIx tn.val c.val
    let k := u.cap i
    (k.xtPend = [] → exec (.crossTrigger t tn c) s = .next u) ∧
    (∀ x rest, k.xtPend = x :: rest →
      let v := u.setCap i { k with xtPend := rest }
      (u.on F.CAP_CTRL_SRC_BENT i = false → exec (.crossTrigger t tn c) s = .next v) ∧
      (u.on F.CAP_CTRL_SRC_BENT i = true → exec (.crossTrigger t tn c) s = .next
        (if (v.timedTrig tn.val c.val x).1 then (v.timedTrig tn.val c.val x).2.refuseTrig tn.val c.val false
         else (v.timedTrig tn.val c.val x).2))) ∧
    (∀ x : BitVec 80, exec (.plumbTimedTrigger t tn x) s = .next (u.fabTrig tn.val (plumbOfWord x.toNat))) ∧
    (u.reachable tn.val = true → exec (.captureForce t tn c) s = .next (u.setCap i { k with force := true })) ∧
    (u.capState i = csCapturing → k.cur = none → k.rearm ≤ u.plumbOfTenon tn.val (u.now : Int) →
      exec (.rearmInstant t tn c) s = .next (u.wr F.CAP_STATE_STATE i csArmed)) ∧
    (∀ (p : BitVec 12) (a : BitVec 4), u.reachable tn.val = true →
      (u.mode = mSetup → exec (.allotmentChange t tn c p a) s = 
        .next ((u.setAllot tn.val c.val p.toNat a.toNat).readsSettle tn.val)) ∧
      (u.mode ≠ mSetup → exec (.allotmentChange t tn c p a) s = .next u))

/-- An edge that the settings allow, that is armed since its threshold was last written, and that the selection takes
is counted in DEAD and marks pile-up when it lies within five TCLK periods of the last accepted edge; otherwise it
becomes the last edge and opens a stamp with its tick, polarity, phase time from the table, the delay of the range,
and the vernier where it is free. VERNIER_DONE gives the code of the table then in use, or its loss, to the oldest
stamp that waits for one. CAL_RUN_START of an acquiring Tenon at a whole Plumb second starts the phase run, and the
vernier run on a VT8, and between seconds nothing; CAL_RUN_END of a run in progress with a valid histogram replaces
that table now. -/
def Obligations.EdgeIsStampedOrDead : Prop :=
  ∀ (s : State) (t : Nat) (tn : Fin 6) (c : Fin 128),
    let u := s.at_ t
    let i := chIx tn.val c.val
    let x := u.stampUnit i
    (∀ (fall : Bool) (ph : Fin 32) (arm : Nat), u.edgeAllowed tn.val c.val arm = true →
      ¬ (u.rd F.CH_DISC_DISC_EDGE i = 0 ∧ fall = true) → ¬ (u.rd F.CH_DISC_DISC_EDGE i = 1 ∧ fall = false) →
      (∀ e, x.lastEdge = some e → u.now < e + 5 * tickF → exec (.discriminatorEdge t tn c fall (ph, arm)) s =
        .next ((u.setStampUnit i { x with pileup := true }).countUp F.ST_COUNT_DEAD i 1 65535)) ∧
      ((∀ e, x.lastEdge = some e → e + 5 * tickF ≤ u.now) → exec (.discriminatorEdge t tn c fall (ph, arm)) s = .next
        (let vern := u.vernOn i && decide (x.vernBusy ≤ u.now);
         u.setStampUnit i { x with
          lastEdge := some u.now, pileup := false, vernBusy := if vern then u.now + 640 * tickF else x.vernBusy
          flight := x.flight ++ [{
            tick := u.now / tickF, pol := b2n fall, phase := tabEntry x.phTab 32 ph.val, vern := vern, code := none
            off := (u.tenon tn.val).off, dly := u.rd F.ST_DLY_DISC_DLY (i * 5 + u.rangeAt tn.val c.val u.now)
            coarse := u.vernOn i && !vern, pileup := x.pileup, stalePh := u.stale tn.val x.phAt
            staleVn := false, epoch := u.rd F.ST_EPOCH_EPOCH tn.val }] }))) ∧
    (∀ (st : Stamp) l k, x.flight = st :: l → st.vern = true → st.code = none →
      exec (.vernierDone t tn c (some k)) s = .next (u.setStampUnit i
        { x with flight := { st with
          code := some (tabEntry x.vnTab 512 (511 - k.val)), staleVn := u.stale tn.val x.vnAt } :: l }) ∧
      exec (.vernierDone t tn c none) s = .next (u.setStampUnit i
        { x with flight := { st with vern := false, coarse := true } :: l })) ∧
    (u.acquiring tn.val = true →
      (u.plumbOfTenon tn.val (u.now : Int) % (secF : Int) = 0 →
        exec (.calRunStart t tn c) s = .next (u.setStampUnit i { x with phCal := true, vnCal := u.part == .vt8 })) ∧
      (u.plumbOfTenon tn.val (u.now : Int) % (secF : Int) ≠ 0 → exec (.calRunStart t tn c) s = .next u) ∧
      (∀ hist, x.phCal = true → hist.length = 32 → hist.sum = 2 ^ 20 → (tableOf 32 hist).2 = true →
        exec (.calRunEnd t tn c false hist) s =
          .next (u.setStampUnit i { x with phCal := false, phTab := (tableOf 32 hist).1, phAt := some u.now })) ∧
      (∀ hist, x.vnCal = true → hist.length = 512 → hist.sum = 2 ^ 20 → (tableOf 512 hist).2 = true →
        exec (.calRunEnd t tn c true hist) s =
          .next (u.setStampUnit i { x with vnCal := false, vnTab := (tableOf 512 hist).1, vnAt := some u.now })))

/-- STAMP_RELEASE of the oldest stamp in flight, 768 TCLK periods after its edge's tick and once no stamp of the Tenon
of an earlier edge, or of the same edge and a lower channel, is in flight, counts it in FIFO_OVF and marks pile-up on
the channel's next stamp when 16 stamps wait, and otherwise takes the next place in the bent's and the Tenon's merges
and delivers it. INTERVAL_STOP_HOLD_END judges the held stops whose time is over and keeps the rest.
INTERVAL_WINDOW_EXPIRY closes a window that no held stop and no earlier stamp can still reach. -/
def Obligations.StampsLeaveInOrder : Prop :=
  ∀ (s : State) (t : Nat) (tn : Fin 6),
    let u := s.at_ t
    (∀ (c : Fin 128) (st : Stamp) l,
      let i := chIx tn.val c.val
      let b := bentIx tn.val (c.val / 8)
      let x := u.stampUnit i
      let waiting := x.queued.filter (fun m => decide (u.now < m))
      let v := u.setStampUnit i { x with flight := l, queued := waiting }
      let m := max u.now (max (smapGet 0 u.bentMerge b) (smapGet 0 u.tenonMerge tn.val))
      let w : State := { v with
        bentMerge := smapSet 0 v.bentMerge b (m + mergeStep), tenonMerge := smapSet 0 v.tenonMerge tn.val (m + mergeStep) }
      x.flight = st :: l → (st.tick + stampLatency) * tickF ≤ u.now → u.stampNext tn.val c.val st = true →
        (16 ≤ waiting.length → exec (.stampRelease t tn c) s = .next
          ((v.setStampUnit i (v.stampUnit i).markPileup).countUp F.ST_COUNT_FIFO_OVF i 1 32767)) ∧
        (waiting.length < 16 → exec (.stampRelease t tn c) s = .next
          ((if w.now < m then w.setStampUnit i { w.stampUnit i with queued := waiting ++ [m] } else w).stampOut
            tn.val c.val st))) ∧
    (∀ k : Fin 16,
      let i := intIx tn.val k.val
      let iu := u.intUnit i
      exec (.intervalStopHoldEnd t tn k) s = .next
        ((iu.held.filter (fun x => decide (x.until_ ≤ u.now))).foldl (fun v x => v.judgeStop tn.val k.val x)
          (u.setIntUnit i { iu with held := iu.held.filter (fun x => decide (u.now < x.until_)) })) ∧
      (∀ w, iu.win = some w → iu.held = [] →
        u.orderPassed tn.val (w.start + ((u.rd F.INT_CFG_WINDOW i * tickF : Nat) : Int)) = true →
        exec (.intervalWindowExpiry t tn k) s = .next (u.winClose tn.val k.val false)))

/-- PE_CHECK_GO on a reachable Tenon starts a check of PE_N_M1 + 1 fires on an enabled channel without IEPE and
without a check, with STATUS running, and otherwise sets STATUS refused and PE_DONE. PE_FIRE with fires left, 15 µs
after the last, fires the pulser and counts the fire down; a launch inside PE_BLANK and an echo after it and within 14
µs add the difference of their stamps, on the TCLK axis, to the sums of the echo's polarity, and one that finds the
vernier idle keeps it busy for 640 TCLK periods; a fire without one of them adds nothing to the sums. PE_CHECK_END
computes the result 14 µs after the last fire. -/
def Obligations.PulseEchoCheckRuns : Prop :=
  ∀ (s : State) (t : Nat) (tn : Fin 6) (c : Fin 128),
    let u := s.at_ t
    let i := chIx tn.val c.val
    let x := u.stampUnit i
    (u.reachable tn.val = true →
      (u.on F.CH_CTRL_IEPE_EN i = false → u.on F.CH_CTRL_ENABLE i = true → x.pe = none → exec (.peCheckGo t tn c) s =
        .next ((u.setStampUnit i { x with pe := some { left := u.rd F.PE_CTRL_PE_N_M1 i + 1, lastFire := 0 } }).wr
          F.PE_RES_STATUS i peRunning)) ∧
      (u.on F.CH_CTRL_IEPE_EN i = true ∨ u.on F.CH_CTRL_ENABLE i = false ∨ x.pe.isSome = true →
        exec (.peCheckGo t tn c) s =
          .next ((u.wr F.PE_RES_STATUS i peRefused).stStick tn.val c.val F.ST_STATUS_PE_DONE 3))) ∧
    (∀ p, x.pe = some p → p.left ≠ 0 → p.lastFire = 0 ∨ p.lastFire + 15 * usF ≤ u.now →
      let v := u.firePulser tn.val c.val
      let blank := v.rd F.PE_CFG_PE_BLANK i * 8192
      let takes (busy a : Nat) : Bool := v.vernOn i && decide (busy ≤ a)
      let busy (b a : Nat) : Nat := if takes b a then a + 640 * tickF else b
      let p' := { p with left := p.left - 1, lastFire := v.now }
      exec (.peFire t tn c none none) s = .next (v.setStampUnit i { x with pe := some p' }) ∧
      (∀ ea ec ev neg, blank ≤ ea → ea ≤ 14 * usF → exec (.peFire t tn c none (some (ea, ec, ev, neg))) s =
        .next (v.setStampUnit i { x with vernBusy := busy x.vernBusy (v.now + ea), pe := some p' })) ∧
      (∀ la lc lv, la ≤ blank → exec (.peFire t tn c (some (la, lc, lv)) none) s =
        .next (v.setStampUnit i { x with vernBusy := busy x.vernBusy (v.now + la), pe := some p' })) ∧
      (∀ la lc lv ea ec ev neg, la ≤ blank → blank ≤ ea → ea ≤ 14 * usF →
        let b1 := busy x.vernBusy (v.now + la)
        let l := v.peStamp tn.val i (v.now + la) lc lv (takes x.vernBusy (v.now + la))
        let e := v.peStamp tn.val i (v.now + ea) ec ev (takes b1 (v.now + ea))
        let d := e.1 - l.1
        let q := { p' with sq := p.sq + d * d, stale := p.stale || l.2 || e.2 }
        exec (.peFire t tn c (some (la, lc, lv)) (some (ea, ec, ev, neg))) s = .next (v.setStampUnit i { x with
          vernBusy := busy b1 (v.now + ea)
          pe := some (if neg then { q with negN := p.negN + 1, negSum := p.negSum + d }
            else { q with posN := p.posN + 1, posSum := p.posSum + d }) }))) ∧
    (∀ p, x.pe = some p → p.left = 0 → p.lastFire + 14 * usF ≤ u.now →
      exec (.peCheckEnd t tn c) s = .next (u.peEnd tn.val c.val p))

/-- GATE_OPEN of an acquiring Tenon opens a waiting gate whose opening instant its counter has reached while data
stream, and in MODE 2 with no gate opens a gate at a whole multiple of GATE_LEN. GATE_CLOSE closes an open gate at its
closing instant, GATE_FULL a full one. REG_GO in MODE 3 with no gate while data stream requests a gate GATE_DELAY ms
from now for GATE_LEN ms. REG_RESULT_ENTER enters the results of closed gates that the merged order has passed.
STAT_VALUE takes the oldest value of the accumulator; one that is no loss is taken alone. STAT_RECORD_RELEASE and
STAT_CFG_WRITE run the shared release and write. -/
def Obligations.GatesOpenCloseAndReport : Prop :=
  ∀ (s : State) (t : Nat) (tn : Fin 6) (k : Fin 32),
    let u := s.at_ t
    let i := regIx tn.val k.val
    let now := u.plumbOfTenon tn.val (u.now : Int)
    (u.acquiring tn.val = true → u.streaming = true →
      (∀ g, u.gate tn.val k.val = some g → g.isOpen = false → g.opens ≤ now → exec (.gateOpen t tn k) s =
        .next (u.setGate tn.val k.val (some { g with isOpen := true, epoch := u.rd F.ST_EPOCH_EPOCH tn.val }))) ∧
      (u.gate tn.val k.val = none → u.rd F.REG_CFG_MODE i = 2 →
        let len : Int := ((u.rd F.REG_CFG_GATE_LEN i * msF : Nat) : Int)
        now % len = 0 → exec (.gateOpen t tn k) s = .next (u.setGate tn.val k.val (some {
          unit := k.val, ch := u.rd F.REG_CFG_CH i, pol := u.rd F.REG_CFG_POL i, p := u.rd F.REG_CFG_PRESCALE i
          opens := now, closes := now + len, isOpen := true, epoch := u.rd F.ST_EPOCH_EPOCH tn.val })))) ∧
    (∀ g, u.gate tn.val k.val = some g →
      (g.isOpen = true → g.closes ≤ now → exec (.gateClose t tn k) s = .next (u.closeGate tn.val k.val g)) ∧
      (g.full = true → exec (.gateFull t tn k) s = .next (u.closeGate tn.val k.val g))) ∧
    (u.reachable tn.val = true → u.rd F.REG_CFG_MODE i = 3 → u.gate tn.val k.val = none → u.streaming = true →
      let o := now + ((u.rd F.REG_CFG_GATE_DELAY i * msF : Nat) : Int)
      exec (.regGo t tn k) s = .next (u.setGate tn.val k.val (some {
        unit := k.val, ch := u.rd F.REG_CFG_CH i, pol := u.rd F.REG_CFG_POL i, p := u.rd F.REG_CFG_PRESCALE i
        opens := o, closes := o + ((u.rd F.REG_CFG_GATE_LEN i * msF : Nat) : Int) }))) ∧
    exec (.regResultEnter t tn) s = .next (u.regFlush tn.val (fun g => u.orderPassed tn.val g.closes)) ∧
    (∀ (a : Fin 64) x l, (u.acc a.val).input = x :: l → x.loss = false →
      exec (.statValue t a) s = .next ((u.setAcc a.val { u.acc a.val with input := l }).statValue a.val x)) ∧
    (∀ a : Fin 64, exec (.statRecordRelease t a) s = .next (u.statRelease a.val)) ∧
    (∀ (a : Fin 64) (w : Fin 2) (x : BitVec 32),
      exec (.statCfgWrite t a w x) s = .next (u.statCfg a.val w.val x.toNat))

/-- At a period boundary, LOOP_START on a powered bent with RUN 1, USE 2 and the driver with the slice starts a slice
that is neither running nor tripped with cleared laws, and LOOP_STOP with RUN 0 or USE not 2 stops a running or
tripped slice, whose output falls to zero over 100 µs. LOOP_PERIOD with its period's input on a powered bent runs the
shared period 160 ns after the loop instant, and without one applies the commits of a slice that runs no law;
LOOP_DAC_WRITE moves the holding register to the DAC at the instant due for it. LOOP_COMMIT0 and LOOP_COMMIT1 mark the
bank's commit, LAW_HANDOVER writes LAW, LOOP_REARM marks a tripped slice, on a reachable Tenon. SPX_EDGE on a powered
bent records a rising edge at the next TCLK edge, and at a falling one the pulse's width. -/
def Obligations.LoopSliceRunsItsLaw : Prop :=
  ∀ (s : State) (t : Nat) (tn : Fin 6) (b : Fin 16),
    let u := s.at_ t
    let i := bentIx tn.val b.val
    let x := u.loop i
    (u.on F.LOOP_CTRL_RUN i = true → u.rd F.BENT_CTRL_USE i = 2 → (u.bent i).user = 2 → x.running = false →
      x.tripped = false → u.bentOn tn.val b.val = true → u.loopBoundary tn.val b.val u.now = true →
      exec (.loopStart t tn b) s = .next (u.setLoop i { x with
        running := true, tripped := false, rearm := false, fresh := true, hand := true, law0 := {}, law1 := {},
        feAcc := 0, resAcc := 0, slewing := false, sat := false, excLim := false, telCnt := 0, u := 0 })) ∧
    (x.running = true ∨ x.tripped = true → u.on F.LOOP_CTRL_RUN i = false ∨ u.rd F.BENT_CTRL_USE i ≠ 2 →
      u.loopBoundary tn.val b.val u.now = true →
      exec (.loopStop t tn b) s = .next (u.loopStop tn.val b.val) ∧
      ((u.bent i).useRamp = none → u.loopStop tn.val b.val = u.setLoop i { x with
        running := false, tripped := false, fresh := false, hand := false, rearm := false, slewing := false
        reg := 0, dacDue := none, down := some (u.now + 100 * usF) })) ∧
    (∀ p, x.ready = some p → u.bentOn tn.val b.val = true →
      (u.now = p.at_ + 256 * tickF → exec (.loopPeriod t tn b) s = .next (u.loopPeriod tn.val b.val p)) ∧
      (u.now ≠ p.at_ + 256 * tickF → exec (.loopPeriod t tn b) s = .next u)) ∧
    (x.ready = none → x.running = false → x.tripped = false → u.bentOn tn.val b.val = true →
      exec (.loopPeriod t tn b) s = .next (u.loopCommits i)) ∧
    (u.rd F.BENT_CTRL_USE i = 2 → u.bentOn tn.val b.val = true →
      (x.dacDue = some u.now →
        exec (.loopDacWrite t tn b) s = .next (u.setLoop i { x with dac := x.reg, dacDue := none, down := none })) ∧
      (x.dacDue ≠ some u.now → exec (.loopDacWrite t tn b) s = .next u)) ∧
    (u.reachable tn.val = true →
      exec (.loopCommit0 t tn b) s = .next (u.setLoop i { x with commit0 := true }) ∧
      exec (.loopCommit1 t tn b) s = .next (u.setLoop i { x with commit1 := true }) ∧
      (∀ law, exec (.lawHandover t tn b law) s = .next (u.wr F.LOOP_CTRL_LAW i (b2n law))) ∧
      (x.tripped = true → exec (.loopRearm t tn b) s = .next (u.setLoop i { x with rearm := true })) ∧
      (x.tripped = false → exec (.loopRearm t tn b) s = .next u)) ∧
    (u.bentOn tn.val b.val = true →
      let e := ceilDiv u.now tickF * tickF
      exec (.spxEdge t tn b true) s = .next (u.setLoop i { x with spxEdges := x.spxEdges ++ [e], spxRise := some e }) ∧
      (∀ r, x.spxRise = some r → exec (.spxEdge t tn b false) s =
        
        .next (u.setLoop i { x with spxRise := none, spxWidth := (e - r) / tickF, spxEnd := some e, spxLost := false })))

/-- For the fast stream between quad words, the decimated stream, the scanner stream, a stamp stream, an interval
stream, the frequency stream and the telemetry stream: when the stream's open record was opened at least its timeout
ago, the timeout command closes and sends it without STOP; in the fast stream with a quad word begun it marks the
block to close with that word. Before that it changes nothing but the instant. -/
def Obligations.OpenRecordsCloseAtTheirTimeouts : Prop :=
  ∀ (s : State) (t : Nat) (tn : Fin 6),
    let u := s.at_ t
    (∀ c : Fin 128,
      (u.dueAfter (fsSid tn.val c.val) (u.rd F.REC_FS_FS_TIMEOUT (chIx tn.val c.val) * msF) = true →
        exec (.fsBlockTimeout t tn c) s = .next
          (if (u.chan (chIx tn.val c.val)).fsQuad = [] then u.closeStream (fsSid tn.val c.val) false
           else u.setChan (chIx tn.val c.val) { u.chan (chIx tn.val c.val) with fsClosing := true })) ∧
      (u.dueAfter (decSid tn.val c.val) (u.rd F.REC_DEC_DEC_TIMEOUT (chIx tn.val c.val) * msF) = true →
        exec (.decBlockTimeout t tn c) s = .next (u.closeStream (decSid tn.val c.val) false)) ∧
      (u.dueAfter (decSid tn.val c.val) (u.rd F.REC_DEC_DEC_TIMEOUT (chIx tn.val c.val) * msF) = false →
        exec (.decBlockTimeout t tn c) s = .next u)) ∧
    (∀ b : Fin 16,
      (u.dueAfter (scanSid tn.val b.val) (u.rd F.BENT_REC_REC_TIMEOUT (bentIx tn.val b.val) * msF) = true →
        exec (.scanRecordTimeout t tn b) s = .next (u.closeStream (scanSid tn.val b.val) false)) ∧
      (u.dueAfter (telSid tn.val b.val) (u.rd F.TEL_REC_REC_TIMEOUT (bentIx tn.val b.val) * msF) = true →
        exec (.telemetryRecordTimeout t tn b) s = .next (u.closeStream (telSid tn.val b.val) false))) ∧
    (∀ k : Fin 4, u.dueAfter (stampSid tn.val k.val) (u.rd F.ST_BATCH_BATCH_TIMEOUT (4 * tn.val + k.val) * usF) = true →
      exec (.stampBatchTimeout t tn k) s = .next (u.closeStream (stampSid tn.val k.val) false)) ∧
    (∀ k : Fin 16, u.dueAfter (intSid tn.val k.val) (u.rd F.INT_CFG_REC_TIMEOUT (intIx tn.val k.val) * msF) = true →
      exec (.intervalRecordTimeout t tn k) s = .next (u.closeStream (intSid tn.val k.val) false)) ∧
    (u.dueAfter (freqSid tn.val) (u.rd F.REG_REC_REC_TIMEOUT tn.val * msF) = true →
      exec (.freqRecordTimeout t tn) s = .next (u.closeStream (freqSid tn.val) false))

/-- At a whole 1/16 s outside BOOT, a follower sends PLUMB_REQ on its parent port, keeps the number, the departure's
Plumb time at the TX balls and instant, and advances the port's number modulo 65,536. PLUMB_REQ received outside BOOT
is answered on its port with PLUMB_RSP: the number, HOPS, STATE, GM_ID, the arrival time at the RX balls and the
departure time at the TX balls. (The loopback readings that move both times are taken anew, and are free values: log
entry 107.) EXCHANGE_TIMEOUT 1 ms after a request counts the exchange as missed, and so does a response with another
number. PPS_MISSING, 1.1 s after the last PPS of a grandmaster that watches for one, ends the watch, sets PPS_LOST and
enters HOLDOVER. A PPS edge of the other polarity does nothing. ROLE_CHANGE runs the shared change, and PLUMB_NOW_READ
latches the Plumb time's fine units, ticks and seconds. -/
def Obligations.PlumbExchangesAndPulses : Prop :=
  ∀ (s : State) (t : Nat) (p : Fin 8),
    let u := s.at_ t
    (u.poAsserted = false → u.mode ≠ mBoot →
      (u.on F.PLUMB_CTRL_ROLE 0 = false → u.rd F.PLUMB_CTRL_PARENT 0 = p.val →
        u.plumbNow % (100000000 * (tickF : Int)) = 0 → ∀ dep : Nat,
        let v := u.latRead p.val
        let a := max dep v.now
        exec (.plumbReqSend t (p, dep)) s = .next
          (({ v with plumb := { v.plumb with
            seqNo := smapSet 0 v.plumb.seqNo p.val ((smapGet 0 u.plumb.seqNo p.val + 1) % 65536)
            req := smapSet none v.plumb.req p.val
              (some (smapGet 0 u.plumb.seqNo p.val, (a : Int) + v.plumbOff + (v.rd F.PLUMB_LAT_TX_LAT p.val : Int), a)) } } :
            State).sendLocal (v.portBase + p.val) frPlumbReq [smapGet 0 u.plumb.seqNo p.val])) ∧
      (∀ (q : BitVec 16) t3,
        let v := u.latRead p.val
        exec (.plumbReq t p q t3) s = .next
        (v.sendLocal (v.portBase + p.val) frPlumbRsp (rspWords q.toNat (v.rd F.PLUMB_STATUS_HOPS 0) v.plumbState
          (v.rd F.PLUMB_CTRL_GM_ID 0) (plumbWord ((v.now : Int) + v.plumbOff - (v.rd F.PLUMB_LAT_RX_LAT p.val : Int)))
          (plumbWord ((max t3 v.now : Nat) + v.plumbOff + (v.rd F.PLUMB_LAT_TX_LAT p.val : Int)))))) ∧
      (∀ fall, fall ≠ u.on F.PLUMB_CTRL_PPS_POL 0 → exec (.ppsEdge t fall) s = .next u)) ∧
    (∀ n t1 sent, smapGet none u.plumb.req p.val = some (n, t1, sent) →
      (sent + msF ≤ u.now → exec (.exchangeTimeout t p) s = .next (u.exchangeMissed p.val)) ∧
      (∀ q hops st gm t2 t3 fr, BitVec.toNat q ≠ n →
        exec (.plumbRsp t p q hops st gm t2 t3 fr) s = .next (u.exchangeMissed p.val))) ∧
    (u.on F.PLUMB_CTRL_ROLE 0 = true → u.plumb.ppsWatch = true → u.plumb.lastPps + 1100 * msF ≤ u.now →
      exec (.ppsMissing t) s = .next
        (({ u with plumb := { u.plumb with ppsWatch := false } } : State).plumbStick F.PLUMB_STATUS_PPS_LOST).holdover) ∧
    (∀ r, exec (.roleChange t r) s = .next (u.setRole r)) ∧
    exec (.plumbNowRead t) s = .next
      (((u.wr F.PLUMB_NOW_FINE 0 (plumbWord u.plumbNow % 2 ^ 9)).wr F.PLUMB_NOW_TICK 0
        (plumbWord u.plumbNow / 2 ^ 9 % 2 ^ 31)).wr F.PLUMB_NOW_SEC 0 (plumbWord u.plumbNow / 2 ^ 40))

/-- A PPS edge of the selected polarity on a grandmaster outside BOOT stamps the Plumb time in sixteenths of a
fine-unit word, takes the difference from NEXT_SEC less PPS_DLY, advances NEXT_SEC, and after the first pulse and
outside HOLDOVER filters the difference into the offset and corrects the servo. A valid PLUMB_RSP with STATE 2 or 4 on
the port in use, which stays in use, clears the request, notes the port valid with a longer run, writes HOPS and hands
half of the two differences less ASYM to the servo, with the frequency loop's new steering. (The filter and the
frequency loop are the open functions of log entry 6.) -/
def Obligations.GrandmasterFollowsPps : Prop :=
  ∀ (s : State) (t : Nat),
    let u := s.at_ t
    (∀ fall, u.poAsserted = false → u.mode ≠ mBoot → u.on F.PLUMB_CTRL_ROLE 0 = true →
      fall = u.on F.PLUMB_CTRL_PPS_POL 0 → u.plumb.gmFirst = true → u.plumbState ≠ psHoldover →
      let next := u.rd F.PLUMB_GM_SEC_NEXT_SEC 0
      let th := nearTime (u.plumbNow / 16 * 16 - (u.rd F.PLUMB_PPS_PPS_DLY 0 : Int) - (next : Int) * (secF : Int))
      let v := u.wr F.PLUMB_GM_SEC_NEXT_SEC 0 (next + 1)
      exec (.ppsEdge t fall) s = .next
        (({ v with plumb := { v.plumb with
            gmFirst := true, ppsWatch := true, lastPps := v.now
            filt := Config.plumbFilter (v.rd F.PLUMB_SERVO_PHASE_TC 0) v.plumb.filt th } } : State).correct none)) ∧
    (∀ (p : Fin 8) (q : BitVec 16) (hops : BitVec 8) (st : BitVec 3) (gm : BitVec 16) (t2 t3 : BitVec 80) (ph : List Int) t1 sent,
      smapGet none u.plumb.req p.val = some (q.toNat, t1, sent) → u.now ≤ sent + msF →
      gm.toNat = u.rd F.PLUMB_CTRL_GM_ID 0 → hops.toNat ≤ 30 → st.toNat = 2 ∨ st.toNat = 4 →
      u.on F.PLUMB_CTRL_ROLE 0 = false →
      let v := ({ u with plumb := { u.plumb with
        req := smapSet none u.plumb.req p.val none
        valid := smapSet 0 u.plumb.valid p.val 2
        run := smapSet 0 u.plumb.run p.val (u.portRun p.val + 1) } } : State).followPort
      p.val = v.rd F.PLUMB_STATUS_PORT_NOW 0 →
      let r := v.latRead p.val
      let w := r.wr F.PLUMB_STATUS_HOPS 0 (hops.toNat + 1)
      exec (.plumbRsp t p q hops st gm t2 t3 ph) s = .next
        (({ w with plumb := { w.plumb with missed := 0 } } : State).servo
          (rhu (nearTime ((r.now : Int) + r.plumbOff - (r.rd F.PLUMB_LAT_RX_LAT p.val : Int) - plumbOfWord t3.toNat)
            - nearTime (plumbOfWord t2.toNat - t1) - r.rdS F.PLUMB_ASYM_ASYM p.val) 1) (Config.phaseLoop r.plumb.freq ph)))

/-- PLUMB_STEP at a decided step's instant, and at no other, moves the Mortise's Plumb time and the filtered offset by
the step, moves every reachable loaded Tenon with what a step does there, writes LAST_STEP and counts it, goes on to
the STATE decided, and sets STEP. At a whole second, TENON_COUNTER_CHECK of a reachable loaded Tenon shifts its
counter's offset by the slip and asks for a reload exactly when it differs from the Mortise's; TENON_RELOAD at the
next whole second then sets it to the Mortise's, with what a step does, and sets TENON_SLIP. -/
def Obligations.PlumbStepsAndTenonCounters : Prop :=
  ∀ (s : State) (t : Nat),
    let u := s.at_ t
    (∀ (n : Int) due after, u.plumb.step = some (n, due, after) → u.now ≠ due → exec (.plumbStep t) s = .next u) ∧
    (∀ (n : Int) due after, u.plumb.step = some (n, due, after) → u.now = due →
      let d : Int := n * (tickF : Int)
      let v := (List.range 6).foldl (fun (v : State) k =>
          if v.reachable k && (v.tenon k).loaded then
            (v.setTenon k { v.tenon k with
              off := (v.tenon k).off + d, reloadFrom := (v.tenon k).reloadFrom.map (fun _ => v.now) }).stepEffects k
          else v)
        { u with plumbOff := u.plumbOff + d, plumb := { u.plumb with step := none, filt := u.plumb.filt + d } }
      let w := (v.wr F.PLUMB_STEPLOG_LAST_STEP 0 (satWord 32 n)).countUp F.PLUMB_STEPLOG_STEP_COUNT 0 1 65535
      exec (.plumbStep t) s = .next (((match after with | none => w | some st => w.setPlumbState st).plumbStick
        F.PLUMB_STATUS_STEP).steer)) ∧
    (∀ tn : Fin 6, u.reachable tn.val = true → (u.tenon tn.val).loaded = true → u.plumbNow % (secF : Int) = 0 →
      (∀ slip : Int, exec (.tenonCounterCheck t tn slip) s = .next (u.setTenon tn.val { u.tenon tn.val with
        off := (u.tenon tn.val).off + slip * (tickF : Int)
        reloadFrom := if (u.tenon tn.val).off + slip * (tickF : Int) = u.plumbOff then none else some u.now })) ∧
      (∀ a, (u.tenon tn.val).reloadFrom = some a →
        (a < u.now → u.now ≤ a + secF → exec (.tenonReload t tn) s = .next
          (((u.setTenon tn.val { u.tenon tn.val with off := u.plumbOff, reloadFrom := none }).stepEffects tn.val).plumbStick
            F.PLUMB_STATUS_TENON_SLIP)) ∧
        (u.now = a → exec (.tenonReload t tn) s = .next u)))

/-- SINGLE_EVENT_UPSET at a word that its memory holds flips the bits of the mask in the stored word (65 bits in the
shim buffer, 80 elsewhere), and at any other word changes nothing. ECC_WRITEBACK of a word that waits for it writes
back the word as the decoder corrected it. QUEUE_RESUME of a queue that is not halted changes nothing; of a halted one
it clears HALTED first and looks at the packet that stopped it, so a halted queue without such a packet resumes with
that alone; where the packet's link entries and its header can be read, a loss record of one record with cause 3 takes
the packet's place in its first cell and its other cells are freed; where the header cannot, the packet and its cells
go and HDR_LOST is set. CELL_MIGRATE and PRODUCER_RESUME run the shared migration and the producers' writes. -/
def Obligations.ProtectedMemoriesAreServed : Prop :=
  ∀ (s : State) (t : Nat),
    let u := s.at_ t
    (∀ (m : Fin 48) a (x : BitVec 80),
      (u.memHas m.val a = true → exec (.singleEventUpset t m a x) s = .next
        { u with pool := { u.pool with
          flips := smapSet 0 u.pool.flips (flipKey m.val a)
            (smapGet 0 u.pool.flips (flipKey m.val a) ^^^ (if m.val = memShim then x.toNat % 2 ^ 65 else x.toNat)) } }) ∧
      (u.memHas m.val a = false → exec (.singleEventUpset t m a x) s = .next u) ∧
      (u.pool.wb.contains (flipKey m.val a) = true →
        exec (.eccWriteback t m a) s = .next (u.memCorrected m.val a))) ∧
    (∀ q : Fin 4096,
      (s.on F.QSTAT_HALTED q.val = false → exec (.queueResume q) s = .next s) ∧
      (s.on F.QSTAT_HALTED q.val = true → (s.queue q.val).pkts[(s.queue q.val).taken]? = none →
        exec (.queueResume q) s = .next (s.wr F.QSTAT_HALTED q.val 0)) ∧
      (∀ p, s.on F.QSTAT_HALTED q.val = true → (s.queue q.val).pkts[(s.queue q.val).taken]? = some p →
        let w := s.wr F.QSTAT_HALTED q.val 0
        let x := s.queue q.val
        let r := p.rec_
        let c0 := p.cells.headD 0
        (∀ c ∈ p.cells, (w.memLook memLink c 0).2 = true) →
        ((w.cellWords c0 0 ((r.words (s.rd F.FAB_NODE_ID 0)).take 4)).2.1 = true →
          exec (.queueResume q) s = .next
            ((({ w with pool := w.pool.cellFresh c0 } : State).setQueue q.val { x with
              pkts := x.pkts.take x.taken ++ { rec_ := lossRec r.stream r.die {
                count := 1, flags := r.flags, seq := r.seq, time := r.time, bent := r.bent, channel := r.channel,
                epoch := r.epoch, cause := 3, lastTime := r.time, node := r.node }, cells := [c0] } ::
                x.pkts.drop (x.taken + 1) }).freeCellsOf (p.cells.drop 1))) ∧
        ((w.cellWords c0 0 ((r.words (s.rd F.FAB_NODE_ID 0)).take 4)).2.1 = false →
          exec (.queueResume q) s = .next
            (((w.setQueue q.val { x with pkts := x.pkts.take x.taken ++ x.pkts.drop (x.taken + 1) }).freeCellsOf
              p.cells).queueStick F.QEV_STATUS_HDR_LOST 2
              (q.val + (let l := w.memRead memLink c0 (w.linkEntry c0)
                if l.2.1 then bitsAt l.1 32 16 else 0xFFFF) * 2 ^ 16))))) ∧
    exec (.cellMigrate t) s = .next u.cellMigrate ∧
    exec (.producerResume t 0) s = .next (u.pumpEvents u.pool.evs.length) ∧
    (∀ p : Fin 256, p.val ≠ 0 →
      exec (.producerResume t p) s =
        .next ((u.pump p.val (((u.prod p.val).waiting.length + 1) * 130)).resumed p.val))

/-- A started SCRUB of a memory that can be reached joins the scrubs under way with its first word and count, and of
any other completes at once with DONE. SCRUB_DONE of a ring's scrub writes its summary to host memory unless the
address is 0 and completes with the count. A started BANK_REPAIR completes with BUSY and the spares used while another
repair runs, and a query (action 2) completes at once with the spares used. BANK_REPAIR_DONE of a repair in test
completes its descriptor with DONE or FAILED. -/
def Obligations.ScrubAndRepairDescriptors : Prop :=
  ∀ (s : State) (t : Nat) (sq : Fin 256) (j : Job),
    let u := s.at_ t
    (Started u sq.val 0x20 j →
      ((u.setJob j).memReach (bitsAt (j.w 1) 0 8) = true → exec (.scrub t sq) s = .next
        { u.setJob j with pool := { (u.setJob j).pool with
          scrubs := (u.setJob j).pool.scrubs ++
            [{ job := j.id, mem := bitsAt (j.w 1) 0 8, first := bitsAt (j.w 2) 0 23, count := bitsAt (j.w 3) 0 32 }] } }) ∧
      ((u.setJob j).memReach (bitsAt (j.w 1) 0 8) = false →
        exec (.scrub t sq) s = .next ((u.setJob j).commit j stDone 0))) ∧
    (∀ x, u.pool.scrubs.find? (fun x => (u.job x.job).any (fun j => j.sq == sq.val)) = some x → u.job x.job = some j →
      let r := u.scrubEnd x (u.scrubCount x)
      exec (.scrubDone t sq) s = .next
        ((if addr8 (j.w 4) = 0 then r.2 else r.2.hostPut rkJob j.sq j.slot (addr8 (j.w 4)) r.1).commit j stDone
          (r.1.getD 1 0 / 2 ^ 32))) ∧
    (Started u sq.val 0x21 j →
      let act := if bitsAt (j.w 1) 8 2 = 3 then 0 else bitsAt (j.w 1) 8 2
      let r := (u.setJob j).repairStart j.id (bitsAt (j.w 1) 0 4) act (bitsAt (j.w 1) 16 9)
      (r.1 = false → exec (.bankRepair t sq) s = .next (r.2.commit j stBusy (r.2.sparesUsed (bitsAt (j.w 1) 0 4)))) ∧
      (r.1 = true → act = 2 →
        exec (.bankRepair t sq) s = .next (r.2.commit j stDone (r.2.sparesUsed (bitsAt (j.w 1) 0 4)))) ∧
      (r.1 = true → act ≠ 2 → exec (.bankRepair t sq) s = .next r.2)) ∧
    (∀ ok r good v, u.repairDone ok = (some (r, good), v) → v.job r.job = some j →
      exec (.bankRepairDone t ok) s = .next (v.commit j (if good then stDone else stFailed) (v.sparesUsed r.bank)))

/-- SEIF_RECORD_TAKE of an enabled, idle engine that is not due a job takes the next packet of the queues it reads,
which becomes its work. SEIF_COMPRESS adds its descriptor to the jobs of its engine and fetches the first block of the
source; SEIF_DECOMPRESS adds its own to the decompressor's. SEIF_BLOCK_DONE of an engine with a record in work settles
the record when its output is being written and otherwise codes its next block; of the decompressor with a job ready
it decodes a block. -/
def Obligations.SeifEnginesTakeAndCode : Prop :=
  ∀ (s : State) (t : Nat),
    let u := s.at_ t
    (∀ (e : Fin 2) q r ws v, u.on F.SEIF_CTRL_EN e.val = true → (u.seifEng e.val).work = none →
      (u.seifEng e.val).lastJob = true ∨ u.seifReady e.val = false → u.readerPick 3 e.val = some q →
      u.takePkt q = (some (r, ws), v) → exec (.seifRecordTake t e) s = .next
        ((v.readerTook 3 e.val q).setSeif e.val { u.seifEng e.val with
          lastJob := false
          work := some { queue := q, rec_ := { r with flags := bitsAt (ws.headD 0) 8 8, body := ws.drop 4 } } })) ∧
    (∀ (sq : Fin 256) j, Started u sq.val 0x30 j →
      let e := bitsAt (j.w 1) 0 1
      let v := u.setJob j
      exec (.seifCompress t sq) s =
        .next ((v.setSeif e { v.seifEng e with jobs := (v.seifEng e).jobs ++ [j.id] }).seifFetch j)) ∧
    (∀ (sq : Fin 256) j, Started u sq.val 0x31 j →
      let v := u.setJob j
      exec (.seifDecompress t sq) s =
        .next ((v.setSeif 2 { v.seifEng 2 with jobs := (v.seifEng 2).jobs ++ [j.id] }).unseifNext)) ∧
    (∀ (e : Fin 3) w, e.val ≠ 2 → (u.seifEng e.val).work = some w → exec (.seifBlockDone t e) s =
      .next (if w.output then u.seifSettle e.val else u.seifRecordBlock e.val w)) ∧
    (∀ j, u.seifJob 2 = some j → j.stage = sjReady → exec (.seifBlockDone t 2) s = .next (u.unseifBlock j))

/-- DESCRIPTOR_FETCH fetches from the submission ring whose turn it is. The next descriptor of a ring, once started,
does what its opcode says: NOP completes with DONE; an opcode that does not exist completes with BAD_OPCODE;
CAPTURE_ARM, CAPTURE_STOP, CAPTURE_READ, TRIGGER_AT, PULSE_AT and SYNC_AT run their shared action at once when nothing
is journaled, and otherwise wait in the journal; ABORT runs the shared abort. SEGMENT_RECORD_ENQUEUE of a channel with
no CAPTURE_READ segment finished runs the shared readout step, and completes a read whose words could not be used with
UNCORRECTABLE. -/
def Obligations.DescriptorsRunAtTheirTurn : Prop :=
  ∀ (s : State) (t : Nat) (sq : Fin 256),
    let u := s.at_ t
    (∀ i, u.poAsserted = false → u.fetchPick = some i →
      exec (.descriptorFetch t) s = .next (u.descFetch i (u.fetchable i))) ∧
    (∀ j, Started u sq.val 0x00 j → exec (.nopDescriptor t sq) s = .next ((u.setJob j).commit j stDone 0)) ∧
    (∀ j, u.nextDesc sq.val = some j → opcodes.contains j.op = false →
      exec (.badOpcode t sq) s = .next (u.commit j stBadOpcode 0)) ∧
    (∀ j, let v := u.setJob j
      v.journaling = false →
        (Started u sq.val 0x10 j → exec (.captureArm t sq) s = .next (j.runArm v)) ∧
        (Started u sq.val 0x11 j → exec (.captureStop t sq) s = .next (j.runStop v)) ∧
        (Started u sq.val 0x12 j → exec (.captureRead t sq) s = .next (j.runRead v)) ∧
        (Started u sq.val 0x13 j → exec (.triggerAt t sq) s = .next (j.runTrigger v)) ∧
        (Started u sq.val 0x14 j → exec (.pulseAt t sq) s = .next (j.runPulse v)) ∧
        (Started u sq.val 0x15 j → exec (.syncAt t sq) s = .next (j.runSync v))) ∧
    (∀ j, Started u sq.val 0x10 j → (u.setJob j).journaling = true →
      exec (.captureArm t sq) s = .next ((u.setJob j).journal (.run j.id))) ∧
    (∀ j, u.jobs.find? (fun j => j.sq == sq.val && j.started && j.op == 0x01) = none → Started u sq.val 0x01 j →
      exec (.abort t sq) s = .next ((u.setJob j).abort j)) ∧
    (∀ (tn : Fin 6) (c : Fin 128) r v, (u.readSettle (chIx tn.val c.val)).segStep tn.val c.val = (r, v) →
      (r = none → exec (.segmentRecordEnqueue t tn c) s = .next v) ∧
      (∀ id done j, r = some (id, done, true) → v.job id = some j →
        exec (.segmentRecordEnqueue t tn c) s = .next (v.commit j stUncorrectable j.prog)))

/-- A doorbell write with other than all four bytes (eight for a whole remote doorbell) only sets BAD_ACCESS, and one
while the host interface is off does nothing; otherwise SQ_TAIL, CQ_HEAD, RR_TAIL and REMOTE_DB act on their page at
once when nothing is journaled. RING_ENABLE of a disabled ring that exists forgets the ring's own reads, puts a
completion ring's unacknowledged entries back into the engine, starts it empty, sets EN and clears HALTED and CAUSE;
RING_DISABLE of a submission or completion ring clears EN. COMPLETION_IRQ_TIMER, TIME µs after the first unsignalled
entry, signals the vector and forgets the entries. RECORD_BUFFER_FLUSH, FLUSH µs after a buffer's first record, closes
it. COMPLETION_ENTRY_WRITE and RECORD_RING_TAKE run the shared steps. -/
def Obligations.DoorbellsAndRings : Prop :=
  ∀ (s : State) (t : Nat),
    let u := s.at_ t
    (∀ (p : Fin 256) (v : BitVec 32), u.hostIfOn = true → u.journaling = false →
      exec (.sqTail t p 15 v) s = .next (u.bellNow (p.val * 4096) 0 v.toNat) ∧
      exec (.cqHead t p 15 v) s = .next (u.bellNow (p.val * 4096 + 8) 0 v.toNat) ∧
      (∀ j : Fin 4, exec (.rrTail t p j 15 v) s = .next (u.bellNow (p.val * 4096 + 0x10 + j.val * 8) 0 v.toNat)) ∧
      (∀ w : BitVec 64, exec (.remoteDb t p 0 255 w) s = .next (u.bellNow (p.val * 4096 + 0x800) 0 w.toNat))) ∧
    (∀ (p : Fin 256) (be : BitVec 4) (v : BitVec 32), be ≠ 15 →
      exec (.sqTail t p be v) s = .next (u.wr F.ID_STATUS_BAD_ACCESS 0 1) ∧
      exec (.cqHead t p be v) s = .next (u.wr F.ID_STATUS_BAD_ACCESS 0 1)) ∧
    (∀ (k : Fin 3) (r : Fin 1024), ringExists k.val r.val = true →
      (u.on F.RING_CFG_EN (ringIx k.val r.val) = false →
        let v := u.dropReads (fun x => x.ofRing k.val r.val)
        let w := if k.val = rkComp then v.entriesBack r.val else v
        exec (.ringEnable t k r) s = .next ((((w.setRing k.val r.val {}).wr F.RING_CFG_EN
          (ringIx k.val r.val) 1).wr F.RING_ERR_HALTED (ringIx k.val r.val) 0).wr F.RING_ERR_CAUSE (ringIx k.val r.val) 0)) ∧
      (u.on F.RING_CFG_EN (ringIx k.val r.val) = true → k.val ≠ rkRec →
        exec (.ringDisable t k r) s = .next (u.wr F.RING_CFG_EN (ringIx k.val r.val) 0))) ∧
    (∀ (r : Fin 256) a, (u.ring rkComp r.val).firstAt = some a → u.on F.RING_COAL_IRQ_EN (ringIx rkComp r.val) = true →
      a + u.rd F.RING_COAL_TIME (ringIx rkComp r.val) * usF ≤ u.now → exec (.completionIrqTimer t r) s = .next
        ((u.setRing rkComp r.val { u.ring rkComp r.val with unsig := 0, firstAt := none }).signal
          (u.rd F.RING_CFG_VECTOR (ringIx rkComp r.val)))) ∧
    (∀ (r : Fin 1024) b, (u.ring rkRec r.val).buf = some b → u.ringOn rkRec r.val = true →
      u.compBlocked (u.boundTo rkRec r.val) = false → b.since + u.rd F.RING_FLUSH_FLUSH (ringIx rkRec r.val) * usF ≤ u.now →
      exec (.recordBufferFlush t r) s = .next (u.recClose r.val)) ∧
    (∀ r : Fin 256, exec (.completionEntryWrite t r) s = .next (u.entryWrite r.val)) ∧
    (∀ r : Fin 1024, exec (.recordRingTake t r) s = .next (u.recTake r.val))

/-- MSIX_UNMASK clears the vector's mask bit and, when its PBA bit was set, clears that and writes the vector.
PROXY_PCIE_ISSUE issues one waiting read; a completion for a read of this node's own that is in flight delivers its
words to the read's part, and one with an error fails the part. HOST_WRITE_RESEND looks at every unacknowledged write,
RESEND_HOLD_EXPIRY drops the holds that are over and sends what waited for them, PROXY_TIMEOUT_RETRY retries reads and
completes descriptors without reply. DOORBELL_RESEND_TIMEOUT sends a doorbell again up to twice, with a hold on its
page. HOST_RESET and PERST of the die that acts run the shared reset, and of the other die nothing. -/
def Obligations.GatewayTrafficIsResent : Prop :=
  ∀ (s : State) (t : Nat),
    let u := s.at_ t
    (∀ v : Fin 2048,
      let m := u.setMsix v.val 3 (u.msixWord v.val 3 - u.msixWord v.val 3 % 2)
      (smapGet 0 m.pba v.val = 1 → exec (.msixUnmask t v) s =
        .next (({ m with pba := smapSet 0 m.pba v.val 0 } : State).writeVector v.val)) ∧
      (smapGet 0 m.pba v.val ≠ 1 → exec (.msixUnmask t v) s = .next m)) ∧
    exec (.proxyPcieIssue t) s = .next (u.pcieIssue 1) ∧
    (∀ (tag : BitVec 10) (d : List (BitVec 64)) r g k,
      u.pcieReads.find? (fun r => r.tag == some tag.toNat) = some r → r.own = some (g, k) →
      let v := ({ u with pcieReads := u.pcieReads.filter (fun x => x != r) } : State).pcieIssue 1
      let got := r.got ++ (d.map BitVec.toNat).take (r.asked - r.got.length)
      (r.words ≤ r.asked → exec (.pcieReadCompletion t tag false d) s = .next (v.partDone g k got)) ∧
      (r.asked < r.words → exec (.pcieReadCompletion t tag false d) s = .next (({ u with
        pcieReads := u.pcieReads.map (fun x => if x = r then { r with tag := none, got := got } else x) } : State).pcieIssue 1)) ∧
      exec (.pcieReadCompletion t tag true d) s = .next (v.partFailed g 1)) ∧
    exec (.hostWriteResend t) s = .next (u.fabWrites.foldl (fun v w => v.writeRetry w) u) ∧
    (let v := ({ u with holds := u.holds.filter (fun h => decide (u.now < h.until_)) } : State);
      exec (.resendHoldExpiry t) s = .next
        ((u.holds.filter (fun h => decide (h.until_ ≤ u.now))).foldl
          (fun w h => match h.page with | none => w | some p => w.bellSend p) (v.heldSend v.fabWrites.length))) ∧
    (let v := u.fabReads.foldl (fun v r => v.readRetry r) u;
      exec (.proxyTimeoutRetry t) s = .next
        ((v.jobs.filter (fun j => j.tag != 0 && decide (j.since + u.rd F.HR_GW_PROXY_TIMEOUT 0 * usF ≤ v.now))).foldl
          (fun w j => w.commit j stNoReply 0) v)) ∧
    (∀ (p : Fin 256) w tag tries since, (u.bell p.val).flight = some (w, tag, tries, since) →
      since + u.rd F.HR_GW_PROXY_TIMEOUT 0 * usF ≤ u.now → tries < 2 →
      let v : State := { u with holds := u.holds ++ [{
        addr := 0, bytes := 0, page := some p.val, until_ := u.now + u.rd F.HR_GW_PROXY_TIMEOUT 0 * usF }] }
      exec (.doorbellResendTimeout t p) s = .next
        ((v.setBell p.val { u.bell p.val with flight := some (w, tag, tries + 1, v.now) }).originate
          { dest := w % 2 ^ 16, vc := 1, ty := frDoorbell, tag := tag, words := [w] })) ∧
    (∀ die, b2n die = u.dx.die →
      exec (.hostReset t die) s = .next u.hostReset ∧ exec (.perst t die) s = .next u.hostReset) ∧
    (∀ die, b2n die ≠ u.dx.die → exec (.hostReset t die) s = .next u ∧ exec (.perst t die) s = .next u)

/-- For every unit of every Tenon that register writes reach, OR_COUNT_CLR, BENT_COUNT_CLR, DEC_SYNC_CLR,
CAP_COUNT_CLR, CAP_FAB_CLR, ST_COUNT_CLR, INT_COUNT_CLR, REG_COUNT_CLR and LOOP_COUNT_CLR complete; after each the
named counts of the named unit read 0, every other register field of every unit reads as before, and nothing but
registers differs. Where the Tenon is not reached, the state is unchanged. -/
def Obligations.TenonCountsClearAlone : Prop :=
  ∀ (s : State) (tn : Fin 6),
    (s.reachable tn.val = true →
      (∀ c : Fin 128,
        (∃ t, exec (.orCountClr tn c) s = .next t ∧ RegsSet s t [(F.CH_OR_COUNT_OR_COUNT, chIx tn.val c.val, 0)]) ∧
        (∃ t, exec (.capCountClr tn c) s = .next t ∧
          RegsSet s t [(F.CAP_COUNT_BLIND, chIx tn.val c.val, 0), (F.CAP_COUNT_BUSY, chIx tn.val c.val, 0)]) ∧
        (∃ t, exec (.stCountClr tn c) s = .next t ∧
          RegsSet s t [(F.ST_COUNT_DEAD, chIx tn.val c.val, 0), (F.ST_COUNT_FIFO_OVF, chIx tn.val c.val, 0)])) ∧
      (∀ b : Fin 16,
        (∃ t, exec (.bentCountClr tn b) s = .next t ∧
          RegsSet s t [(F.BENT_COUNT_URGENT_DROPS, bentIx tn.val b.val, 0),
            (F.BENT_COUNT_PASS_SKIPS, bentIx tn.val b.val, 0)]) ∧
        (∃ t, exec (.loopCountClr tn b) s = .next t ∧
          RegsSet s t [(F.LOOP_COUNT_HELD_PERIODS, bentIx tn.val b.val, 0), (F.LOOP_COUNT_TRIPS, bentIx tn.val b.val, 0)]) ∧
        (∃ t, exec (.intCountClr tn b) s = .next t ∧
          RegsSet s t [(F.INT_CFG_EARLY_STOP, intIx tn.val b.val, 0), (F.INT_CFG_OUT_WINDOW, intIx tn.val b.val, 0)])) ∧
      (∀ r : Fin 32, ∃ t, exec (.regCountClr tn r) s = .next t ∧
        RegsSet s t [(F.REG_COUNT_BUSY, regIx tn.val r.val, 0), (F.REG_COUNT_IGNORED, regIx tn.val r.val, 0)]) ∧
      (∃ t, exec (.decSyncClr tn) s = .next t ∧ RegsSet s t [(F.DEC_SYNC_STAT_LATE_COUNT, tn.val, 0)]) ∧
      (∃ t, exec (.capFabClr tn) s = .next t ∧ RegsSet s t [(F.CAP_FAB_FAB_LATE, tn.val, 0)])) ∧
    (s.reachable tn.val = false →
      (∀ c : Fin 128, exec (.orCountClr tn c) s = .next s ∧ exec (.capCountClr tn c) s = .next s ∧
        exec (.stCountClr tn c) s = .next s) ∧
      (∀ b : Fin 16, exec (.bentCountClr tn b) s = .next s ∧ exec (.loopCountClr tn b) s = .next s ∧
        exec (.intCountClr tn b) s = .next s) ∧
      (∀ r : Fin 32, exec (.regCountClr tn r) s = .next s) ∧
      exec (.decSyncClr tn) s = .next s ∧ exec (.capFabClr tn) s = .next s)

/-- STEPLOG_CLR, QDROP_CLR, MEM_ECC_CLR, SEIF_CNT_CLR, SEIF_DFAULT_CLR, LANE_CNT_CLR, LANE_BERT_CLR, FAB_DROP_CLR,
FAB_PCNT_CLR, HR_PROXY_CLR, DX_SCARF_CLR and DX_COUNT_CLR complete in every state; after each the counts that the
field clears read 0, every other register field of every unit reads as before, and nothing but registers differs.
(DX_COUNT_CLR of the active die clears both dies' copies: a mirrored register, the model's reading.) ZC_CYCLES_CLR
makes the count 0 and restarts the count of the cycles since. -/
def Obligations.MortiseCountsClearAlone : Prop :=
  ∀ (s : State),
    (∃ t, exec (.steplogClr) s = .next t ∧ RegsSet s t [(F.PLUMB_STEPLOG_STEP_COUNT, 0, 0)]) ∧
    (∀ q : Fin 4096, ∃ t, exec (.qdropClr q) s = .next t ∧
      RegsSet s t [(F.QDROP_DROPS, q.val, 0), (F.QSTAT_HIGH_WATER, q.val, 0)]) ∧
    (∀ m : Fin 48, ∃ t, exec (.memEccClr m) s = .next t ∧
      RegsSet s t [(F.MEM_ECC_SINGLE, m.val, 0), (F.MEM_ECC_DOUBLE, m.val, 0), (F.MEM_ECC_UNCORR, m.val, 0),
        (F.MEM_ECC_ADDR, m.val, 0), (F.MEM_ECC_BAD_VALID, m.val, 0)]) ∧
    (∀ e : Fin 2, ∃ t, exec (.seifCntClr e) s = .next t ∧
      RegsSet s t [(F.SEIF_CNT_IN_BYTES, e.val, 0), (F.SEIF_CNT_OUT_BYTES, e.val, 0), (F.SEIF_CNT_PACKED, e.val, 0),
        (F.SEIF_CNT_PASSED, e.val, 0)]) ∧
    (∃ t, exec (.seifDfaultClr) s = .next t ∧
      RegsSet s t [(F.SEIF_DFAULT_ILLEGAL, 0, 0), (F.SEIF_DFAULT_DISTANCE, 0, 0), (F.SEIF_DFAULT_OVERRUN, 0, 0),
        (F.SEIF_DFAULT_BADCHK, 0, 0)]) ∧
    (∀ l : Fin 8,
      (∃ t, exec (.laneCntClr l) s = .next t ∧
        RegsSet s t [(F.LANE_CNT_HDR_ERR, l.val, 0), (F.LANE_CNT_TI_ERRS, l.val, 0), (F.LANE_CNT_DOWNS, l.val, 0)]) ∧
      (∃ t, exec (.laneBertClr l) s = .next t ∧
        RegsSet s t [(F.LANE_BERT_BITS, l.val, 0), (F.LANE_BERT_ERRORS, l.val, 0)]) ∧
      (∃ t, exec (.fabPcntClr l) s = .next t ∧
        RegsSet s t [(F.FAB_PORT_REPLAYS, l.val, 0), (F.FAB_PORT_DISCARDS, l.val, 0), (F.FAB_PORT_CRC_ERRS, l.val, 0)])) ∧
    (∃ t, exec (.fabDropClr) s = .next t ∧
      RegsSet s t [(F.FAB_DROP_NO_ROUTE, 0, 0), (F.FAB_DROP_HOP, 0, 0), (F.FAB_DROP_DWELL, 0, 0),
        (F.FAB_DROP_BAD_TYPE, 0, 0)]) ∧
    (∃ t, exec (.hrProxyClr) s = .next t ∧ RegsSet s t [(F.HR_PROXY_HIGH_WATER, 0, 0)]) ∧
    (∀ d : Bool, ∃ t, exec (.dxScarfClr d) s = .next t ∧ RegsSet s t [(F.DX_SCARF_HOLD_MAX, b2n d, 0)]) ∧
    (∀ d : Bool,
      (b2n d = s.dx.die → ∃ t, exec (.dxCountClr d) s = .next t ∧
        RegsSet s t [(F.DX_COUNT_SWITCHES, 0, 0), (F.DX_COUNT_SWITCHES, 1, 0), (F.DX_COUNT_UNPLANNED, 0, 0),
          (F.DX_COUNT_UNPLANNED, 1, 0)]) ∧
      (b2n d ≠ s.dx.die → ∃ t, exec (.dxCountClr d) s = .next t ∧
        RegsSet s t [(F.DX_COUNT_SWITCHES, b2n d, 0), (F.DX_COUNT_UNPLANNED, b2n d, 0)])) ∧
    (∀ (t : Nat) (z : Fin 4), let u := s.at_ t
      exec (.zcCyclesClr t z) s =
        .next ((u.setZcore z.val { u.zcore z.val with runFrom := u.now }).wr F.ZC_CYCLES_COUNT z.val 0))

/-- LINK_INIT_TIMER at a DOWN port in use whose lanes are all ACTIVE or QUIET puts it in INIT and sends LINK_INIT.
LINK_INIT of a partner that is not STANDBY, received in INIT once the port has sent one after another came, brings the
port UP when the widths agree, with the partner's identity and credits taken, and otherwise sets WIDTH_MISMATCH; at a
DOWN port it changes nothing. FABRIC_PORT_DOWN of an UP port empties it, counts its unacknowledged frames in DISCARDS,
routes its waiting frames again and sets DOWN, with REROUTE where it held frames. -/
def Obligations.PortsComeUpAndGoDown : Prop :=
  ∀ (s : State) (t : Nat) (p : Fin 16),
    let u := s.at_ t
    let x := u.port p.val
    (u.portUsed p.val = true → u.lanesGood p.val = true → x.state = poDown →
      exec (.linkInitTimer t p) s =
        .next (((u.setPort p.val { state := poInit }).sendInit p.val).portTry p.val)) ∧
    (∀ node pp width die standby credits, x.state ≠ poInit → x.state ≠ poUp →
      exec (.linkInit t p node pp width die standby credits) s = .next u) ∧
    (∀ (node : BitVec 16) (pp : Fin 8) (width : BitVec 2) (die : Bool) (credits : BitVec 64),
      x.state = poInit → x.gotInit = true → x.sentAfter = true →
      let y := { x with
        peerNode := node.toNat, peerPort := pp.val, peerDie := b2n die, peerStandby := false, peerWidth := width.toNat
        credits := (List.range 4).map (fun v => bitsAt credits.toNat (16 * v) 16) }
      (width.toNat = u.rd F.FAB_PORT_WIDTH (p.val % 8) →
        exec (.linkInit t p node pp width die false credits) s =
          .next (((u.setPort p.val y).setPort p.val { y with state := poUp }).portPump p.val (y.waiting.length + 1))) ∧
      (width.toNat ≠ u.rd F.FAB_PORT_WIDTH (p.val % 8) →
        exec (.linkInit t p node pp width die false credits) s =
          .next ((u.setPort p.val y).portStick F.FAB_PORT_WIDTH_MISMATCH 2 p.val))) ∧
    (x.state = poUp → x.waiting = [] → x.unacked ≠ [] →
      exec (.fabricPortDown t p) s =
        .next ((((((u.setPort p.val { state := poDown, waiting := [] }).portCount F.FAB_PORT_DISCARDS p.val
          x.unacked.length).reroute p.val).portStick F.FAB_PORT_REROUTE 3 p.val).portStick F.FAB_PORT_DOWN 0 p.val))) ∧
    (x.state = poDown → exec (.fabricPortDown t p) s = .next u)

/-- LINK_CTL on an UP port drops the frames up to its ACK_SEQ from the replay buffer, clears the count of replays
where that is progress, adds the returned credits and sends what may go; with NAK the remaining frames are replayed
first. Ports that are not UP ignore it. LINK_CTL_TIMER on an UP port sends LINK_CTL. REPLAY_TIMEOUT replays when no
progress came within twice the round trip plus 2 µs. A frame in error on an UP port that has not asked yet sends NAK,
a CRC error counted; one of an unlisted type is taken, its credits returned and counted in BAD_TYPE. -/
def Obligations.LinkRetryReplaysInOrder : Prop :=
  ∀ (s : State) (t : Nat) (p : Fin 16),
    let u := s.at_ t
    let x := u.port p.val
    (∀ ack nak credits, x.state ≠ poUp → exec (.linkCtl t p ack nak credits) s = .next u) ∧
    (∀ (ack : BitVec 12) (credits : BitVec 64), x.state = poUp →
      let left := ackLeaves ack.toNat x.unacked
      let y := { x with
        unacked := left
        replays := if left.length < x.unacked.length then 0 else x.replays
        since := if left.length < x.unacked.length then u.now else x.since
        credits := (List.range 4).map (fun v => x.credits.getD v 0 + bitsAt credits.toNat (16 * v) 16) }
      exec (.linkCtl t p ack false credits) s = .next ((u.setPort p.val y).portPump p.val (x.waiting.length + 1))) ∧
    (∀ (ack : BitVec 12) (credits : BitVec 64), x.state = poUp →
      let left := ackLeaves ((ack.toNat + 4095) % 4096) x.unacked
      let y := { x with
        unacked := left
        replays := if left.length < x.unacked.length then 0 else x.replays
        since := if left.length < x.unacked.length then u.now else x.since
        credits := (List.range 4).map (fun v => x.credits.getD v 0 + bitsAt credits.toNat (16 * v) 16) }
      exec (.linkCtl t p ack true credits) s =
        .next (((u.setPort p.val y).replay p.val).portPump p.val (x.waiting.length + 1))) ∧
    (x.state = poUp → exec (.linkCtlTimer t p) s = .next (u.sendCtl p.val false)) ∧
    (x.state = poUp → x.unacked ≠ [] →
      (x.since + 2 * x.rtt + 2 * usF ≤ u.now → exec (.replayTimeout t p) s = .next (u.replay p.val)) ∧
      (u.now < x.since + 2 * x.rtt + 2 * usF → exec (.replayTimeout t p) s = .next u)) ∧
    (∀ lseq vc len, x.state = poUp → x.nak = false →
      exec (.frameRxError t p 1 lseq vc len) s = .next ((u.setPort p.val { x with nak := true }).sendCtl p.val true)) ∧
    (∀ lseq vc len, exec (.frameRxError t p 0 lseq vc len) s =
      .next ((u.portCount F.FAB_PORT_CRC_ERRS p.val 1).rxBad p.val)) ∧
    (∀ (lseq : BitVec 12) (vc : Fin 4) (len : BitVec 12) v, u.rxTake p.val lseq.toNat = (true, v) →
      exec (.frameRxError t p 2 lseq vc len) s =
        .next ((v.giveCredits p.val vc.val (ceilDiv (len.toNat + 20) 64)).fabDrop F.FAB_DROP_BAD_TYPE))

/-- On an UP port with no frozen lane, the frame whose LSEQ is expected is taken, the next number modulo 4,096 becomes
the expected one and a replay asked for is no longer waited for. One ahead of it is discarded: with no replay asked
for yet, NAK is sent, else nothing changes. One behind it is discarded and only noted as news for LINK_CTL. A port
that is not UP takes nothing. No case changes another port. -/
def Obligations.FramesArriveInOrder : Prop :=
  ∀ (s : State) (p l : Nat),
    let x := s.port p
    (x.state ≠ poUp → s.rxTake p l = (false, s)) ∧
    (x.state = poUp → l = x.rxSeq → (∀ n ∈ s.portLanes p, (s.lane n).frozen = false) →
      s.rxTake p l = (true, s.setPort p { x with rxSeq := (x.rxSeq + 1) % 4096, nak := false, news := true })) ∧
    (x.state = poUp → l ≠ x.rxSeq → (l + 4096 - x.rxSeq) % 4096 < 2048 →
      (x.nak = true → s.rxTake p l = (false, s)) ∧
      (x.nak = false → s.rxTake p l = (false, (s.setPort p { x with nak := true }).sendCtl p true))) ∧
    (x.state = poUp → l ≠ x.rxSeq → 2048 ≤ (l + 4096 - x.rxSeq) % 4096 →
      s.rxTake p l = (false, s.setPort p { x with news := true })) ∧
    (∀ q, q ≠ p → (s.rxTake p l).2.port q = s.port q)

/-- A routed frame for another node, taken in order on a port, whose type travels on its VC, is routed on with
HOPS_LEFT less one when HOPS_LEFT is at least 2; otherwise it is dropped, its credits returned and counted in HOP. One
whose type does not travel on its VC counts in BAD_TYPE. A frame for this node is not this command's. DWELL_EXPIRY
drops the frames that have waited DWELL_MAX, each counted in DWELL, and leaves the port as it is where none has. -/
def Obligations.FramesAreForwardedOrDropped : Prop :=
  ∀ (s : State) (t : Nat) (p : Fin 16),
    let u := s.at_ t
    (∀ (lseq : BitVec 12) (dest src : BitVec 16) (vc : Fin 4) (ty hops : BitVec 6) first last (tag : BitVec 14)
        (aux : BitVec 32) (words : List (BitVec 64)) v,
      let f : Frame := {
        dest := dest.toNat, src := src.toNat, vc := vc.val, ty := ty.toNat, hops := hops.toNat - 1, first := first
        last := last, tag := tag.toNat, aux := aux.toNat, words := words.map BitVec.toNat }
      dest.toNat ≠ u.nodeId → dest.toNat ≠ 0xFFFF → u.rxTake p.val lseq.toNat = (true, v) →
        (frVc ty.toNat = some vc.val → 2 ≤ hops.toNat →
          exec (.frameForward t p lseq dest src vc ty hops first last tag aux words) s =
            .next (routeW State.raise v f (some p.val))) ∧
        (frVc ty.toNat = some vc.val → hops.toNat < 2 →
          exec (.frameForward t p lseq dest src vc ty hops first last tag aux words) s =
            .next ((v.giveCredits p.val vc.val f.credits).fabDrop F.FAB_DROP_HOP)) ∧
        (frVc ty.toNat ≠ some vc.val →
          exec (.frameForward t p lseq dest src vc ty hops first last tag aux words) s =
            .next ((v.giveCredits p.val vc.val f.credits).fabDrop F.FAB_DROP_BAD_TYPE))) ∧
    (∀ (lseq : BitVec 12) (dest : BitVec 16) src vc ty hops first last tag aux words, dest.toNat = u.nodeId →
      exec (.frameForward t p lseq dest src vc ty hops first last tag aux words) s = .next u) ∧
    (∀ w, (u.port p.val).waiting = [w] →
      (w.since + u.rd F.FAB_CFG_DWELL_MAX 0 * usF ≤ u.now →
        exec (.dwellExpiry t p) s =
          .next (((u.setPort p.val { u.port p.val with waiting := [] }).leftBuffer w).fabDrop F.FAB_DROP_DWELL)) ∧
      (u.now < w.since + u.rd F.FAB_CFG_DWELL_MAX 0 * usF →
        exec (.dwellExpiry t p) s = .next (u.setPort p.val (u.port p.val))))

/-- LANE_LOSS counts the bad headers and does nothing more to a lane that does not receive; a lane in training starts
its training again. Of an ACTIVE or QUIET lane, for a cause other than HI_BER, it also counts a DOWN, takes the port
down and sets DOWN. LANE_SIGNAL_ARRIVAL marks signal on a lane in training or DEEP; BLOCK_LOCK marks lock and seeds
the checker anew; HI_BER_CLEAR clears HI_BER once 21,212 blocks have come since it was declared. TRAINING_COMPLETE
makes a lane with signal and lock ACTIVE, or QUIET where PSTATE is 1 or on a standby's port, with the coefficients it
has adapted to, and starts its port. RETRAIN trains a lane that is neither DEEP nor ISOLATED and takes its port down.
-/
def Obligations.LanesTrainAndFall : Prop :=
  ∀ (s : State) (t : Nat) (n : Fin 16),
    let u := s.at_ t
    let x := u.lane n.val
    (∀ (c : Fin 3) h, let v := u.laneCount F.LANE_CNT_HDR_ERR n.val h
      (x.live = false → exec (.laneLoss t n c h) s = .next v) ∧
      (x.state = laTraining → c.val ≠ 2 → exec (.laneLoss t n c h) s = .next ((v.laneTrain n.val).setLane n.val
        { (v.laneTrain n.val).lane n.val with
            signal := c.val ≠ 0 && x.signal, hiBer := false, berAt := x.berAt })) ∧
      (x.state = laActive ∨ x.state = laQuiet → c.val ≠ 2 →
        let r := (v.laneTrain n.val).setLane n.val
          { (v.laneTrain n.val).lane n.val with
            signal := c.val ≠ 0 && x.signal, hiBer := false, berAt := x.berAt }
        exec (.laneLoss t n c h) s = .next ((((if r.ownDie n.val then r.tallyUp (0x70 + n.val % 8) else r).laneCount
          F.LANE_CNT_DOWNS n.val 1).laneGone n.val).laneStick F.LANE_STATUS_DOWN 0 n.val))) ∧
    (x.state = laTraining ∨ x.state = laDeep →
      exec (.laneSignalArrival t n) s = .next (u.setLane n.val { x with signal := true, sigSince := u.now })) ∧
    (x.state ≠ laTraining → x.state ≠ laDeep → exec (.laneSignalArrival t n) s = .next u) ∧
    (x.live = true → x.signal = true → x.lock = false →
      exec (.blockLock t n) s = .next (u.setLane n.val { x with lock := true, prbs := none })) ∧
    (x.hiBer = true → x.berAt + berSpan ≤ u.now →
      exec (.hiBerClear t n) s = .next (u.setLane n.val { x with hiBer := false })) ∧
    (u.now < x.berAt + berSpan → exec (.hiBerClear t n) s = .next u) ∧
    (x.state = laTraining → x.signal = true → x.lock = true → x.hiBer = false → u.laneIso n.val = false →
      let w := u.adapted n.val;
      (u.rd F.LANE_CTRL_PSTATE (n.val % 8) = 1 ∨ u.standbyPort n.val = true →
        exec (.trainingComplete t n) s =
          .next ((w.setLane n.val { w.lane n.val with state := laQuiet }).portStart (w.portOfLane n.val))) ∧
      (u.rd F.LANE_CTRL_PSTATE (n.val % 8) ≠ 1 → u.standbyPort n.val = false →
        exec (.trainingComplete t n) s =
          .next ((w.setLane n.val { w.lane n.val with state := laActive }).portStart (w.portOfLane n.val)))) ∧
    (u.laneIso n.val = false → x.state ≠ laDeep →
      exec (.retrain t n) s = .next ((u.laneTrain n.val).laneGone n.val)) ∧
    (u.laneIso n.val = true → exec (.retrain t n) s = .next u)

/-- PSTATE_WRITE clamps its field and takes effect at once, or is kept while a lane test is on. QUIET_AUTO_WAKE of a
lane that is not QUIET, or of a standby's, changes nothing; one for which frames wait goes to ACTIVE, PSTATE reads 0
and the frames leave. DEEP_WAKE of a lane not in DEEP changes nothing. TRAINING_IDLE_START marks the idles of an
ACTIVE lane with TI_EN. A TRAIN block after lock seeds the checker; one that continues the PRBS31 sequence advances
it; any other is counted, sets TI_ERR and seeds anew. ADAPTATION_FREEZE freezes a receiving lane at the coefficients
it has come to. A lane that leaves DEEP trains from them with KEEP_COEF 1, and from their defaults with 0. LANE_INJECT
of KIND 1 sends the single-bit error on an ISOLATED lane or in SERVICE, and elsewhere nothing is sent. LANE_TEST_WRITE
that sets a test on a lane that is not ISOLATED is discarded; on an ISOLATED lane whose checker does not run it writes
the fields and puts the lane in test. -/
def Obligations.LanesSleepWakeAndTest : Prop :=
  ∀ (s : State) (t : Nat) (n : Fin 16),
    let u := s.at_ t
    let x := u.lane n.val
    (∀ v : BitVec 2, let r := u.wrLegal F.LANE_CTRL_PSTATE (n.val % 8) v.toNat
      (r.laneTesting n.val = false →
        exec (.pstateWrite t n v) s = .next (r.pstateNow n.val (r.rd F.LANE_CTRL_PSTATE (n.val % 8)))) ∧
      (r.laneTesting n.val = true → exec (.pstateWrite t n v) s =
        .next (r.setLane n.val { r.lane n.val with pstateWait := some (r.rd F.LANE_CTRL_PSTATE (n.val % 8)) }))) ∧
    (x.state ≠ laQuiet ∨ u.standbyPort n.val = true → exec (.quietAutoWake t n) s = .next u) ∧
    (x.state = laQuiet → u.standbyPort n.val = false → u.on F.LANE_CTRL_AUTO_WAKE (n.val % 8) = true →
      (u.port (u.portOfLane n.val)).waiting ≠ [] → u.portLanes (u.portOfLane n.val) = [n.val] →
      exec (.quietAutoWake t n) s =
        .next (((u.setLane n.val { x with state := laActive }).wr F.LANE_CTRL_PSTATE (n.val % 8) 0).portPump
          (u.portOfLane n.val) ((u.port (u.portOfLane n.val)).waiting.length + 1))) ∧
    (x.state ≠ laDeep → exec (.deepWake t n) s = .next u) ∧
    (x.state = laDeep → u.on F.LANE_CTRL_WAKE_DET (n.val % 8) = true → x.signal = true → x.sigSince + 10 * usF ≤ u.now →
      let r := ((u.deepExit n.val).wr F.LANE_CTRL_PSTATE (n.val % 8) 0).laneStick F.LANE_STATUS_WAKE 4 n.val
      exec (.deepWake t n) s = .next (if r.on F.DORM_CFG_FAB_WAKE 0 then r.wakeBegin else r)) ∧
    (x.state = laActive → u.on F.LANE_CTRL_TI_EN (n.val % 8) = true →
      exec (.trainingIdleStart t n) s = .next (u.setLane n.val { x with trainIdle := true })) ∧
    (∀ b : BitVec 56, x.live = true → x.lock = true →
      (x.prbs = none → exec (.trainBlockRx t n b) s =
        .next (u.setLane n.val { x with prbs := some (prbsAfter 0 (trainBits b.toNat)), frozen := false })) ∧
      (∀ st, x.prbs = some st → prbs31 st 56 = trainBits b.toNat → exec (.trainBlockRx t n b) s =
        .next (u.setLane n.val { x with prbs := some (prbsAfter st (trainBits b.toNat)), frozen := false })) ∧
      (∀ st, x.prbs = some st → prbs31 st 56 ≠ trainBits b.toNat → exec (.trainBlockRx t n b) s =
        .next (((u.setLane n.val { x with prbs := none }).laneCount F.LANE_CNT_TI_ERRS n.val 1).laneStick
          F.LANE_STATUS_TI_ERR 3 n.val))) ∧
    (x.live = true → x.frozen = false → exec (.adaptationFreeze t n) s =
      .next (((u.adapted n.val).setLane n.val { (u.adapted n.val).lane n.val with frozen := true }).laneStick
        F.LANE_STATUS_FREEZE 2 n.val)) ∧
    (let w := u.deepExit n.val;
      (u.on F.LANE_CTRL_KEEP_COEF (n.val % 8) = true → w = u.laneTrain n.val) ∧
      (u.on F.LANE_CTRL_KEEP_COEF (n.val % 8) = false → w = (u.setLane n.val { x with coef := 0 }).laneTrain n.val)) ∧
    (∀ l : Fin 8, let m := u.portBase + l.val
      (u.laneIso m = true ∨ u.mode = mService → u.rd F.LANE_INJ_KIND (m % 8) = 1 →
        exec (.laneInject t l) s = .next (u.send (.lineError m 1 (2 ^ u.rd F.LANE_INJ_INJ_POS (m % 8))))) ∧
      (u.laneIso m = false → u.mode ≠ mService → exec (.laneInject t l) s = .next u) ∧
      (∀ v : BitVec 32,
        (bitAt v.toNat 4 = true → u.laneIso m = false → exec (.laneTestWrite t l v) s = .next u) ∧
        ((bitAt v.toNat 4 = true ∨ bitAt v.toNat 5 = true) → u.laneIso m = true → u.checking m = false →
          let w := (u.wrLegal F.LANE_TEST_PATTERN (m % 8) (bitsAt v.toNat 0 3)).wr F.LANE_TEST_INVERT (m % 8)
            (bitsAt v.toNat 3 1)
          let w := ((w.wr F.LANE_TEST_GEN_EN (m % 8) (bitsAt v.toNat 4 1)).wr F.LANE_TEST_CHK_EN (m % 8)
            (bitsAt v.toNat 5 1)).wr F.LANE_TEST_LOOP (m % 8) (legalValue F.LANE_TEST_LOOP (m % 8) (bitsAt v.toNat 8 2))
          exec (.laneTestWrite t l v) s = .next (w.setLane m { w.lane m with state := laTest }))))

/-- For a frame in order on an assigned node: HOST_RD enters the proxied reads and is issued, its credits withheld
while 16,384 are in flight, or with an unusable endpoint is answered GW_DOWN. ENTRY_WR and HOST_WR are written,
record-buffer data as data that may be ordered relaxed, and acknowledged, or answered GW_DOWN. MSIX and EVENT write
the vector, and are dropped while the endpoint is unusable. HOST_RD_DATA removes the read it names and delivers its
words, or fails it. HOST_ACK removes the write, or frees the doorbell page, it names. GW_DOWN fails the read or write
it names and sets GW_DOWN. A frame of this class that does not arrive in order changes what taking it changes. -/
def Obligations.HostFramesAreProxiedAndAnswered : Prop :=
  ∀ (s : State) (t : Nat) (p : Fin 16) (lseq : BitVec 12) (v : State),
    let u := s.at_ t
    Arrives u p.val lseq.toNat v →
    (∀ (src : BitVec 16) (tag : BitVec 14) (addr : BitVec 64) (bytes : BitVec 9),
      let r : PcieRead := {
        own := none, node := src.toNat, ftag := tag.toNat, inPort := p.val, addr := addr.toNat
        words := ceilDiv (clampN 8 256 bytes.toNat) 8 }
      let w : State := { v with pcieReads := v.pcieReads ++ [r] }
      (w.proxied < proxyMax →
        let x := credited w p.val 1 2
        exec (.hostRd t p lseq src tag addr bytes true) s =
          .next ((x.wr F.HR_PROXY_HIGH_WATER 0 (max (x.rd F.HR_PROXY_HIGH_WATER 0) (min proxyMax x.proxied))).pcieIssue 1)) ∧
      (proxyMax ≤ w.proxied →
        let x : State := { w with withheld := w.withheld ++ [(p.val, 1, ceilDiv (2 * 8 + 20) 64)] }
        exec (.hostRd t p lseq src tag addr bytes true) s =
          .next ((x.wr F.HR_PROXY_HIGH_WATER 0 (max (x.rd F.HR_PROXY_HIGH_WATER 0) (min proxyMax x.proxied))).pcieIssue 1)) ∧
      exec (.hostRd t p lseq src tag addr bytes false) s =
        .next ((credited v p.val 1 2).reply p.val src.toNat frHostRdData tag.toNat Config.gwDownAux []) ∧
      (∀ w1 w2 : BitVec 64,
        exec (.entryWr t p lseq src tag addr w1 w2 true) s = .next (((credited v p.val 2 3).send
          (.hostWrite addr.toNat [w1.toNat, w2.toNat] false)).reply p.val src.toNat frHostAck tag.toNat 0 []) ∧
        exec (.entryWr t p lseq src tag addr w1 w2 false) s =
          .next ((credited v p.val 2 3).reply p.val src.toNat frHostAck tag.toNat Config.gwDownAux [])) ∧
      (∀ data : List (BitVec 64),
        exec (.hostWr t p lseq src tag addr data true) s = .next (((credited v p.val 3 (data.length + 1)).send
          (.hostWrite addr.toNat (data.map BitVec.toNat) true)).reply p.val src.toNat frHostAck tag.toNat 0 []) ∧
        exec (.hostWr t p lseq src tag addr data false) s =
          .next ((credited v p.val 3 (data.length + 1)).reply p.val src.toNat frHostAck tag.toNat Config.gwDownAux []))) ∧
    (∀ vec : BitVec 11,
      exec (.msix t p lseq vec true) s = .next ((credited v p.val 2 1).writeVector vec.toNat) ∧
      exec (.msix t p lseq vec false) s = .next (credited v p.val 2 1) ∧
      ∀ body,
        exec (.event t p lseq body vec true) s = .next ((credited v p.val 0 2).writeVector vec.toNat) ∧
        exec (.event t p lseq body vec false) s = .next (credited v p.val 0 2)) ∧
    (∀ (tag : BitVec 14) (data : List (BitVec 64)) r, let w := credited v p.val 2 data.length
      w.fabReads.find? (fun r => r.tag == tag.toNat) = some r →
        let x : State := { w with fabReads := w.fabReads.filter (fun y => y.tag != r.tag) }
        exec (.hostRdData t p lseq tag false data) s =
          .next (x.partDone r.grp r.part ((data.map BitVec.toNat).take r.words)) ∧
        exec (.hostRdData t p lseq tag true data) s = .next (x.partFailed r.grp 1)) ∧
    (∀ (tag : BitVec 14), let w := credited v p.val 2 0
      (∀ x, w.fabWrites.find? (fun y => y.sent && y.frame.tag == tag.toNat) = some x → x.entry = none →
        exec (.hostAck t p lseq tag) s = .next { w with fabWrites := w.fabWrites.filter (fun y => y != x) }) ∧
      (∀ b, w.fabWrites.find? (fun y => y.sent && y.frame.tag == tag.toNat) = none →
        w.bells.find? (fun b => (b.2.flight.map (fun f => f.2.1)) == some tag.toNat) = some b →
        exec (.hostAck t p lseq tag) s = .next ((w.setBell b.1 { w.bell b.1 with flight := none }).bellSend b.1)) ∧
      (∀ r, w.fabReads.find? (fun r => r.tag == tag.toNat) = some r →
        exec (.gwDownAnswer t p lseq tag) s = .next (({ w with
          fabReads := w.fabReads.filter (fun y => y.tag != r.tag) }.partFailed r.grp 2).hrStick F.HR_STATUS_GW_DOWN 2 0)) ∧
      (w.fabReads.find? (fun r => r.tag == tag.toNat) = none →
        w.fabWrites.find? (fun y => y.sent && y.frame.tag == tag.toNat) = none →
        exec (.gwDownAnswer t p lseq tag) s = .next w))

/-- DOORBELL in order sets its index, through the journal where the node journals, and is acknowledged. A broadcast
that was seen within 10 ms does nothing more; a new trigger broadcast acts here, and goes out on every other available
port with one hop less, or with none left is counted in HOP. PROBE with ARM 0 sends its frame on its first digit's
port. PROBE_FRAME at its last hop, of a node that has an ID, answers on the port it came by; at a port that is not UP
it answers as stopped. PROBE_RSP of no waiting probe only returns credits, and of one it completes the descriptor. -/
def Obligations.DoorbellsBroadcastsAndProbesAct : Prop :=
  ∀ (s : State) (t : Nat) (p : Fin 16) (lseq : BitVec 12) (v : State),
    let u := s.at_ t
    (∀ (src : BitVec 16) (tag : BitVec 14) (w : BitVec 64), Arrives u p.val lseq.toNat v →
      let x := credited v p.val 1 1
      (x.journaling = false → exec (.doorbell t p lseq src tag w) s =
        .next ((x.bellIndex w.toNat).reply p.val src.toNat frHostAck tag.toNat 0 [])) ∧
      (x.journaling = true → exec (.doorbell t p lseq src tag w) s = .next
        ((x.journal (.bell 0x800 0 (w.toNat - w.toNat % 2 ^ 16))).reply p.val src.toNat frHostAck tag.toNat 0 []))) ∧
    (∀ (src : BitVec 16) (tag : BitVec 14) (hops : BitVec 6) (w0 w1 : BitVec 64),
      u.ownDie p.val = true → u.rxTake p.val lseq.toNat = (true, v) →
      let x := credited v p.val 0 2
      let live := x.seen.filter (fun y => decide (x.now < y.at_ + 10 * msF))
      (live.any (fun y => y.src == src.toNat && y.tag == tag.toNat) = true →
        exec (.bcast t p lseq src tag hops 1 w0 w1) s = .next { x with seen := live }) ∧
      (live.any (fun y => y.src == src.toNat && y.tag == tag.toNat) = false → 2 ≤ hops.toNat →
        let f : Frame := {
          dest := 0xFFFF, src := src.toNat, vc := 0, ty := frBcast, hops := hops.toNat - 1, tag := tag.toNat, aux := 1
          words := [w0.toNat, w1.toNat] }
        exec (.bcast t p lseq src tag hops 1 w0 w1) s =
          .next ((List.range 8).foldl (fun s k =>
            if s.portBase + k ≠ p.val && s.available (s.portBase + k) then s.portPut (s.portBase + k) f none else s)
            ({ x with
              seen := (live ++ [({ src := src.toNat, tag := tag.toNat, at_ := x.now } : Seen)]).drop
                (live.length + 1 - 64) }.triggerMask
              (bitsAt w1.toNat 16 6) (w0.toNat + w1.toNat % 2 ^ 16 * 2 ^ 64)))) ∧
      (live.any (fun y => y.src == src.toNat && y.tag == tag.toNat) = false → hops.toNat < 2 →
        exec (.bcast t p lseq src tag hops 1 w0 w1) s =
          .next (({ x with
            seen := (live ++ [({ src := src.toNat, tag := tag.toNat, at_ := x.now } : Seen)]).drop (live.length + 1 - 64) }.triggerMask
              (bitsAt w1.toNat 16 6) (w0.toNat + w1.toNat % 2 ^ 16 * 2 ^ 64)).fabDrop F.FAB_DROP_HOP))) ∧
    (∀ (sq : Fin 256) j, Started u sq.val 0x60 j → u.on F.FAB_ASSIGN_ARM 0 = false →
      let w := (u.setJob j).wr F.FAB_ASSIGN_ARM 0 0
      ∀ tag x, w.newTag = (tag, x) → (x.setJob { j with tag := tag + 1, since := x.now }).nodeId ≠ 0xFFFF →
      let y := x.setJob { j with tag := tag + 1, since := x.now }
      let route := j.w 2 + bitsAt (j.w 3) 0 8 * 2 ^ 64
      (y.port (y.portBase + routeDigit route 0)).state = poUp →
        exec (.probe t sq) s = .next (y.portPut (y.portBase + routeDigit route 0) {
          dest := 0xFFFF, src := y.nodeId, vc := 0, ty := frProbe, hops := 24, tag := tag
          words := [route % 2 ^ 64,
            route / 2 ^ 64 + clampN 1 24 (bitsAt (j.w 1) 0 5) * 2 ^ 8 + 0xFFFF * 2 ^ 16, 0, 0] } none)) ∧
    (∀ (src : BitVec 16) (tag : BitVec 14) (left : BitVec 6) fwd (hops i : BitVec 5) (assign : BitVec 16) rev,
      u.rxTake p.val lseq.toNat = (true, v) →
      (i.toNat + 1 = hops.toNat → v.nodeId ≠ 0xFFFF →
        exec (.probeFrame t p lseq src tag left fwd hops i assign rev) s =
          .next ((v.giveCredits p.val 0 (ceilDiv (4 * 8 + 20) 64)).portPut p.val {
            dest := 0xFFFF, src := v.nodeId, vc := 0, ty := frProbeRsp, hops := 24, tag := tag.toNat
            words := v.probeBody p.val (i.toNat + 1) false false } none)) ∧
      (i.toNat + 1 ≠ hops.toNat → (v.port (p.val / 8 * 8 + routeDigit fwd.toNat (i.toNat + 1))).state ≠ poUp →
        exec (.probeFrame t p lseq src tag left fwd hops i assign rev) s =
          .next ((v.giveCredits p.val 0 (ceilDiv (4 * 8 + 20) 64)).portPut p.val {
            dest := 0xFFFF, src := v.nodeId, vc := 0, ty := frProbeRsp, hops := 24, tag := tag.toNat
            words := v.probeBody p.val (i.toNat + 1) false true } none)) ∧
      (∀ ws, let x := v.giveCredits p.val 0 (ceilDiv (6 * 8 + 20) 64)
        (x.jobs.find? (fun j => j.op == 0x60 && j.tag == tag.toNat + 1) = none →
          exec (.probeRsp t p lseq tag ws) s = .next x) ∧
        (∀ j, x.jobs.find? (fun j => j.op == 0x60 && j.tag == tag.toNat + 1) = some j →
          exec (.probeRsp t p lseq tag ws) s =
            .next ((if addr8 (j.w 4) = 0 then x else x.hostPut rkJob j.sq j.slot (addr8 (j.w 4))
              ((ws.map BitVec.toNat).take 6)).commit j stDone 48))))

/-- A started FABRIC_RESET reads its authenticator from the host, or without bytes is sent at once. FA_REQ in order
joins the queue of the security island; FA_RSP completes the waiting descriptor with DONE or DENIED, and without one
only returns credits. SECURITY_OP_DONE with an empty queue changes nothing; of a judged FA_REQ it answers whether it
was accepted. FABRIC_RESET_ACT acts on an accepted request once the answer has left, and not before. -/
def Obligations.FabricResetsAreAskedJudgedAndDone : Prop :=
  ∀ (s : State) (t : Nat),
    let u := s.at_ t
    (∀ (sq : Fin 256) j, Started u sq.val 0x61 j →
      (min 256 (ceilDiv (bitsAt (j.w 3) 0 16) 8) = 0 → exec (.fabricReset t sq) s = .next ((u.setJob j).faSend j [])) ∧
      (min 256 (ceilDiv (bitsAt (j.w 3) 0 16) 8) ≠ 0 → exec (.fabricReset t sq) s = .next
        ((u.setJob j).hostRead (.job j.id) (addr8 (j.w 2)) (min 256 (ceilDiv (bitsAt (j.w 3) 0 16) 8))))) ∧
    (∀ (p : Fin 16) (lseq : BitVec 12) v, Arrives u p.val lseq.toNat v →
      (∀ (src : BitVec 16) (tag : BitVec 14) (ws : List (BitVec 64)), exec (.faReq t p lseq src tag ws) s =
        .next ((credited v p.val 0 ws.length).secAsk (.fa src.toNat tag.toNat p.val (ws.map BitVec.toNat)))) ∧
      (∀ (tag : BitVec 14) (ok : Bool), let w := credited v p.val 0 0
        (w.jobs.find? (fun j => j.op == 0x61 && j.tag == tag.toNat + 1) = none →
          exec (.faRsp t p lseq tag ok) s = .next w) ∧
        (∀ j, w.jobs.find? (fun j => j.op == 0x61 && j.tag == tag.toNat + 1) = some j →
          exec (.faRsp t p lseq tag ok) s = .next (w.commit j (if ok then stDone else stDenied) 0)))) ∧
    (u.secq = [] → exec (.securityOpDone t) s = .next u) ∧
    (∀ src tag p ws l ok v, u.secq = .fa src tag p ws :: l → u.secPop.faJudge ws = (ok, v) →
      exec (.securityOpDone t) s =
        .next (v.answer p { dest := src, vc := 0, ty := frFaRsp, tag := tag, aux := b2n ok })) ∧
    (u.faPending = none → exec (.fabricResetAct t) s = .next u) ∧
    (∀ scope id, u.faPending = some (scope, id) →
      (u.ports.any (fun p => p.2.waiting.any (fun w => w.frame.ty == frFaRsp && w.frame.src == u.nodeId)) = false →
        exec (.fabricResetAct t) s = .next (u.faAct scope id)) ∧
      (u.ports.any (fun p => p.2.waiting.any (fun w => w.frame.ty == frFaRsp && w.frame.src == u.nodeId)) = true →
        exec (.fabricResetAct t) s = .next u))

/-- FORWARDER_TAKE of an enabled forwarder of an assigned node, with a destination and fewer than 16 records
unacknowledged, takes the next packet, numbers it NEXT_FSEQ and sends it; with none to take, or 16 outstanding,
nothing changes. FORWARDER_RESEND sends every unacknowledged record again once PROXY_TIMEOUT has passed, counted in
RESENDS, and not before. A RECORD frame in order reaches its inbound slot; its credits return unless a record of the
slot waits. FWD_ACK in order runs the shared acknowledgement. -/
def Obligations.RecordsCrossTheFabric : Prop :=
  ∀ (s : State) (t : Nat),
    let u := s.at_ t
    (∀ f : Fin 64, let x := u.fwd f.val
      (16 ≤ x.unacked.length → exec (.forwarderTake t f) s = .next u) ∧
      (u.on F.FAB_FWD_EN f.val = true → u.rd F.FAB_FWD_DEST_NODE f.val ≠ 0xFFFF → u.nodeId ≠ 0xFFFF →
        x.unacked.length < 16 → x.back = false →
        (u.readerPick 4 f.val = none → exec (.forwarderTake t f) s = .next u) ∧
        (∀ q r ws v, u.readerPick 4 f.val = some q → u.takePkt q = (some (r, ws), v) →
          let w := v.readerTook 4 f.val q
          let n := w.rd F.FAB_FWD_NEXT_FSEQ f.val
          exec (.forwarderTake t f) s = .next (((w.setFwd f.val { x with
            unacked := x.unacked ++ [{ fseq := n, queue := q, words := ws }]
            since := if x.unacked = [] then w.now else x.since }).wr F.FAB_FWD_NEXT_FSEQ f.val (n + 1)).fwdSend f.val
              { fseq := n, queue := q, words := ws }))) ∧
      (x.unacked ≠ [] → x.back = false →
        (x.since + u.rd F.HR_GW_PROXY_TIMEOUT 0 * usF ≤ u.now →
          exec (.forwarderResend t f) s = .next (x.unacked.foldl (fun s r => s.fwdSend f.val r)
            ((u.setFwd f.val { x with since := u.now, back := false }).countUp F.FAB_FWD_RESENDS f.val x.unacked.length
              65535))) ∧
        (u.now < x.since + u.rd F.HR_GW_PROXY_TIMEOUT 0 * usF → exec (.forwarderResend t f) s = .next u))) ∧
    (∀ (p : Fin 16) (lseq : BitVec 12) v, Arrives u p.val lseq.toNat v →
      (∀ (src : BitVec 16) (tag : BitVec 14) first last (slot fwd : BitVec 6) (ws : List (BitVec 64)),
        let w := v.inFrame slot.toNat src.toNat fwd.toNat tag.toNat first last (ws.map BitVec.toNat) (some p.val)
        ((w.inb slot.toNat).pend = [] → exec (.record t p lseq src tag first last slot fwd ws) s =
          .next (credited w p.val 3 ws.length)) ∧
        ((w.inb slot.toNat).pend ≠ [] → exec (.record t p lseq src tag first last slot fwd ws) s =
          .next { w with withheld := w.withheld ++ [(p.val, 3, ceilDiv (ws.length * 8 + 20) 64)] })) ∧
      (∀ (src : BitVec 16) (tag : BitVec 14) (slot : BitVec 6), exec (.fwdAck t p lseq src tag slot) s =
        .next ((credited v p.val 2 0).fwdAckFrom src.toNat slot.toNat tag.toNat)))

/-- A started ZILLO_LOAD of a core that runs completes with BUSY; of an EMPTY, HALTED or TRAPPED one in service it
makes the core LOADING and reads the bundle from the host, or asks the island when it is empty. ATTEST joins the
island's queue. A SECURITY descriptor is what its OP says: operations 1 to 6 read 208 bytes of authorisation, or are
refused for IN_LEN when it is another; DEBUG_CLOSE clears DEBUG and completes; one whose OP is another changes nothing
at this command. GET_ID writes the keys and completes. BUNDLE_VERIFY_DONE judges the bundle at the head of the queue.
CROSS_CERTIFY stores the signatures where both dies have identities, and on other parts does nothing. -/
def Obligations.SecurityDescriptorsAreJudged : Prop :=
  ∀ (s : State) (t : Nat) (sq : Fin 256),
    let u := s.at_ t
    (∀ j, Started u sq.val 0x40 j →
      let v := u.setJob j
      let z := bitsAt (j.w 1) 0 2
      let w := (v.setZcore z { v.zcore z with loadFrom := v.zState z }).zSetState z zLoading
      let n := ceilDiv (bitsAt (j.w 3) 0 32) 8
      (v.isolated kCore z = true → exec (.zilloLoad t sq) s = .next (v.commit j stDone 0)) ∧
      (v.isolated kCore z = false → v.zState z ≠ zEmpty → v.zState z ≠ zHalted → v.zState z ≠ zTrapped →
        exec (.zilloLoad t sq) s = .next (v.commit j stBusy 0)) ∧
      (v.isolated kCore z = false → (v.zState z = zEmpty ∨ v.zState z = zHalted ∨ v.zState z = zTrapped) →
        (n = 0 → exec (.zilloLoad t sq) s = .next (w.secAsk (.bundle j.id))) ∧
        (n ≠ 0 → exec (.zilloLoad t sq) s = .next (w.hostRead (.job j.id) (addr8 (j.w 2)) n)))) ∧
    (∀ id l j, u.secq = .bundle id :: l → u.secPop.job id = some j →
      exec (.bundleVerifyDone t) s = .next (if j.op = 0x40 then u.secPop.loadJudge j else u.secPop.storeJudge j)) ∧
    (∀ j, Started u sq.val 0x50 j → exec (.attest t sq) s = .next ((u.setJob j).secAsk (.job j.id))) ∧
    (∀ j, Started u sq.val 0x51 j → j.secOp = 0 →
      let v := u.setJob j
      let x := v.sec v.dx.die
      let own := (v.idKey v.dx.die).getD []
      let fit := fun (l : List Nat) (n : Nat) => l ++ List.replicate (n - l.length) 0
      exec (.getId t sq) s =
        .next (v.secOut j (fit own 64 ++ fit x.peerKey 64 ++ fit (if own = [] then [] else x.xsig) 120))) ∧
    exec (.enrolId t sq) s = .next (u.secStart sq.val 1) ∧ exec (.enrolOwner t sq) s = .next (u.secStart sq.val 2) ∧
    exec (.revokeOwner t sq) s = .next (u.secStart sq.val 3) ∧ exec (.storeBoot t sq) s = .next (u.secStart sq.val 4) ∧
    exec (.advanceSvn t sq) s = .next (u.secStart sq.val 5) ∧ exec (.debugOpen t sq) s = .next (u.secStart sq.val 6) ∧
    (∀ op j, Started u sq.val 0x51 j → j.secOp = op →
      (bitsAt (j.w 3) 0 16 = 208 →
        u.secStart sq.val op = (u.setJob j).hostRead (.job j.id) (addr8 (j.w 2)) 26) ∧
      (bitsAt (j.w 3) 0 16 ≠ 208 → u.secStart sq.val op = (u.setJob j).secDeny j 1)) ∧
    (∀ op j, Started u sq.val 0x51 j → j.secOp ≠ op → u.secStart sq.val op = u) ∧
    (∀ j, Started u sq.val 0x51 j → j.secOp = 7 →
      exec (.debugClose t sq) s =
        .next (((u.setJob j).wr F.SEC_STATUS_DEBUG (u.setJob j).dx.die 0).commit j stDone 0)) ∧
    (u.part ≠ .vt8 → exec (.crossCertify t) s = .next u) ∧
    (∀ a b, u.part = .vt8 → u.idSeed 0 = some a → u.idSeed 1 = some b →
      let v := u.setSec 0 { u.sec 0 with peerKey := edPublic b, xsig := edSign b "Crita xcert" (edPublic a) }
      exec (.crossCertify t) s = .next
        (v.setSec 1 { v.sec 1 with peerKey := edPublic a, xsig := edSign a "Crita xcert" (edPublic b) }))

/-- On a VT8 whose die holds PEG, a cutoff at a whole 10 µs of Plumb time sends a heartbeat and closes the cycle, and
the half-way timer sends one; elsewhere they do nothing. JOURNAL_CYCLE_RX marks the oldest cycle received; CYCLE_ACK
frees what waited for it; three cycles unacknowledged make the standby LAGGING. A standby's second missed heartbeat
while READY asks for PEG. BULK_COPY_DONE of a SYNCING standby copies the counts and core memories. ACTIVE_FAULT of an
enabled cause releases PEG, and asks for it for a READY standby. SWITCH plans the switch on the active, FORCE_TAKE
acts only without a held PEG. PEG_REQUEST is of a die that has left BOOT and whose supplies are in range; PEG_GRANT
gives PEG to the die that asks. -/
def Obligations.DuplexPairKeepsAndPassesTheNode : Prop :=
  ∀ (s : State) (t : Nat),
    let u := s.at_ t
    (u.part = .vt8 → u.dx.held = true →
      (u.plumbNow % ((16000 * tickF : Nat) : Int) = 0 →
        exec (.duplexCutoff t) s = .next ((u.heartbeat (if u.dx.switching = 0 then 0 else 2)).cycleClose)) ∧
      (u.plumbNow % ((16000 * tickF : Nat) : Int) = ((8000 * tickF : Nat) : Int) →
        exec (.heartbeatTimer t) s = .next (u.heartbeat 0))) ∧
    (u.part ≠ .vt8 → exec (.duplexCutoff t) s = .next u ∧ exec (.heartbeatTimer t) s = .next u ∧
      exec (.heartbeatMissed t) s = .next u ∧ (∀ k, exec (.activeFault t k) s = .next u) ∧
      (∀ d, exec (.pegRequest t d) s = .next u) ∧ exec (.pegGrant t) s = .next u) ∧
    (∀ c, u.dx.cycles.find? (fun c => !c.received) = some c →
      exec (.journalCycleRx t) s = .next { u with dx := { u.dx with
        mirror := c.seqs
        cycles := u.dx.cycles.map (fun (y : Cycle) => if y.num = c.num then { y with received := true } else y) } }) ∧
    exec (.cycleAck t) s = .next u.cycleAcked.dueDone ∧
    (u.dx.held = true → u.dx.sbState = 2 →
      (3 ≤ u.dx.cycles.length → exec (.standbyLagTimeout t) s = .next (u.sbLeave 3).dueDone) ∧
      (u.dx.cycles.length < 3 → exec (.standbyLagTimeout t) s = .next u)) ∧
    (u.part = .vt8 → u.standbyThere = true → u.dx.keepAt + (6 + 5 * u.dx.missed) * usF ≤ u.now →
      u.dx.req = none → u.dx.sbState = 2 →
      exec (.heartbeatMissed t) s = .next { u with dx := { u.dx with
        missed := u.dx.missed + 1
        req := if 1 ≤ u.dx.missed then some (1 - u.dx.die, 1) else none } }) ∧
    (u.dx.held = true → u.dx.sbState = 1 → u.dx.bulk = false → u.standbyThere = true →
      let v := (u.wrBoth F.DX_COUNT_SWITCHES (u.rd F.DX_COUNT_SWITCHES u.dx.die)).wrBoth F.DX_COUNT_UNPLANNED
        (u.rd F.DX_COUNT_UNPLANNED u.dx.die)
      exec (.bulkCopyDone t) s =
        .next { v with dx := { v.dx with bulk := true, zcopy := u.zmem, fresh := false } }.readyJudge) ∧
    (u.part = .vt8 → u.dx.held = true → u.on F.DX_CTRL_F_SUPPLY u.dx.die = true →
      let v := ((u.dxStick F.DX_STATUS_FAULT 3).wr F.DX_STATUS_FAULT (1 - u.dx.die) 1).heartbeat 1
      exec (.activeFault t 0) s = .next { v with dx := { v.dx with
        held := false
        released := true
        req := if v.dx.sbState = 2 then some (1 - u.dx.die, 2) else v.dx.req } }) ∧
    (∀ d : Bool,
      (b2n d = u.dx.die → exec (.switch t d) s = .next (u.planSwitch 3)) ∧
      (b2n d ≠ u.dx.die → exec (.switch t d) s = .next u) ∧
      exec (.forceTake t d) s = .next (u.forceTake (b2n d)) ∧
      (∀ a, (u.boot (b2n d)).doneAt = some a → u.part = .vt8 → u.dx.held = false → u.dx.released = false →
        u.dx.req = none → smapGet 0 u.dieRails (b2n d) = 0 → d = true → a + 100 * msF ≤ u.now → (u.boot 0).doneAt = none →
        exec (.pegRequest t d) s = .next { u with dx := { u.dx with req := some (1, 0) } }) ∧
      ((u.boot (b2n d)).doneAt = none → exec (.pegRequest t d) s = .next u)) ∧
    (u.dx.req = none → exec (.pegGrant t) s = .next u) ∧
    (∀ d cause, u.part = .vt8 → u.dx.req = some (d, cause) → u.dx.held = false →
      exec (.pegGrant t) s = .next (if cause = 0 then u.firstGrant d else u.takeOver d cause)) ∧
    (∀ d cause, u.part = .vt8 → u.dx.req = some (d, cause) → u.dx.held = true → u.now < u.dx.keepAt + 10 * usF →
      exec (.pegGrant t) s = .next u)

/-- While no drain or wake runs and PO is not asserted: REQ 2 enters SETUP from RUN, DEGRADED, SERVICE or SAFE; REQ 3
enters RUN from SETUP or SERVICE; REQ 6 enters SERVICE from SETUP, RUN or DEGRADED; REQ 7 asks for SAFE from SETUP,
RUN, DEGRADED, SERVICE or DORMANT; REQ 4 begins the drain from RUN or DEGRADED with no part UPDATING and no repair;
every other request sets REFUSED. During a drain or a wake every request is refused. The drain ends in sleep once
DRAIN ms have passed. WAKE_TIMER and WAKE_HOST begin a wake where they are enabled. Duty-cycled bents power up and
down in DORMANT only; DOMAIN_POWERED counts only during a wake, for a domain that the wake's order has reached. A hot
Tenon asks for SAFE with cause 2. -/
def Obligations.ModesAreRequestedEnteredAndLeft : Prop :=
  ∀ (s : State) (t : Nat),
    let u := s.at_ t
    (u.poAsserted = false → u.dorm.stage ≠ 1 → u.dorm.stage ≠ 3 →
      exec (.reqSetup t) s = .next (if u.streaming = true ∨ u.mode = mSafe then u.enterSetup else u.refuse) ∧
      exec (.reqRun t) s = .next (if u.mode = mSetup then (u.enterRun mRun).modeJudge
        else if u.mode = mService then (u.setMode mRun).modeJudge else u.refuse) ∧
      exec (.reqService t) s = .next (if u.mode = mSetup then u.enterRun mService
        else if u.mode = mRun ∨ u.mode = mDegraded then u.setMode mService else u.refuse) ∧
      exec (.reqSafe t) s =
        .next (if u.mode = mSetup ∨ u.streaming = true ∨ u.mode = mDormant then u.askSafe 1 else u.refuse) ∧
      exec (.reqDormant t) s =
        .next (if (u.mode = mRun ∨ u.mode = mDegraded) ∧ u.updating = false ∧ u.pool.repair = none then
            { u with dorm := { stage := 1, since := u.now } }
          else u.refuse)) ∧
    (u.poAsserted = false → u.dorm.stage = 1 ∨ u.dorm.stage = 3 →
      ∀ c ∈ [Instr.reqSetup t, .reqRun t, .reqService t, .reqSafe t, .reqDormant t], exec c s = .next u.refuse) ∧
    (u.dorm.stage = 1 → u.dorm.since + u.rd F.DORM_CFG_DRAIN 0 * msF ≤ u.now →
      exec (.dormantDrainEnd t) s = .next u.sleep) ∧
    (u.dorm.stage ≠ 1 → exec (.dormantDrainEnd t) s = .next u) ∧
    (u.on F.DORM_WAKE_WAKE_EN 0 = true → plumbSec (u.rd F.DORM_WAKE_WAKE_SEC 0) * (secF : Int) ≤ u.plumbNow →
      exec (.wakeTimer t) s = .next u.wakeBegin) ∧
    (u.on F.DORM_CFG_HOST_WAKE 0 = true → u.poAsserted = false → exec (.wakeHost t) s = .next u.wakeBegin) ∧
    (u.dorm.stage = 2 → u.wakeBegin = { u with dorm := { u.dorm with stage := 3 } }) ∧
    (∀ (tn : Fin 6) (b : Fin 16),
      (u.dorm.stage ≠ 2 → exec (.dutyPowerUp t tn b) s = .next u ∧ exec (.dutyPowerDown t tn b) s = .next u) ∧
      (u.dorm.stage = 2 → u.dorm.duty.contains (bentIx tn.val b.val) = true → smapGet 0 u.bentOff (bentIx tn.val b.val) = 1 →
        exec (.dutyPowerUp t tn b) s = .next (u.bentWake tn.val b.val)) ∧
      (u.dorm.stage = 2 → u.dorm.duty.contains (bentIx tn.val b.val) = true → smapGet 0 u.bentOff (bentIx tn.val b.val) = 0 →
        (u.bent (bentIx tn.val b.val)).passOn = false → (u.bent (bentIx tn.val b.val)).entry = none →
        exec (.dutyPowerDown t tn b) s = .next (u.bentSleep tn.val b.val))) ∧
    (∀ (k : Fin 6) (i : Fin 96),
      (u.dorm.stage = 3 → u.dorm.off.contains (k.val, i.val) = true → u.dxReaches k.val i.val = true →
        exec (.domainPowered t k i) s = .next ((u.powered k.val i.val).wakeJudge)) ∧
      (u.dorm.stage ≠ 3 → exec (.domainPowered t k i) s = .next u)) ∧
    (∀ (tn : Fin 6) d, u.present tn.val = true →
      exec (.overTemperature t (some tn) d true) s =
        .next ((u.setTenon tn.val { u.tenon tn.val with hot := true }).askSafe 2) ∧
      exec (.overTemperature t (some tn) d false) s = .next (u.setTenon tn.val { u.tenon tn.val with hot := false }))

/-- PO asserts a reset of everything but what the fuses, pins, clocks and the part hold, asserted until it is released
with the Mortise supplies in range for 2 ms; PN resets what it does not keep and records RESET_CAUSE.PKG. Rails,
VEX_LOW and REFCLK are noted for their die, and a VEX_LOW of a present Tenon starts the IEPE counts of its channels
afresh. An absent Tenon's supply is nothing; a present Tenon loses lock and is isolated with cause supply. A Mortise
supply on a part with one Mortise asserts PO; on VT8 the active's raises its supply fault and the standby's isolates
it. -/
def Obligations.ResetsAndSuppliesAct : Prop :=
  ∀ (s : State) (t : Nat),
    let u := s.at_ t
    (u.poAsserted = false → exec (.powerOnAssert t) s = .next u.powerReset ∧ exec (.pinReset t) s = .next u.pinReset) ∧
    (u.poAsserted = true → exec (.powerOnAssert t) s = .next u ∧ exec (.pinReset t) s = .next u ∧
      (u.mortisesFed = true → exec (.powerOnRelease t) s = .next { u with poAsserted := false }.plumbZero) ∧
      (u.mortisesFed = false → exec (.powerOnRelease t) s = .next u)) ∧
    (u.powerReset.poAsserted = true ∧ u.powerReset.pending = u.pending ∧ u.powerReset.part = u.part ∧
      u.pinReset.rd F.RESET_CAUSE_PKG 0 = 1) ∧
    (∀ (tn : Fin 6) (d : Bool) (r : Fin 8),
      let x := u.tenon tn.val
      (u.present tn.val = false → exec (.supplyOutOfRange t (some tn) d r) s = .next u ∧ exec (.vexLowSet t tn) s = .next u) ∧
      (u.present tn.val = true →
        exec (.supplyOutOfRange t (some tn) d r) s = .next ((u.setTenon tn.val { x with
          rails := withRail x.rails r.val true, locked := false }).isolateTenon tn.val icSupply 3 false) ∧
        exec (.vexLowSet t tn) s = .next ((List.range 128).foldl (fun v c => v.iepeAfresh (chIx tn.val c))
          (u.setTenon tn.val { x with vexLow := true }))) ∧
      exec (.supplyInRange t (some tn) d r) s =
        .next (u.setTenon tn.val { x with rails := withRail x.rails r.val false }) ∧
      exec (.vexLowClear t tn) s = .next (u.setTenon tn.val { x with vexLow := false })) ∧
    (∀ (d : Bool) (r : Fin 8),
      let low := fun b => ({ u with
        dieRails := smapSet 0 u.dieRails (b2n d) (withRail (smapGet 0 u.dieRails (b2n d)) r.val b) } : State)
      exec (.supplyInRange t none d r) s =
        .next ((low false).setBoot (b2n d) { u.boot (b2n d) with fedAt := some u.now }) ∧
      exec (.refclkArrival t d) s = .next (u.setBoot (b2n d) { u.boot (b2n d) with refclk := true }) ∧
      (u.part ≠ .vt8 → b2n d = 0 → u.poAsserted = false →
        exec (.supplyOutOfRange t none d r) s = .next (low true).powerReset) ∧
      (u.part = .vt8 → b2n d = u.dx.die → u.dx.held = true →
        exec (.supplyOutOfRange t none d r) s = .next ((low true).activeFault 0)) ∧
      (u.part = .vt8 → b2n d ≠ u.dx.die → exec (.supplyOutOfRange t none d r) s =
        .next ((((low true).setIso kStandby 0 (some icSupply)).sbLeave 0).modeJudge.dueDone)))

/-- Without REFCLK a boot step changes nothing. With it, step 1 reads retention memory and forwards clocks, once; step
2 marks the PLL locked and starts the lanes in use, after step 1 and once. The fills and tests of a die come after: a
fill without step 1, a test without fill and PLL, the bundles without a passed test, and the end without the bundles
change nothing; a passed test is noted, and a failed one of VT8 isolates the standby. A passed test of a filled Tenon
in BOOT is noted, a failed one isolates it with TENON_FAIL. The one bundle whose entry governs a core of the die is
read and verified: one that verifies is counted, and on the active die in BOOT loaded and started as its entry says;
one that does not sets BAD_BUNDLE and stops the die's boot, isolating the standby of VT8; with no governing entry the
step passes. The end of boot of the one Mortise of a part enters service. HEALTH_RECORD outside its instants changes
nothing. -/
def Obligations.BootRunsStepByStep : Prop :=
  ∀ (s : State) (t : Nat) (d : Bool),
    let u := s.at_ t
    let b := u.boot (b2n d)
    (b.refclk = false → ∀ k, exec (.bootStepDone t d k) s = .next u) ∧
    (u.poAsserted = false → b.refclk = true →
      (b.s1 = true → exec (.bootStepDone t d 0) s = .next u) ∧
      (b.s1 = false → exec (.bootStepDone t d 0) s = .next
        ((List.range 6).foldl (fun s k =>
          if s.present k && (s.tenon k).rails = 0 && !s.isolated kTenon k && s.mode = mBoot then
            s.setTenon k { s.tenon k with clocked := true }
          else s) (u.setBoot (b2n d) { b with s1 := true }).retentionRead)) ∧
      (b.s1 = true → b.pll = false → exec (.bootStepDone t d 1) s = .next
        ((List.range 8).foldl (fun s k =>
          if s.portUsed (s.portOfLane (8 * b2n d + k)) && (s.lane (8 * b2n d + k)).state = laDown then
            s.laneTrain (8 * b2n d + k)
          else s) (u.setBoot (b2n d) { b with pll := true }))) ∧
      (b.s1 = false → exec (.bootStepDone t d 1) s = .next u)) ∧
    (b.s1 = false → exec (.memoryFillDone t none d) s = .next u) ∧
    (b.s1 = true → b.fill = false → u.pool.ready = true →
      exec (.memoryFillDone t none d) s = .next (u.setBoot (b2n d) { b with fill := true })) ∧
    (b.fill = false → ∀ ok, exec (.selfTestDone t none d ok) s = .next u) ∧
    (b.fill = true → b.pll = true → b.test = false → b.failTest = false →
      exec (.selfTestDone t none d true) s = .next (u.setBoot (b2n d) { b with test := true }) ∧
      (u.part = .vt8 → exec (.selfTestDone t none d false) s =
        .next ((u.setBoot (b2n d) { b with failTest := true }).setIso kStandby 0 (some icFault)))) ∧
    (∀ tn : Fin 6, u.present tn.val = true → (u.tenon tn.val).filled = true → (u.tenon tn.val).tested = false →
      u.mode = mBoot →
        exec (.selfTestDone t (some tn) d true) s = .next (u.setTenon tn.val { u.tenon tn.val with tested := true }) ∧
        exec (.selfTestDone t (some tn) d false) s = .next
          ((u.wr F.BOOT_STATUS_TENON_FAIL 0 (u.rd F.BOOT_STATUS_TENON_FAIL 0 ||| 2 ^ tn.val)).isolateTenon tn.val icFault 4
            false)) ∧
    (b.test = false → exec (.bootBundleVerify t d) s = .next u) ∧
    (b.test = true → b.bundles = false → b.failBundle = false →
      (b2n d = u.dx.die → u.mode = mBoot → u.tenonsTested = true) →
      (u.bootEntries (b2n d) = [] →
        exec (.bootBundleVerify t d) s = .next (u.setBoot (b2n d) { b with bundles := true })) ∧
      (∀ z e, u.bootEntries (b2n d) = [(z, e)] →
        exec (.bootBundleVerify t d) s = .next (
          match u.bootBundle (b2n d) e with
          | .ok l =>
            let r := if b2n d = u.dx.die ∧ u.mode = mBoot then
                (let r := u.zLoaded (b2n d) z l; if e.autorun then r.zRun z else r)
              else u.countUp F.SEC_CNT_LOADS (b2n d) 1 (2 ^ 32 - 1)
            r.setBoot (b2n d) { b with bundles := true }
          | .error c =>
            let r := (({ u with free := u.free + 1 } : State).badBundle (b2n d) c 15).setBoot (b2n d)
              { b with failBundle := true }
            if r.part = .vt8 then r.setIso kStandby 0 (some icFault) else r))) ∧
    (b.bundles = false → exec (.bootComplete t d) s = .next u) ∧
    (b.bundles = true → b.doneAt = none → u.poAsserted = false → u.part ≠ .vt8 → b2n d = 0 →
      exec (.bootComplete t d) s = .next (u.setBoot 0 { b with doneAt := some u.now }).bootEnd) ∧
    (∀ p ∈ u.bootEntries (b2n d), p.1 < 4 ∧ u.governing (b2n d) p.1 = some p.2) ∧
    (∀ a1 a2 a3 a4 a5 a6 a7 a8, u.on F.HEALTH_CFG_EN 0 = false →
      exec (.healthRecord t a1 a2 a3 a4 a5 a6 a7 a8) s = .next u) ∧
    (∀ a1 a2 a3 a4 a5 a6 a7 a8, u.hostIfOn = true → u.mode ≠ mBoot → u.on F.HEALTH_CFG_EN 0 = true →
      u.plumbNow % ((u.rd F.HEALTH_CFG_PERIOD 0 * secF : Nat) : Int) = 0 →
      ∃ items : List Nat, exec (.healthRecord t a1 a2 a3 a4 a5 a6 a7 a8) s =
        .next ({ u with tally := [], free := u.free + 16 }.produce prHealth {
          ty := tyHealth, stream := streamId 12 7 0, die := 7, time := u.plumbNow, items := items.length, body := items }))

/-- TCLK_PLL_LOCK of a clocked Tenon notes the lock and its instant and judges its return; LOSS_OF_LOCK of a locked
one clears it, isolates it and raises its event once. TENON_COUNTER_LOAD at a marked tick at least 10 µs after the
lock loads the counter and judges the return, and at no other instant does anything. The frame due that arrives whole
is taken; one that fails asks for a replay, the frames behind it are discarded, and its eighth failure in a row takes
the port down. RECORD_ADMIT admits the oldest record of the port to the active, and nothing of a port that is down or
has still to replay a frame. PORT_LOSS_RECORD and TENON_LOSS_RECORD send a pending loss where there is room and
otherwise change nothing. Where both ports of an isolated Tenon are lost, its silence powers down its bents that run
no loop; one in service is left alone. PART_ISOLATE, PART_RELEASE and PART_RESET act on the selected part, and are
refused in BOOT. -/
def Obligations.TenonsAndPartsComeAndGo : Prop :=
  ∀ (s : State) (t : Nat) (tn : Fin 6),
    let u := s.at_ t
    let x := u.tenon tn.val
    (u.present tn.val = true →
      (x.clocked = true → u.poAsserted = false →
        exec (.tclkPllLock t tn) s =
          .next (((u.setTenon tn.val { x with locked := true, lockAt := u.now }).tenonBack tn.val).wakeJudge)) ∧
      (x.clocked = false → exec (.tclkPllLock t tn) s = .next u) ∧
      (x.locked = true →
        (u.isolated kTenon tn.val = false → exec (.lossOfLock t tn) s =
          .next ((u.setTenon tn.val { x with locked := false }).isolateTenon tn.val icFault 1 false)) ∧
        (u.isolated kTenon tn.val = true → exec (.lossOfLock t tn) s =
          .next (((u.setTenon tn.val { x with locked := false }).isolateTenon tn.val icFault 1 false).dieEvent tn.val 1))) ∧
      (x.locked = false → exec (.lossOfLock t tn) s = .next u) ∧
      (∀ pb down : Bool, x.down pb = false → pb = false ∨ u.part = .vt8 →
        let r := x.link pb down
        let v := u.setTenon tn.val (x.setLink pb down { r with fails := r.fails + 1, replay := true })
        (∀ num ok, num ≠ r.next → exec (.tenonLinkFrameRx t tn (pb, down) (num, ok)) s = .next u) ∧
        exec (.tenonLinkFrameRx t tn (pb, down) (r.next, true)) s =
          .next (u.setTenon tn.val (x.setLink pb down { next := r.next + 1 })) ∧
        (r.fails < 7 → exec (.tenonLinkFrameRx t tn (pb, down) (r.next, false)) s = .next v) ∧
        (7 ≤ r.fails → exec (.tenonLinkFrameRx t tn (pb, down) (r.next, false)) s = .next (v.tenonPortDown tn.val pb)))) ∧
    (let named := u.plumbNow % ((16 * tickF : Nat) : Int) = 0 ∧ x.lockAt + 10 * usF ≤ u.now
     (named → exec (.tenonCounterLoad t tn) s = .next (((u.counterLoad tn.val).tenonBack tn.val).wakeJudge)) ∧
     (¬ named → exec (.tenonCounterLoad t tn) s = .next u)) ∧
    (∀ b, exec (.tenonPortDown t tn b) s = .next (u.tenonPortDown tn.val b)) ∧
    (∀ b, x.down (b && u.part == .vt8) = true → u.tenonPortDown tn.val b = u) ∧
    (∀ b, x.down b = true → exec (.recordAdmit t tn b) s = .next u) ∧
    (∀ r rest, u.present tn.val = true → u.part ≠ .vt8 → x.downA = false → u.poAsserted = false →
      ((x.link false false).replay = false → x.tx false = r :: rest → u.isolated kTenon tn.val = false →
        exec (.recordAdmit t tn false) s = .next ((u.setTenon tn.val (x.setTx false rest)).admitRec r)) ∧
      ((x.link false false).replay = true → exec (.recordAdmit t tn false) s = .next u)) ∧
    (x.tx (u.part == .vt8 && u.dx.die == 1) = [] → exec (.portLossRecord t tn) s = .next u) ∧
    (∀ r rest, x.tx (u.part == .vt8 && u.dx.die == 1) = r :: rest → u.present tn.val = true → u.poAsserted = false →
      exec (.portLossRecord t tn) s = .next (u.portLoss r)) ∧
    (∀ (b : Bool) (sid : BitVec 16),
      (u.loss (b2n b) sid.toNat = none → exec (.tenonLossRecord t tn b sid) s = .next u) ∧
      (∀ l, u.loss (b2n b) sid.toNat = some l → u.present tn.val = true → sid.toNat / 256 % 16 = tn.val →
        fifoBytes (x.tx b) + (lossRec sid.toNat tn.val l).len * 8 ≤ fifoSize →
        exec (.tenonLossRecord t tn b sid) s =
          .next ((u.setTenon tn.val (x.setTx b (x.tx b ++ [lossRec sid.toNat tn.val l]))).setLoss (b2n b) sid.toNat none))) ∧
    (u.isolated kTenon tn.val = false → exec (.tenonSilenceTimeout t tn) s = .next u) ∧
    (u.isolated kTenon tn.val = true → x.portLoss = true → x.downA = true → x.downB = true →
      exec (.tenonSilenceTimeout t tn) s = .next ((List.range 16).foldl (fun s b =>
        if s.rd F.BENT_CTRL_USE (bentIx tn.val b) = 2 && (s.loop (bentIx tn.val b)).running then s
        else if s.bentActive tn.val b then (s.bentSleep tn.val b).seqStop (bentIx tn.val b)
        else { s with bentOff := smapSet 0 s.bentOff (bentIx tn.val b) 1 }) u)) ∧
    (∀ k i, u.partSel = (k, i) → u.poAsserted = false → u.partThere k i = true →
      (u.mode = mBoot → exec (.partIsolate t) s = .next u.refuse.dueDone ∧ exec (.partRelease t) s = .next u.refuse.dueDone ∧
        exec (.partReset t) s = .next u.refuse.dueDone) ∧
      (u.mode ≠ mBoot → k ≠ kTenon → k ≠ kStandby → k ≠ kBent →
        exec (.partIsolate t) s = .next (u.partIsolate k i).dueDone ∧
        exec (.partRelease t) s = .next (u.partRelease k i).dueDone ∧
        exec (.partReset t) s = .next (u.partReset k i).dueDone))

/-- A host write of a register, direct or of a Tenon, takes effect through the shared write of its endpoint; a read of
no bytes changes nothing, and any other goes through the shared read. TENON_COMMAND at the port of the Mortise that
holds the PEG line, to a Tenon that takes commands and with no frame before it outstanding, runs there once per
number; at the other port, or to a Tenon that takes none, it changes nothing. A started REG_READ of this node
completes with the value read, one of another node is sent as REG_RD; REG_WRITE of another node is sent as REG_WR, of
this node it is journaled or written. REG_RD and REG_WR in order are answered with REG_RSP, a REG_RD behind writes
that wait for the standby together with them; REG_RSP completes the descriptor it names, and without one only returns
credits. -/
def Obligations.RegistersAreReadWrittenAndAsked : Prop :=
  ∀ (s : State) (t : Nat),
    let u := s.at_ t
    (∀ (d : Bool) (off : BitVec 26) (be : BitVec 8) (v : BitVec 64),
      exec (.registerWrite t d off be v) s = .next (u.w0Write (b2n d) (off.toNat / 8 * 8) be.toNat v.toNat).dueDone ∧
      (∀ a, exec (.halfReadLatch t d a 0) s = .next u) ∧
      (∀ len : BitVec 13, len ≠ 0 → exec (.halfReadLatch t d (.inl off) len) s = .next (u.hostW0Read (b2n d) off.toNat len.toNat)) ∧
      (∀ (a : BitVec 20) (len : BitVec 13), len ≠ 0 → exec (.halfReadLatch t d (.inr a) len) s =
        .next (u.send (.bellData a.toNat (if u.serves (b2n d) 0x50000 then u.bellRead a.toNat len.toNat else 0))))) ∧
    (∀ (d : Bool) (tn : Fin 6) (off : BitVec 23) (be : BitVec 8) (v : BitVec 64) (num : BitVec 32),
      exec (.tenonRegisterAccess t d tn off true be v) s =
        .next (u.w0Write (b2n d) (tenonAddr tn.val off.toNat / 8 * 8) be.toNat v.toNat).dueDone ∧
      exec (.tenonRegisterAccess t d tn off false 255 v) s =
        .next (u.hostW0Read (b2n d) (tenonAddr tn.val off.toNat / 8 * 8) 8) ∧
      (∀ pb wr : Bool, u.present tn.val = false ∨ u.tenonTakes tn.val = false ∨ pb ≠ (u.part == .vt8 && u.dx.die == 1) →
        exec (.tenonCommand t tn (pb, num) off wr be v) s = .next u) ∧
      (∀ pb : Bool, u.present tn.val = true → u.tenonTakes tn.val = true → u.poAsserted = false →
        pb = (u.part == .vt8 && u.dx.die == 1) → ((u.tenon tn.val).link pb true).replay = false →
        exec (.tenonCommand t tn (pb, num) off true be v) s = .next (u.tenonExec tn.val num.toNat (fun s =>
          (0, s.w0Put u.dx.die (tenonAddr tn.val (off.toNat / 8 * 8)) be.toNat v.toNat))).dueDone ∧
        exec (.tenonCommand t tn (pb, num) off false be v) s = .next (u.tenonExec tn.val num.toNat (fun s =>
          s.w0Word u.dx.die (tenonAddr tn.val (off.toNat / 8 * 8)))).dueDone)) ∧
    (∀ (sq : Fin 256) j, Started u sq.val 0x02 j →
      let v := u.setJob j
      let n := if bitAt (j.w 1) 32 then 8 else 4
      (v.localNode j = true → ∀ r w, v.w0Read v.dx.die (bitsAt (j.w 1) 0 26 / n * n) n = (r, w) →
        exec (.regRead t sq) s = .next (w.commit j stDone r)) ∧
      (v.localNode j = false → exec (.regRead t sq) s = .next (v.regAsk j frRegRd [j.regWord]))) ∧
    (∀ (sq : Fin 256) j, Started u sq.val 0x03 j →
      let v := u.setJob j
      (v.localNode j = false → exec (.regWrite t sq) s = .next (v.regAsk j frRegWr [j.regWord, j.w 2 % 2 ^ 64]).dueDone) ∧
      (v.localNode j = true → v.journaling = true → exec (.regWrite t sq) s = .next (v.journal (.run j.id)).dueDone) ∧
      (v.localNode j = true → v.journaling = false → exec (.regWrite t sq) s = .next (j.runRegWrite v).dueDone)) ∧
    (∀ (p : Fin 16) (lseq : BitVec 12) (src : BitVec 16) (tag : BitVec 14) (off : BitVec 26) (val : BitVec 64) v,
      Arrives u p.val lseq.toNat v →
      (∀ (w64 : Bool) r w, let n := if w64 then 8 else 4
        (credited v p.val 1 1).w0Read (credited v p.val 1 1).dx.die (off.toNat / n * n) n = (r, w) →
        (credited v p.val 1 1).writesWait = false →
        exec (.regRd t p lseq src tag off w64) s = .next (w.reply p.val src.toNat frRegRsp tag.toNat 0 [r])) ∧
      ((credited v p.val 1 1).writesWait = true → ∀ w64 : Bool, let n := if w64 then 8 else 4
        exec (.regRd t p lseq src tag off w64) s = .next ((credited v p.val 1 1).journal
          (.regRd p.val src.toNat tag.toNat (off.toNat / n * n) n))) ∧
      exec (.regWr t p lseq src tag off true val) s =
        .next (((credited v p.val 1 2).w0Write (credited v p.val 1 2).dx.die (off.toNat / 8 * 8) 255 val.toNat).reply p.val
          src.toNat frRegRsp tag.toNat 0 [0]).dueDone ∧
      (let w := credited v p.val 2 1
       ((w.jobs.find? (fun j => (j.op == 0x02 || j.op == 0x03) && j.tag == tag.toNat + 1) = none →
          exec (.regRsp t p lseq tag val) s = .next w) ∧
        ∀ j, w.jobs.find? (fun j => (j.op == 0x02 || j.op == 0x03) && j.tag == tag.toNat + 1) = some j →
          exec (.regRsp t p lseq tag val) s = .next (w.commit j stDone (if j.op = 0x02 then val.toNat else 0)))))

/-- BYPASS shifts the one-bit register, which captures 0; IDCODE shifts the part's identification register;
SAMPLE/PRELOAD captures the pins and loads the boundary register. EXTEST does the same in BOOT or SETUP and acts as
BYPASS elsewhere; CLAMP and HIGHZ shift the bypass register. INTSCAN and ZDEBUG act as BYPASS unless debug is open;
while it is, what leaves TDO is open (a free value) and as many bits leave as entered. No TAP instruction changes a
register of the node (that INTSCAN and ZDEBUG change nothing is the model's choice, log entry 61). -/
def Obligations.TapInstructionsShiftTheirRegisters : Prop :=
  ∀ (s : State) (t : Nat) (pins tdi : List Bool),
    let u := s.at_ t
    exec (.bypass t tdi) s = .next (u.tapScan .bypass (tapBitsOut [false] tdi)) ∧
    exec (.idcode t tdi) s = .next (u.tapScan .idcode (tapBitsOut (natBits u.part.idcode 32) tdi)) ∧
    exec (.samplePreload t pins tdi) s =
      .next ({ u with tap := { u.tap with cells := tapBitsIn pins tdi } }.tapScan .samplePreload (tapBitsOut pins tdi)) ∧
    (u.mode = mBoot ∨ u.mode = mSetup → exec (.extest t pins tdi) s =
      .next ({ u with tap := { u.tap with cells := tapBitsIn pins tdi } }.tapScan .extest (tapBitsOut pins tdi))) ∧
    (u.mode ≠ mBoot → u.mode ≠ mSetup →
      exec (.extest t pins tdi) s = .next (u.tapScan .extest (tapBitsOut [false] tdi))) ∧
    exec (.clamp t tdi) s = .next (u.tapScan .clamp (tapBitsOut [false] tdi)) ∧
    exec (.highz t tdi) s = .next (u.tapScan .highz (tapBitsOut [false] tdi)) ∧
    (u.debugOpen = false →
      exec (.intscan t tdi) s = .next (u.tapScan .intscan (tapBitsOut [false] tdi)) ∧
      exec (.zdebug t tdi) s = .next (u.tapScan .zdebug (tapBitsOut [false] tdi))) ∧
    (u.debugOpen = true → ∃ bits : List Bool, bits.length = tdi.length ∧
      exec (.intscan t tdi) s = .next ({ u with free := u.free + 1 }.tapScan .intscan bits) ∧
      exec (.zdebug t tdi) s = .next ({ u with free := u.free + 1 }.tapScan .zdebug bits)) ∧
    (∀ ir bits, (u.tapScan ir bits).regs = u.regs)

/-- Where the word at a running core's pc spells the instruction: NOP changes no register; ADD, SUB, AND, OR, XOR,
SHL, SHR, SAR, MUL, CLT and the immediate forms write g_d from g_a and g_b or the immediate; SETA, GETA, ADDA and SETC
move address and buffer registers; CMACR adds a product to an accumulator, CLRA clears it, EXTC and EXTR round, shift
and saturate it into g_d, with SAT set where that clamps. The core then steps on: outside an RPT the pc advances by 4;
inside one the count goes down, and the pc advances when it ends. Nothing but that core's own record differs from the
state after the fetch while no halt is requested. -/
def Obligations.ZilloComputesInRegisters : Prop :=
  ∀ (s : State) (t : Nat) (z : Fin 4) (d a b : Fin 16) (s1 : State),
    let u := s.at_ t
    let c := s1.zcore z.val
    let put := fun (x : ZCore) => (s1.setZcore z.val x).zNext z.val
    (ZAt u z.val .nop s1 → exec (.nop t z) s = .next (put c)) ∧
    (ZAt u z.val (.add d a b) s1 → exec (.add t z) s = .next (put (c.setG d (c.g a + c.g b)))) ∧
    (ZAt u z.val (.sub d a b) s1 → exec (.sub t z) s = .next (put (c.setG d (c.g a - c.g b)))) ∧
    (ZAt u z.val (.and d a b) s1 → exec (.and t z) s = .next (put (c.setG d (c.g a &&& c.g b)))) ∧
    (ZAt u z.val (.or d a b) s1 → exec (.or t z) s = .next (put (c.setG d (c.g a ||| c.g b)))) ∧
    (ZAt u z.val (.xor d a b) s1 → exec (.xor t z) s = .next (put (c.setG d (c.g a ^^^ c.g b)))) ∧
    (ZAt u z.val (.shl d a b) s1 → exec (.shl t z) s = .next (put (c.setG d (c.g a <<< ((c.g b).toNat % 32))))) ∧
    (ZAt u z.val (.shr d a b) s1 → exec (.shr t z) s = .next (put (c.setG d (c.g a >>> ((c.g b).toNat % 32))))) ∧
    (ZAt u z.val (.sar d a b) s1 →
      exec (.sar t z) s = .next (put (c.setG d ((c.g a).sshiftRight ((c.g b).toNat % 32))))) ∧
    (ZAt u z.val (.mul d a b) s1 → exec (.mul t z) s = .next (put (c.setG d (c.g a * c.g b)))) ∧
    (ZAt u z.val (.clt d a b) s1 →
      exec (.clt t z) s = .next (put (c.setG d (if (c.g a).slt (c.g b) then 1 else 0)))) ∧
    (∀ imm : BitVec 18,
      (ZAt u z.val (.addi d a imm) s1 → exec (.addi t z) s = .next (put (c.setG d (c.g a + imm.signExtend 32)))) ∧
      (ZAt u z.val (.andi d a imm) s1 → exec (.andi t z) s = .next (put (c.setG d (c.g a &&& imm.setWidth 32)))) ∧
      (ZAt u z.val (.shli d a imm) s1 → exec (.shli t z) s = .next (put (c.setG d (c.g a <<< (imm.toNat % 32))))) ∧
      (ZAt u z.val (.shri d a imm) s1 → exec (.shri t z) s = .next (put (c.setG d (c.g a >>> (imm.toNat % 32)))))) ∧
    (∀ imm, ZAt u z.val (.movi d imm) s1 → exec (.movi t z) s = .next (put (c.setG d (imm.signExtend 32)))) ∧
    (∀ imm : BitVec 16, ZAt u z.val (.movh d imm) s1 →
      exec (.movh t z) s = .next (put (c.setG d (imm ++ (c.g d).setWidth 16)))) ∧
    (∀ n : Fin 8,
      (ZAt u z.val (.seta n a) s1 → exec (.seta t z) s = .next (put (c.setA n ((c.g a).setWidth 19)))) ∧
      (ZAt u z.val (.geta d n) s1 → exec (.geta t z) s = .next (put (c.setG d ((c.a n).setWidth 32)))) ∧
      (∀ off, ZAt u z.val (.adda n off) s1 → exec (.adda t z) s = .next (put (c.setA n (c.post n off.toInt)))) ∧
      (ZAt u z.val (.setc n a b) s1 → exec (.setc t z) s = .next (put (c.setCur { c.cur with
        c := smapSet 0 c.cur.c n.val ((c.g a).setWidth 20)
        st := smapSet 0 c.cur.st n.val ((c.g b).setWidth 16) })))) ∧
    (∀ k : Fin 4,
      (∀ cj sub, ZAt u z.val (.cmacr k a b cj sub) s1 → exec (.cmacr t z) s = .next (put (c.mac k (c.g a) (c.g b) cj sub))) ∧
      (ZAt u z.val (.clra k) s1 → exec (.clra t z) s = .next (put (c.setAcc k (0, 0)))) ∧
      (∀ sh : Fin 32, ZAt u z.val (.extc d k sh) s1 →
        let re := satF (rhu (c.acc k).1 sh.val) 16
        let im := satF (rhu (c.acc k).2 sh.val) 16
        exec (.extc t z) s =
          .next (put { c.setG d (BitVec.ofNat 32 (ofSigned 16 im.1 * 2 ^ 16 + ofSigned 16 re.1)) with
            sat := c.sat || re.2 || im.2 })) ∧
      (∀ (im : Bool) (sh : Fin 32), ZAt u z.val (.extr d k im sh) s1 →
        let v := satF (rhu (if im then (c.acc k).2 else (c.acc k).1) sh.val) 32
        exec (.extr t z) s = .next (put { c.setG d (BitVec.ofInt 32 v.1) with sat := c.sat || v.2 }))) ∧
    (∀ x : ZCore, x.haltAt = none →
      (x.rpt = none → put x = (s1.setZcore z.val x).setZcore z.val { x with pc := x.pc + 4 }) ∧
      (∀ left n, x.rpt = some (left, n) → 1 < left →
        put x = (s1.setZcore z.val x).setZcore z.val { x with rpt := some (left - 1, n + 1) }) ∧
      (∀ left n, x.rpt = some (left, n) → left ≤ 1 →
        put x = (s1.setZcore z.val x).setZcore z.val { x with rpt := none, pc := x.pc + 4 }))

/-- Where the word at a running core's pc spells it and the addresses are aligned and readable: LDW loads g_d and LDD
the pair; STW and STD store g_d or the pair; MAXM and MINM write g_d, and the index to its partner, only where the
word read is better; CMAC adds the product of the words at a_n and a_m. Each updates a_n as AM says (CMAC as PX and PY
say). The core then goes on to the next instruction. -/
def Obligations.ZilloLoadsAndStores : Prop :=
  ∀ (s : State) (t : Nat) (z : Fin 4) (d : Fin 16) (n am : Fin 8) (off : BitVec 16) (s1 : State),
    let u := s.at_ t
    let c := s1.zcore z.val
    (let b := (c.ea n am off 4).1
     b % 4 = 0 →
      (∀ w v, s1.zread z.val b = (w, true, v) → ZAt u z.val (.ldw d n am off) s1 → exec (.ldw t z) s =
        .next ((v.setZcore z.val (((v.zcore z.val).ea n am off 4).2.setG d (BitVec.ofNat 32 (halfAt w b)))).zNext z.val)) ∧
      (ZAt u z.val (.stw d n am off) s1 → exec (.stw t z) s =
        .next (((s1.setZcore z.val (c.ea n am off 4).2).zputHalf z.val b (c.g d).toNat).zNext z.val)) ∧
      (∀ w v, s1.zread z.val b = (w, true, v) → ZAt u z.val (.maxm d n am off) s1 →
        let x := v.zcore z.val
        let y := BitVec.ofNat 32 (halfAt w b)
        exec (.maxm t z) s = .next ((v.setZcore z.val (if (x.g d).toInt < y.toInt then
          (((x.ea n am off 4).2.setG d y).setG (pairOf d) (BitVec.ofNat 32 (match x.rpt with | some (_, k) => k | none => 0)))
          else (x.ea n am off 4).2)).zNext z.val)) ∧
      (∀ w v, s1.zread z.val b = (w, true, v) → ZAt u z.val (.minm d n am off) s1 →
        let x := v.zcore z.val
        let y := BitVec.ofNat 32 (halfAt w b)
        exec (.minm t z) s = .next ((v.setZcore z.val (if y.toInt < (x.g d).toInt then
          (((x.ea n am off 4).2.setG d y).setG (pairOf d) (BitVec.ofNat 32 (match x.rpt with | some (_, k) => k | none => 0)))
          else (x.ea n am off 4).2)).zNext z.val))) ∧
    (let b := (c.ea n am off 8).1
     b % 8 = 0 →
      (∀ w v, s1.zread z.val b = (w, true, v) → ZAt u z.val (.ldd d n am off) s1 → exec (.ldd t z) s =
        .next ((v.setZcore z.val ((((v.zcore z.val).ea n am off 8).2.setG d (BitVec.ofNat 32 w)).setG (pairOf d)
          (BitVec.ofNat 32 (w / 2 ^ 32)))).zNext z.val)) ∧
      (ZAt u z.val (.std d n am off) s1 → exec (.std t z) s =
        .next (((s1.setZcore z.val (c.ea n am off 8).2).zput z.val (b / 8)
          ((c.g d).toNat + (c.g (pairOf d)).toNat * 2 ^ 32)).zNext z.val))) ∧
    (∀ (k : Fin 4) (m : Fin 8) cj sub wx wy v w, (c.a n).toNat % 4 = 0 → (c.a m).toNat % 4 = 0 →
      s1.zread z.val (c.a n).toNat = (wx, true, v) → v.zread z.val (c.a m).toNat = (wy, true, w) →
      let x := (w.zcore z.val).mac k (BitVec.ofNat 32 (halfAt wx (c.a n).toNat))
        (BitVec.ofNat 32 (halfAt wy (c.a m).toNat)) cj sub
      (ZAt u z.val (.cmac k n m cj false false sub) s1 →
        exec (.cmac t z) s = .next ((w.setZcore z.val x).zNext z.val)) ∧
      (ZAt u z.val (.cmac k n m cj true false sub) s1 →
        exec (.cmac t z) s = .next ((w.setZcore z.val (x.setA n (x.post n (x.st n).toInt))).zNext z.val)) ∧
      (ZAt u z.val (.cmac k n m cj true true sub) s1 →
        let y := x.setA n (x.post n (x.st n).toInt)
        exec (.cmac t z) s = .next ((w.setZcore z.val (y.setA m (y.post m (y.st m).toInt))).zNext z.val)))

/-- Where the word at a running core's pc spells LDW, STW, MAXM, MINM or CMAC and an address that it accesses is no
multiple of 4, or LDD or STD and its address is no multiple of 8, or QBLK or QPBLK with words still to move and a_n no
multiple of 8, the core traps with cause ALIGN (4) and that address. -/
def Obligations.MisalignedAccessesTrap : Prop :=
  ∀ (s : State) (t : Nat) (z : Fin 4) (d : Fin 16) (n am : Fin 8) (off : BitVec 16) (s1 : State),
    let u := s.at_ t
    let c := s1.zcore z.val
    (let b := (c.ea n am off 4).1
     b % 4 ≠ 0 →
      (ZAt u z.val (.ldw d n am off) s1 → exec (.ldw t z) s = .next (s1.zTrap z.val 4 b)) ∧
      (ZAt u z.val (.stw d n am off) s1 → exec (.stw t z) s = .next (s1.zTrap z.val 4 b)) ∧
      (ZAt u z.val (.maxm d n am off) s1 → exec (.maxm t z) s = .next (s1.zTrap z.val 4 b)) ∧
      (ZAt u z.val (.minm d n am off) s1 → exec (.minm t z) s = .next (s1.zTrap z.val 4 b))) ∧
    (let b := (c.ea n am off 8).1
     b % 8 ≠ 0 →
      (ZAt u z.val (.ldd d n am off) s1 → exec (.ldd t z) s = .next (s1.zTrap z.val 4 b)) ∧
      (ZAt u z.val (.std d n am off) s1 → exec (.std t z) s = .next (s1.zTrap z.val 4 b))) ∧
    (∀ (k : Fin 4) (m : Fin 8) cj px py sub, ZAt u z.val (.cmac k n m cj px py sub) s1 →
      ((c.a n).toNat % 4 ≠ 0 → exec (.cmac t z) s = .next (s1.zTrap z.val 4 (c.a n).toNat)) ∧
      (∀ w v, (c.a n).toNat % 4 = 0 → s1.zread z.val (c.a n).toNat = (w, true, v) → (c.a m).toNat % 4 ≠ 0 →
        exec (.cmac t z) s = .next (s1.zTrap z.val 4 (c.a m).toNat))) ∧
    ((c.a n).toNat % 8 ≠ 0 → c.g d ≠ 0 →
      (ZAt u z.val (.qblk d n) s1 → c.inp.isSome = true → s1.zLeft z.val ≠ 0 →
        exec (.qblk t z) s = .next (s1.zTrap z.val 4 (c.a n).toNat)) ∧
      (ZAt u z.val (.qpblk d n) s1 → c.outp.isSome = true →
        exec (.qpblk t z) s = .next (s1.zTrap z.val 4 (c.a n).toNat)))

/-- Where the word at a running core's pc spells it and no halt is requested: B, and BZ, BNZ and BLT when taken, move
the pc by 4 × DISP, and not taken go on; CALL also leaves the next address in g15; JR sets the pc, or traps with ALIGN
off a word; RPT and RPTR before a word marked R repeat it the count, and before another readable word trap with cause
1. WAIT with a pending enabled line goes on; RETI returns to EPC in the main bank; MFC and MTC read and write a
control register; SIG latches line 3 of the core it names; HALT of a running core requests its halt, from now on where
none was requested, and sets FW_HALT. -/
def Obligations.ZilloBranchesAndControls : Prop :=
  ∀ (s : State) (t : Nat) (z : Fin 4) (a b : Fin 16) (s1 : State),
    let u := s.at_ t
    let c := s1.zcore z.val
    let go := fun (pc : BitVec 19) (v : State) => (v.setZcore z.val { v.zcore z.val with
      pc := pc, fetched := if pc = (v.zcore z.val).pc + 4 then (v.zcore z.val).fetched else none }).zBoundary z.val
    let at4 := fun (k : Int) => BitVec.ofInt 19 ((c.pc.toNat : Int) + 4 * k)
    (∀ disp : BitVec 26,
      (ZAt u z.val (.b disp) s1 → exec (.b t z) s = .next (go (at4 disp.toInt) s1)) ∧
      (ZAt u z.val (.call disp) s1 → exec (.call t z) s =
        .next (go (BitVec.ofInt 19 ((((s1.setZcore z.val (c.setG 15 ((c.pc + 4).setWidth 32))).zcore z.val).pc.toNat : Int)
          + 4 * disp.toInt)) (s1.setZcore z.val (c.setG 15 ((c.pc + 4).setWidth 32)))))) ∧
    (∀ disp : BitVec 22,
      (ZAt u z.val (.bz a disp) s1 →
        exec (.bz t z) s = .next (if c.g a = 0 then go (at4 disp.toInt) s1 else s1.zNext z.val)) ∧
      (ZAt u z.val (.bnz a disp) s1 →
        exec (.bnz t z) s = .next (if c.g a ≠ 0 then go (at4 disp.toInt) s1 else s1.zNext z.val))) ∧
    (∀ disp : BitVec 18, ZAt u z.val (.blt a b disp) s1 →
      exec (.blt t z) s = .next (if (c.g a).slt (c.g b) then go (at4 disp.toInt) s1 else s1.zNext z.val)) ∧
    (ZAt u z.val (.jr a) s1 →
      let pc : BitVec 19 := (c.g a).setWidth 19
      (pc.toNat % 4 = 0 → exec (.jr t z) s = .next (go pc s1)) ∧
      (pc.toNat % 4 ≠ 0 → exec (.jr t z) s = .next (s1.zTrap z.val 4 pc.toNat))) ∧
    (∀ w v i, s1.zread z.val (c.pc + 4).toNat = (w, true, v) → zDecode (halfAt w (c.pc + 4).toNat) = some i →
      (i.repeatable = true →
        (∀ cnt : BitVec 16, ZAt u z.val (.rpt cnt) s1 →
          exec (.rpt t z) s = .next (go (c.pc + 4) (s1.setZcore z.val { c with rpt := some (cnt.toNat + 1, 0) }))) ∧
        (ZAt u z.val (.rptr a) s1 → exec (.rptr t z) s =
          .next (go (c.pc + 4) (s1.setZcore z.val { c with rpt := some (clampN 1 65536 (c.g a).toNat, 0) })))) ∧
      (i.repeatable = false →
        (∀ cnt, ZAt u z.val (.rpt cnt) s1 → exec (.rpt t z) s = .next (s1.zTrap z.val 1 0)) ∧
        (ZAt u z.val (.rptr a) s1 → exec (.rptr t z) s = .next (s1.zTrap z.val 1 0)))) ∧
    (ZAt u z.val .wait s1 →
      (s1.zIrq z.val = true → exec (.wait t z) s = .next (s1.zNext z.val)) ∧
      (s1.zIrq z.val = false → s1.zState z.val = zRunning →
        exec (.wait t z) s = .next (go (c.pc + 4) (s1.zSetState z.val zWaiting)))) ∧
    (ZAt u z.val .reti s1 →
      exec (.reti t z) s = .next (go c.epc (s1.setZcore z.val { c with bank := false }))) ∧
    (∀ creg : Fin 32,
      (∀ r v, s1.zMfc z.val creg.val = (r, v) → ZAt u z.val (.mfc a creg) s1 →
        exec (.mfc t z) s = .next ((v.setZcore z.val ((v.zcore z.val).setG a r)).zNext z.val)) ∧
      (ZAt u z.val (.mtc a creg) s1 →
        exec (.mtc t z) s = .next ((s1.zMtc z.val creg.val (c.g a)).zNext z.val))) ∧
    (∀ y : Fin 4, ZAt u z.val (.sig y) s1 → exec (.sig t z) s = .next ((s1.zLatch y.val 3).zNext z.val)) ∧
    (ZAt u z.val .halt s1 →
      let v := s1.setZcore z.val { c with haltAt := some (c.haltAt.getD s1.now) }
      v.zState z.val = zRunning →
        exec (.halt t z) s =
          .next (((v.zSetState z.val zHalting).zStick F.ZC_STATUS_FW_HALT 2 z.val).zNext z.val))

/-- Where the word at a running core's pc spells it: QOPEN with no packet open takes the next packet and gives its
length, or 0 with none; QRDD gives the next word of the open packet and QDONE delivers it; QBLK moves the words that
are left; QNEW opens a record of the core's stream; QWRD appends the pair, and QPBLK the words, where the record and
the cells allow; QCLOSE of a record of at least four words discards it with X and otherwise closes it, and of a
shorter one traps with cause 6. A packet instruction with no packet open, or QOPEN with one, traps with cause 5; a
record instruction with no record open, or QNEW with one, traps with cause 6. -/
def Obligations.ZilloReadsAndWritesQueues : Prop :=
  ∀ (s : State) (t : Nat) (z : Fin 4) (a : Fin 16) (n : Fin 8) (s1 : State),
    let u := s.at_ t
    let c := s1.zcore z.val
    (ZAt u z.val (.qopen a) s1 →
      (c.inp.isSome = true → exec (.qopen t z) s = .next (s1.zTrap z.val 5 0)) ∧
      (c.inp = none → s1.readerPick 2 z.val = none →
        exec (.qopen t z) s = .next ((s1.setZcore z.val (c.setG a 0)).zNext z.val)) ∧
      (∀ q p, c.inp = none → s1.readerPick 2 z.val = some q → s1.nextPkt q = some p →
        let v := (s1.readerTook 2 z.val q).setQueue q { s1.queue q with taken := (s1.queue q).taken + 1 }
        exec (.qopen t z) s = .next ((v.setZcore z.val
          ({ v.zcore z.val with inp := some (q, 0) }.setG a (BitVec.ofNat 32 (p.rec_.len * 8)))).zNext z.val))) ∧
    (c.inp = none →
      (ZAt u z.val (.qrdd a) s1 → exec (.qrdd t z) s = .next (s1.zTrap z.val 5 0)) ∧
      (ZAt u z.val (.qblk a n) s1 → exec (.qblk t z) s = .next (s1.zTrap z.val 5 0)) ∧
      (ZAt u z.val .qdone s1 → exec (.qdone t z) s = .next (s1.zTrap z.val 5 0))) ∧
    (∀ q pos, c.inp = some (q, pos) →
      (∀ w v, s1.zWord z.val = (some w, v) → ZAt u z.val (.qrdd a) s1 → exec (.qrdd t z) s =
        .next ((v.setZcore z.val (((v.zcore z.val).setG a (BitVec.ofNat 32 w)).setG (pairOf a)
          (BitVec.ofNat 32 (w / 2 ^ 32)))).zNext z.val)) ∧
      (ZAt u z.val .qdone s1 → exec (.qdone t z) s =
        .next (((s1.setZcore z.val { c with inp := none }).deliver q 1).zNext z.val)) ∧
      (∀ v, zBlkIn z.val a n s1 (s1.zLeft z.val) = .done v → ZAt u z.val (.qblk a n) s1 →
        exec (.qblk t z) s = .next (v.zNext z.val))) ∧
    (ZAt u z.val (.qnew a) s1 →
      (c.outp.isSome = true → exec (.qnew t z) s = .next (s1.zTrap z.val 6 0)) ∧
      (c.outp = none →
        let sid := streamId 14 7 (32 * z.val + (c.g a).toNat % 32)
        exec (.qnew t z) s =
          .next ((s1.setZcore z.val { c with outp := some { stream := sid, queue := s1.queueOf sid } }).zNext z.val))) ∧
    (c.outp = none →
      (ZAt u z.val (.qwrd a) s1 → exec (.qwrd t z) s = .next (s1.zTrap z.val 6 0)) ∧
      (ZAt u z.val (.qpblk a n) s1 → exec (.qpblk t z) s = .next (s1.zTrap z.val 6 0)) ∧
      (∀ x, ZAt u z.val (.qclose x) s1 → exec (.qclose t z) s = .next (s1.zTrap z.val 6 0))) ∧
    (∀ o, c.outp = some o →
      (o.words.length < 1024 → o.words.length % 8 ≠ 0 → ZAt u z.val (.qwrd a) s1 → exec (.qwrd t z) s =
        .next ((s1.setZcore z.val { c with
          outp := some { o with words := o.words ++ [(c.g a).toNat + (c.g (pairOf a)).toNat * 2 ^ 32] } }).zNext z.val)) ∧
      (o.words.length = 1024 → ZAt u z.val (.qwrd a) s1 → exec (.qwrd t z) s = .next (s1.zTrap z.val 6 0)) ∧
      (∀ v, zBlkOut z.val a n s1 1026 = .done v → ZAt u z.val (.qpblk a n) s1 →
        exec (.qpblk t z) s = .next (v.zNext z.val)) ∧
      (∀ x, ZAt u z.val (.qclose x) s1 →
        (4 ≤ o.words.length → exec (.qclose t z) s =
          .next ((if x then s1.zDiscard z.val else s1.zClose z.val o).zNext z.val)) ∧
        (o.words.length < 4 → exec (.qclose t z) s = .next (s1.zTrap z.val 6 0))))

/-- ILLEGAL_OPCODE at a word that spells no instruction traps with cause 1. INTERRUPT_TAKE of a powered core in the
main bank, outside an RPT, with an enabled line pending saves the pc in EPC, enters the shadow bank and goes to 0x20,
running again where it waited; with none pending it changes nothing. An expired TIMER stops and latches line 2; a
write of mailbox word 3 latches line 1. A watchdog enabled and expired at a running core resets it. CORE_RUN starts a
halted or trapped powered core; CORE_HALT_REQUEST clears RUN and requests the halt; 1 ms after the request, outside an
RPT, the core halts. -/
def Obligations.CoresAreInterruptedStartedAndStopped : Prop :=
  ∀ (s : State) (t : Nat) (z : Fin 4),
    let u := s.at_ t
    let c := u.zcore z.val
    (∀ w v, u.zRuns z.val = true → u.zfetch z.val c.pc.toNat = (w, true, v) → zDecode w = none →
      exec (.illegalOpcode t z) s = .next (v.zTrap z.val 1 0)) ∧
    (∀ w v i, u.zRuns z.val = true → u.zfetch z.val c.pc.toNat = (w, true, v) → zDecode w = some i →
      exec (.illegalOpcode t z) s = .next u) ∧
    (u.zPowered z.val = true → u.zState z.val = zRunning → c.rpt = none → c.bank = false →
      (u.zIrq z.val = true → exec (.interruptTake t z) s =
        .next (u.setZcore z.val { c with epc := c.pc, bank := true, pc := 0x20, fetched := none })) ∧
      (u.zIrq z.val = false → exec (.interruptTake t z) s = .next u)) ∧
    (u.zPowered z.val = true → u.zState z.val = zWaiting → c.rpt = none → c.bank = false → u.zIrq z.val = true →
      let v := u.zSetState z.val zRunning
      exec (.interruptTake t z) s =
        .next (v.setZcore z.val { v.zcore z.val with epc := c.pc, bank := true, pc := 0x20, fetched := none })) ∧
    (∀ a, c.timerAt = some a →
      (a ≤ u.now → exec (.coreTimerExpiry t z) s = .next ((u.setZcore z.val { c with timerAt := none }).zLatch z.val 2)) ∧
      (u.now < a → exec (.coreTimerExpiry t z) s = .next u)) ∧
    (∀ v : BitVec 32,
      exec (.mboxInWrite z v) s = .next ((s.wr F.ZC_MBOX_IN_DATA (z.val * 4 + 3) v.toNat).zLatch z.val 1)) ∧
    (u.zRuns z.val = true → u.on F.ZC_CTRL_WD_EN z.val = true → c.wdFrom + u.rd F.ZC_WDOG_PERIOD z.val * usF ≤ u.now →
      exec (.watchdogExpiry t z) s = .next (u.zWdReset z.val)) ∧
    (let v := u.wr F.ZC_CTRL_RUN z.val 1
     (v.zPowered z.val = true → v.zState z.val = zHalted ∨ v.zState z.val = zTrapped →
        exec (.coreRun t z) s = .next (v.zStart z.val)) ∧
      (v.zState z.val = zRunning → exec (.coreRun t z) s = .next v)) ∧
    exec (.coreHaltRequest t z) s = .next ((u.wr F.ZC_CTRL_RUN z.val 0).zHaltReq z.val) ∧
    (∀ a, c.haltAt = some a → c.rpt = none →
      (a + msF ≤ u.now → exec (.coreHaltTimeout t z) s = .next (u.zHalt z.val)) ∧
      (u.now < a + msF → exec (.coreHaltTimeout t z) s = .next u))

/-- For every command c, every rest of the queue and every state, the step of the state with c in front is exec of c
on that state with the queue's rest; with an empty queue the step answers the state itself (the model's choice, log
entry 11). The queue itself is the model's: commands take effect in the order in which they are given. -/
def Obligations.StepTakesTheFrontCommand : Prop :=
  (∀ (c : Instr) (rest : List Instr) (s : State),
    step { s with pending := c :: rest } = exec c { s with pending := rest }) ∧
  (∀ s : State, s.pending = [] → step s = .next s)

/-- Every command of the table, with every operand, answers a next state from every state: no fault and no refusal
occurs, so neither does a step stop. Commands whose conditions do not hold change nothing but the time. -/
def Obligations.EveryCommandRuns : Prop :=
  (∀ (c : Instr) (s : State), Runs c s) ∧ (∀ s : State, ∃ t, step s = .next t)

/-- In State.reset every copy of every register field reads the value that its reset gives it, no command waits, the
mode is BOOT, no queue, stream, ring, job or memory holds anything, and the instant is 0. (Where a field's table gives
no reset value, and for the retained constants, the value is the model's, log entries 3 and 5; that the part is the
VT8 is the model's choice, log entry 62.) -/
def Obligations.ResetLeavesTheResetColumn : Prop :=
  (∀ (f : Fld) (i : Nat), State.reset.rd f i = resetOf f i) ∧ State.reset.pending = [] ∧ State.reset.mode = mBoot ∧
    State.reset.jobs = [] ∧ State.reset.streams = [] ∧ State.reset.rings = [] ∧ State.reset.segMem = [] ∧
    State.reset.zmem = [] ∧ State.reset.pool = {} ∧ State.reset.out = [] ∧ State.reset.now = 0

/-- For a queue whose EN is 1, once the memories are filled, and any positive n up to the number of free cells: the
queue may take n more cells exactly when CELLS + n is at most MAX_CELLS, and CELLS + n is at most RESERVE or n is at
most the number of free cells less the sum over all other queues of max(0, RESERVE − CELLS), in integers. RESERVE is
the effective value under the limit of R308. -/
def Obligations.QueuesTakeCellsByTheirReserves : Prop :=
  ∀ (s : State) (q n : Nat), s.pool.ready = true → s.on F.QCFG_EN q = true → 0 < n → n ≤ s.freeCells →
    let others := ((honoured s.reserveLimit s.reserves).filter (fun p => p.1 ≠ q)).map
      (fun p => max 0 ((p.2 : Int) - ((s.queue p.1).cells : Int)))
    (s.mayTake q n = true ↔
      (s.queue q).cells + n ≤ s.rd F.QCFG_MAX_CELLS q ∧
        ((s.queue q).cells + n ≤ s.reserveOf q ∨ (n : Int) ≤ (s.freeCells : Int) - others.sum))

/-- A command numbered one more than the last executed, modulo 2^32, is executed: its number becomes the last one and
its reply is stored, of which at most 64 are kept, and sent. One whose number is among the stored replies is answered
by the stored reply and changes nothing else; any other changes nothing. When no earlier reply bears its number, a
command just executed and sent again is answered by the same reply and not executed. -/
def Obligations.TenonCommandsRunOnce : Prop :=
  ∀ (s : State) (t num : Nat) (f : State → Nat × State),
    (num = ((s.tenon t).lastCmd + 1) % 2 ^ 32 →
      let v := (f s).2
      let y := v.tenon t
      let x := s.tenonExec t num f
      x = (v.setTenon t { y with
        lastCmd := num
        replies := (y.replies ++ [(num, (f s).1)]).drop (y.replies.length + 1 - 64) }).send (.reply t num (f s).1) ∧
      (x.tenon t).lastCmd = num ∧ (y.replies.length ≤ 64 → (x.tenon t).replies.length ≤ 64) ∧
      ((∀ p ∈ y.replies, p.1 ≠ num) → ∀ g, x.tenonExec t num g = x.send (.reply t num (f s).1))) ∧
    (num ≠ ((s.tenon t).lastCmd + 1) % 2 ^ 32 →
      (∀ p, (s.tenon t).replies.find? (fun p => p.1 == num) = some p →
        s.tenonExec t num f = s.send (.reply t num p.2)) ∧
      ((s.tenon t).replies.find? (fun p => p.1 == num) = none → s.tenonExec t num f = s))

/-- For every Zillo instruction i whose operands its encoding admits, the word that the tables of the manual give it
has 32 bits and decodes to i, with every operand unchanged. -/
def Obligations.ZilloWordsRoundTrip : Prop :=
  ∀ i : ZOp, i.wf = true → zEncode i < 2 ^ 32 ∧ zDecode (zEncode i) = some i

/-- From every state in which the pc and EPC of every core are multiples of 4, a step whose command is an instruction
of a core, a trap, an interrupt, a timer, mailbox or watchdog event of it, or its start or halt, answers a next state
in which they are again. -/
def Obligations.ZilloAddressesStayAligned : Prop :=
  ∀ s : State, (∀ z, (s.zcore z).pc.toNat % 4 = 0 ∧ (s.zcore z).epc.toNat % 4 = 0) →
    ∀ (t : Nat) (z : Fin 4) (v : BitVec 32) (c : Instr) (rest : List Instr), s.pending = c :: rest →
      c ∈ [Instr.nop t z, .add t z, .sub t z, .and t z, .or t z, .xor t z, .shl t z, .shr t z, .sar t z,
        .mul t z, .clt t z, .addi t z, .andi t z, .shli t z, .shri t z, .movi t z, .movh t z, .ldw t z,
        .stw t z, .ldd t z, .std t z, .maxm t z, .minm t z, .seta t z, .setc t z, .geta t z, .adda t z,
        .cmac t z, .cmacr t z, .clra t z, .extc t z, .extr t z, .b t z, .bz t z, .bnz t z, .blt t z,
        .call t z, .jr t z, .rpt t z, .rptr t z, .wait t z, .reti t z, .mfc t z, .mtc t z, .sig t z,
        .halt t z, .qopen t z, .qrdd t z, .qblk t z, .qdone t z, .qnew t z, .qwrd t z, .qpblk t z,
        .qclose t z, .illegalOpcode t z, .interruptTake t z, .coreTimerExpiry t z, .watchdogExpiry t z,
        .coreRun t z, .coreHaltRequest t z, .coreHaltTimeout t z, .zcCyclesClr t z,
        .mboxInWrite z v] →
      ∃ s', step s = .next s' ∧ ∀ y, (s'.zcore y).pc.toNat % 4 = 0 ∧ (s'.zcore y).epc.toNat % 4 = 0
end

