-- ==== Sys2Proof/Laws/State.lean ====
section
/-! SUPPORT. What each update of the state leaves as it was: one theorem an update, one equation a field. -/

namespace Sys2Proof.Machine

open Sys2Proof

variable (s : State)

@[simp] theorem State.wr_frame (f : Fld) (i v : Nat) :
    (s.wr f i v).pending = s.pending ∧ (s.wr f i v).now = s.now ∧ (s.wr f i v).free = s.free ∧ (s.wr f i v).part = s.part ∧
    (s.wr f i v).poAsserted = s.poAsserted ∧ (s.wr f i v).latch = s.latch ∧ (s.wr f i v).held = s.held ∧
    (s.wr f i v).bellLow = s.bellLow ∧ (s.wr f i v).iso = s.iso ∧ (s.wr f i v).bentOff = s.bentOff ∧
    (s.wr f i v).tenons = s.tenons ∧ (s.wr f i v).plumbOff = s.plumbOff ∧ (s.wr f i v).plumb = s.plumb ∧
    (s.wr f i v).chans = s.chans ∧ (s.wr f i v).chains = s.chains ∧ (s.wr f i v).caps = s.caps ∧
    (s.wr f i v).segMem = s.segMem ∧ (s.wr f i v).xtrig = s.xtrig ∧ (s.wr f i v).stampUnits = s.stampUnits ∧
    (s.wr f i v).bentMerge = s.bentMerge ∧ (s.wr f i v).tenonMerge = s.tenonMerge ∧ (s.wr f i v).intUnits = s.intUnits ∧
    (s.wr f i v).gates = s.gates ∧ (s.wr f i v).gatesDone = s.gatesDone ∧ (s.wr f i v).loops = s.loops ∧
    (s.wr f i v).bents = s.bents ∧ (s.wr f i v).stats = s.stats ∧ (s.wr f i v).userSets = s.userSets ∧
    (s.wr f i v).streams = s.streams ∧ (s.wr f i v).losses = s.losses ∧ (s.wr f i v).pool = s.pool ∧
    (s.wr f i v).ports = s.ports ∧ (s.wr f i v).lanes = s.lanes ∧ (s.wr f i v).route = s.route ∧ (s.wr f i v).fwds = s.fwds ∧
    (s.wr f i v).inbound = s.inbound ∧ (s.wr f i v).seen = s.seen ∧ (s.wr f i v).bcastTag = s.bcastTag ∧
    (s.wr f i v).msixTable = s.msixTable ∧ (s.wr f i v).pba = s.pba ∧ (s.wr f i v).rings = s.rings ∧
    (s.wr f i v).jobs = s.jobs ∧ (s.wr f i v).nextJob = s.nextJob ∧ (s.wr f i v).lastSq = s.lastSq ∧
    (s.wr f i v).engine = s.engine ∧ (s.wr f i v).groups = s.groups ∧ (s.wr f i v).nextGroup = s.nextGroup ∧
    (s.wr f i v).fabReads = s.fabReads ∧ (s.wr f i v).pcieReads = s.pcieReads ∧ (s.wr f i v).fabWrites = s.fabWrites ∧
    (s.wr f i v).holds = s.holds ∧ (s.wr f i v).bells = s.bells ∧ (s.wr f i v).withheld = s.withheld ∧
    (s.wr f i v).tagNext = s.tagNext ∧ (s.wr f i v).seif = s.seif ∧ (s.wr f i v).zcores = s.zcores ∧
    (s.wr f i v).zmem = s.zmem ∧ (s.wr f i v).faPending = s.faPending ∧ (s.wr f i v).zdigest = s.zdigest ∧
    (s.wr f i v).secs = s.secs ∧ (s.wr f i v).secq = s.secq ∧ (s.wr f i v).dx = s.dx ∧ (s.wr f i v).boots = s.boots ∧
    (s.wr f i v).dorm = s.dorm ∧ (s.wr f i v).dieRails = s.dieRails ∧ (s.wr f i v).dieHot = s.dieHot ∧
    (s.wr f i v).tally = s.tally ∧ (s.wr f i v).tap = s.tap ∧ (s.wr f i v).out = s.out := by
  repeat' constructor

@[simp] theorem State.at__frame (t : Nat) :
    (s.at_ t).pending = s.pending ∧ (s.at_ t).free = s.free ∧ (s.at_ t).part = s.part ∧ (s.at_ t).poAsserted = s.poAsserted ∧
    (s.at_ t).regs = s.regs ∧ (s.at_ t).latch = s.latch ∧ (s.at_ t).held = s.held ∧ (s.at_ t).bellLow = s.bellLow ∧
    (s.at_ t).iso = s.iso ∧ (s.at_ t).bentOff = s.bentOff ∧ (s.at_ t).tenons = s.tenons ∧ (s.at_ t).plumbOff = s.plumbOff ∧
    (s.at_ t).plumb = s.plumb ∧ (s.at_ t).chans = s.chans ∧ (s.at_ t).chains = s.chains ∧ (s.at_ t).caps = s.caps ∧
    (s.at_ t).segMem = s.segMem ∧ (s.at_ t).xtrig = s.xtrig ∧ (s.at_ t).stampUnits = s.stampUnits ∧
    (s.at_ t).bentMerge = s.bentMerge ∧ (s.at_ t).tenonMerge = s.tenonMerge ∧ (s.at_ t).intUnits = s.intUnits ∧
    (s.at_ t).gates = s.gates ∧ (s.at_ t).gatesDone = s.gatesDone ∧ (s.at_ t).loops = s.loops ∧ (s.at_ t).bents = s.bents ∧
    (s.at_ t).stats = s.stats ∧ (s.at_ t).userSets = s.userSets ∧ (s.at_ t).streams = s.streams ∧
    (s.at_ t).losses = s.losses ∧ (s.at_ t).pool = s.pool ∧ (s.at_ t).ports = s.ports ∧ (s.at_ t).lanes = s.lanes ∧
    (s.at_ t).route = s.route ∧ (s.at_ t).fwds = s.fwds ∧ (s.at_ t).inbound = s.inbound ∧ (s.at_ t).seen = s.seen ∧
    (s.at_ t).bcastTag = s.bcastTag ∧ (s.at_ t).msixTable = s.msixTable ∧ (s.at_ t).pba = s.pba ∧ (s.at_ t).rings = s.rings ∧
    (s.at_ t).jobs = s.jobs ∧ (s.at_ t).nextJob = s.nextJob ∧ (s.at_ t).lastSq = s.lastSq ∧ (s.at_ t).engine = s.engine ∧
    (s.at_ t).groups = s.groups ∧ (s.at_ t).nextGroup = s.nextGroup ∧ (s.at_ t).fabReads = s.fabReads ∧
    (s.at_ t).pcieReads = s.pcieReads ∧ (s.at_ t).fabWrites = s.fabWrites ∧ (s.at_ t).holds = s.holds ∧
    (s.at_ t).bells = s.bells ∧ (s.at_ t).withheld = s.withheld ∧ (s.at_ t).tagNext = s.tagNext ∧ (s.at_ t).seif = s.seif ∧
    (s.at_ t).zcores = s.zcores ∧ (s.at_ t).zmem = s.zmem ∧ (s.at_ t).faPending = s.faPending ∧
    (s.at_ t).zdigest = s.zdigest ∧ (s.at_ t).secs = s.secs ∧ (s.at_ t).secq = s.secq ∧ (s.at_ t).dx = s.dx ∧
    (s.at_ t).boots = s.boots ∧ (s.at_ t).dorm = s.dorm ∧ (s.at_ t).dieRails = s.dieRails ∧ (s.at_ t).dieHot = s.dieHot ∧
    (s.at_ t).tally = s.tally ∧ (s.at_ t).tap = s.tap ∧ (s.at_ t).out = s.out := by
  repeat' constructor

@[simp] theorem State.setTenon_frame (i : Nat) (x : Tenon) :
    (s.setTenon i x).pending = s.pending ∧ (s.setTenon i x).now = s.now ∧ (s.setTenon i x).free = s.free ∧
    (s.setTenon i x).part = s.part ∧ (s.setTenon i x).poAsserted = s.poAsserted ∧ (s.setTenon i x).regs = s.regs ∧
    (s.setTenon i x).latch = s.latch ∧ (s.setTenon i x).held = s.held ∧ (s.setTenon i x).bellLow = s.bellLow ∧
    (s.setTenon i x).iso = s.iso ∧ (s.setTenon i x).bentOff = s.bentOff ∧ (s.setTenon i x).plumbOff = s.plumbOff ∧
    (s.setTenon i x).plumb = s.plumb ∧ (s.setTenon i x).chans = s.chans ∧ (s.setTenon i x).chains = s.chains ∧
    (s.setTenon i x).caps = s.caps ∧ (s.setTenon i x).segMem = s.segMem ∧ (s.setTenon i x).xtrig = s.xtrig ∧
    (s.setTenon i x).stampUnits = s.stampUnits ∧ (s.setTenon i x).bentMerge = s.bentMerge ∧
    (s.setTenon i x).tenonMerge = s.tenonMerge ∧ (s.setTenon i x).intUnits = s.intUnits ∧ (s.setTenon i x).gates = s.gates ∧
    (s.setTenon i x).gatesDone = s.gatesDone ∧ (s.setTenon i x).loops = s.loops ∧ (s.setTenon i x).bents = s.bents ∧
    (s.setTenon i x).stats = s.stats ∧ (s.setTenon i x).userSets = s.userSets ∧ (s.setTenon i x).streams = s.streams ∧
    (s.setTenon i x).losses = s.losses ∧ (s.setTenon i x).pool = s.pool ∧ (s.setTenon i x).ports = s.ports ∧
    (s.setTenon i x).lanes = s.lanes ∧ (s.setTenon i x).route = s.route ∧ (s.setTenon i x).fwds = s.fwds ∧
    (s.setTenon i x).inbound = s.inbound ∧ (s.setTenon i x).seen = s.seen ∧ (s.setTenon i x).bcastTag = s.bcastTag ∧
    (s.setTenon i x).msixTable = s.msixTable ∧ (s.setTenon i x).pba = s.pba ∧ (s.setTenon i x).rings = s.rings ∧
    (s.setTenon i x).jobs = s.jobs ∧ (s.setTenon i x).nextJob = s.nextJob ∧ (s.setTenon i x).lastSq = s.lastSq ∧
    (s.setTenon i x).engine = s.engine ∧ (s.setTenon i x).groups = s.groups ∧ (s.setTenon i x).nextGroup = s.nextGroup ∧
    (s.setTenon i x).fabReads = s.fabReads ∧ (s.setTenon i x).pcieReads = s.pcieReads ∧
    (s.setTenon i x).fabWrites = s.fabWrites ∧ (s.setTenon i x).holds = s.holds ∧ (s.setTenon i x).bells = s.bells ∧
    (s.setTenon i x).withheld = s.withheld ∧ (s.setTenon i x).tagNext = s.tagNext ∧ (s.setTenon i x).seif = s.seif ∧
    (s.setTenon i x).zcores = s.zcores ∧ (s.setTenon i x).zmem = s.zmem ∧ (s.setTenon i x).faPending = s.faPending ∧
    (s.setTenon i x).zdigest = s.zdigest ∧ (s.setTenon i x).secs = s.secs ∧ (s.setTenon i x).secq = s.secq ∧
    (s.setTenon i x).dx = s.dx ∧ (s.setTenon i x).boots = s.boots ∧ (s.setTenon i x).dorm = s.dorm ∧
    (s.setTenon i x).dieRails = s.dieRails ∧ (s.setTenon i x).dieHot = s.dieHot ∧ (s.setTenon i x).tally = s.tally ∧
    (s.setTenon i x).tap = s.tap ∧ (s.setTenon i x).out = s.out := by
  repeat' constructor

@[simp] theorem State.setChan_frame (i : Nat) (x : Chan) :
    (s.setChan i x).pending = s.pending ∧ (s.setChan i x).now = s.now ∧ (s.setChan i x).free = s.free ∧
    (s.setChan i x).part = s.part ∧ (s.setChan i x).poAsserted = s.poAsserted ∧ (s.setChan i x).regs = s.regs ∧
    (s.setChan i x).latch = s.latch ∧ (s.setChan i x).held = s.held ∧ (s.setChan i x).bellLow = s.bellLow ∧
    (s.setChan i x).iso = s.iso ∧ (s.setChan i x).bentOff = s.bentOff ∧ (s.setChan i x).tenons = s.tenons ∧
    (s.setChan i x).plumbOff = s.plumbOff ∧ (s.setChan i x).plumb = s.plumb ∧ (s.setChan i x).chains = s.chains ∧
    (s.setChan i x).caps = s.caps ∧ (s.setChan i x).segMem = s.segMem ∧ (s.setChan i x).xtrig = s.xtrig ∧
    (s.setChan i x).stampUnits = s.stampUnits ∧ (s.setChan i x).bentMerge = s.bentMerge ∧
    (s.setChan i x).tenonMerge = s.tenonMerge ∧ (s.setChan i x).intUnits = s.intUnits ∧ (s.setChan i x).gates = s.gates ∧
    (s.setChan i x).gatesDone = s.gatesDone ∧ (s.setChan i x).loops = s.loops ∧ (s.setChan i x).bents = s.bents ∧
    (s.setChan i x).stats = s.stats ∧ (s.setChan i x).userSets = s.userSets ∧ (s.setChan i x).streams = s.streams ∧
    (s.setChan i x).losses = s.losses ∧ (s.setChan i x).pool = s.pool ∧ (s.setChan i x).ports = s.ports ∧
    (s.setChan i x).lanes = s.lanes ∧ (s.setChan i x).route = s.route ∧ (s.setChan i x).fwds = s.fwds ∧
    (s.setChan i x).inbound = s.inbound ∧ (s.setChan i x).seen = s.seen ∧ (s.setChan i x).bcastTag = s.bcastTag ∧
    (s.setChan i x).msixTable = s.msixTable ∧ (s.setChan i x).pba = s.pba ∧ (s.setChan i x).rings = s.rings ∧
    (s.setChan i x).jobs = s.jobs ∧ (s.setChan i x).nextJob = s.nextJob ∧ (s.setChan i x).lastSq = s.lastSq ∧
    (s.setChan i x).engine = s.engine ∧ (s.setChan i x).groups = s.groups ∧ (s.setChan i x).nextGroup = s.nextGroup ∧
    (s.setChan i x).fabReads = s.fabReads ∧ (s.setChan i x).pcieReads = s.pcieReads ∧
    (s.setChan i x).fabWrites = s.fabWrites ∧ (s.setChan i x).holds = s.holds ∧ (s.setChan i x).bells = s.bells ∧
    (s.setChan i x).withheld = s.withheld ∧ (s.setChan i x).tagNext = s.tagNext ∧ (s.setChan i x).seif = s.seif ∧
    (s.setChan i x).zcores = s.zcores ∧ (s.setChan i x).zmem = s.zmem ∧ (s.setChan i x).faPending = s.faPending ∧
    (s.setChan i x).zdigest = s.zdigest ∧ (s.setChan i x).secs = s.secs ∧ (s.setChan i x).secq = s.secq ∧
    (s.setChan i x).dx = s.dx ∧ (s.setChan i x).boots = s.boots ∧ (s.setChan i x).dorm = s.dorm ∧
    (s.setChan i x).dieRails = s.dieRails ∧ (s.setChan i x).dieHot = s.dieHot ∧ (s.setChan i x).tally = s.tally ∧
    (s.setChan i x).tap = s.tap ∧ (s.setChan i x).out = s.out := by
  repeat' constructor

@[simp] theorem State.setChain_frame (i : Nat) (x : Chain) :
    (s.setChain i x).pending = s.pending ∧ (s.setChain i x).now = s.now ∧ (s.setChain i x).free = s.free ∧
    (s.setChain i x).part = s.part ∧ (s.setChain i x).poAsserted = s.poAsserted ∧ (s.setChain i x).regs = s.regs ∧
    (s.setChain i x).latch = s.latch ∧ (s.setChain i x).held = s.held ∧ (s.setChain i x).bellLow = s.bellLow ∧
    (s.setChain i x).iso = s.iso ∧ (s.setChain i x).bentOff = s.bentOff ∧ (s.setChain i x).tenons = s.tenons ∧
    (s.setChain i x).plumbOff = s.plumbOff ∧ (s.setChain i x).plumb = s.plumb ∧ (s.setChain i x).chans = s.chans ∧
    (s.setChain i x).caps = s.caps ∧ (s.setChain i x).segMem = s.segMem ∧ (s.setChain i x).xtrig = s.xtrig ∧
    (s.setChain i x).stampUnits = s.stampUnits ∧ (s.setChain i x).bentMerge = s.bentMerge ∧
    (s.setChain i x).tenonMerge = s.tenonMerge ∧ (s.setChain i x).intUnits = s.intUnits ∧ (s.setChain i x).gates = s.gates ∧
    (s.setChain i x).gatesDone = s.gatesDone ∧ (s.setChain i x).loops = s.loops ∧ (s.setChain i x).bents = s.bents ∧
    (s.setChain i x).stats = s.stats ∧ (s.setChain i x).userSets = s.userSets ∧ (s.setChain i x).streams = s.streams ∧
    (s.setChain i x).losses = s.losses ∧ (s.setChain i x).pool = s.pool ∧ (s.setChain i x).ports = s.ports ∧
    (s.setChain i x).lanes = s.lanes ∧ (s.setChain i x).route = s.route ∧ (s.setChain i x).fwds = s.fwds ∧
    (s.setChain i x).inbound = s.inbound ∧ (s.setChain i x).seen = s.seen ∧ (s.setChain i x).bcastTag = s.bcastTag ∧
    (s.setChain i x).msixTable = s.msixTable ∧ (s.setChain i x).pba = s.pba ∧ (s.setChain i x).rings = s.rings ∧
    (s.setChain i x).jobs = s.jobs ∧ (s.setChain i x).nextJob = s.nextJob ∧ (s.setChain i x).lastSq = s.lastSq ∧
    (s.setChain i x).engine = s.engine ∧ (s.setChain i x).groups = s.groups ∧ (s.setChain i x).nextGroup = s.nextGroup ∧
    (s.setChain i x).fabReads = s.fabReads ∧ (s.setChain i x).pcieReads = s.pcieReads ∧
    (s.setChain i x).fabWrites = s.fabWrites ∧ (s.setChain i x).holds = s.holds ∧ (s.setChain i x).bells = s.bells ∧
    (s.setChain i x).withheld = s.withheld ∧ (s.setChain i x).tagNext = s.tagNext ∧ (s.setChain i x).seif = s.seif ∧
    (s.setChain i x).zcores = s.zcores ∧ (s.setChain i x).zmem = s.zmem ∧ (s.setChain i x).faPending = s.faPending ∧
    (s.setChain i x).zdigest = s.zdigest ∧ (s.setChain i x).secs = s.secs ∧ (s.setChain i x).secq = s.secq ∧
    (s.setChain i x).dx = s.dx ∧ (s.setChain i x).boots = s.boots ∧ (s.setChain i x).dorm = s.dorm ∧
    (s.setChain i x).dieRails = s.dieRails ∧ (s.setChain i x).dieHot = s.dieHot ∧ (s.setChain i x).tally = s.tally ∧
    (s.setChain i x).tap = s.tap ∧ (s.setChain i x).out = s.out := by
  repeat' constructor

@[simp] theorem State.setCap_frame (i : Nat) (x : Cap) :
    (s.setCap i x).pending = s.pending ∧ (s.setCap i x).now = s.now ∧ (s.setCap i x).free = s.free ∧
    (s.setCap i x).part = s.part ∧ (s.setCap i x).poAsserted = s.poAsserted ∧ (s.setCap i x).regs = s.regs ∧
    (s.setCap i x).latch = s.latch ∧ (s.setCap i x).held = s.held ∧ (s.setCap i x).bellLow = s.bellLow ∧
    (s.setCap i x).iso = s.iso ∧ (s.setCap i x).bentOff = s.bentOff ∧ (s.setCap i x).tenons = s.tenons ∧
    (s.setCap i x).plumbOff = s.plumbOff ∧ (s.setCap i x).plumb = s.plumb ∧ (s.setCap i x).chans = s.chans ∧
    (s.setCap i x).chains = s.chains ∧ (s.setCap i x).segMem = s.segMem ∧ (s.setCap i x).xtrig = s.xtrig ∧
    (s.setCap i x).stampUnits = s.stampUnits ∧ (s.setCap i x).bentMerge = s.bentMerge ∧
    (s.setCap i x).tenonMerge = s.tenonMerge ∧ (s.setCap i x).intUnits = s.intUnits ∧ (s.setCap i x).gates = s.gates ∧
    (s.setCap i x).gatesDone = s.gatesDone ∧ (s.setCap i x).loops = s.loops ∧ (s.setCap i x).bents = s.bents ∧
    (s.setCap i x).stats = s.stats ∧ (s.setCap i x).userSets = s.userSets ∧ (s.setCap i x).streams = s.streams ∧
    (s.setCap i x).losses = s.losses ∧ (s.setCap i x).pool = s.pool ∧ (s.setCap i x).ports = s.ports ∧
    (s.setCap i x).lanes = s.lanes ∧ (s.setCap i x).route = s.route ∧ (s.setCap i x).fwds = s.fwds ∧
    (s.setCap i x).inbound = s.inbound ∧ (s.setCap i x).seen = s.seen ∧ (s.setCap i x).bcastTag = s.bcastTag ∧
    (s.setCap i x).msixTable = s.msixTable ∧ (s.setCap i x).pba = s.pba ∧ (s.setCap i x).rings = s.rings ∧
    (s.setCap i x).jobs = s.jobs ∧ (s.setCap i x).nextJob = s.nextJob ∧ (s.setCap i x).lastSq = s.lastSq ∧
    (s.setCap i x).engine = s.engine ∧ (s.setCap i x).groups = s.groups ∧ (s.setCap i x).nextGroup = s.nextGroup ∧
    (s.setCap i x).fabReads = s.fabReads ∧ (s.setCap i x).pcieReads = s.pcieReads ∧ (s.setCap i x).fabWrites = s.fabWrites ∧
    (s.setCap i x).holds = s.holds ∧ (s.setCap i x).bells = s.bells ∧ (s.setCap i x).withheld = s.withheld ∧
    (s.setCap i x).tagNext = s.tagNext ∧ (s.setCap i x).seif = s.seif ∧ (s.setCap i x).zcores = s.zcores ∧
    (s.setCap i x).zmem = s.zmem ∧ (s.setCap i x).faPending = s.faPending ∧ (s.setCap i x).zdigest = s.zdigest ∧
    (s.setCap i x).secs = s.secs ∧ (s.setCap i x).secq = s.secq ∧ (s.setCap i x).dx = s.dx ∧ (s.setCap i x).boots = s.boots ∧
    (s.setCap i x).dorm = s.dorm ∧ (s.setCap i x).dieRails = s.dieRails ∧ (s.setCap i x).dieHot = s.dieHot ∧
    (s.setCap i x).tally = s.tally ∧ (s.setCap i x).tap = s.tap ∧ (s.setCap i x).out = s.out := by
  repeat' constructor

@[simp] theorem State.setStream_frame (i : Nat) (x : StreamSt) :
    (s.setStream i x).pending = s.pending ∧ (s.setStream i x).now = s.now ∧ (s.setStream i x).free = s.free ∧
    (s.setStream i x).part = s.part ∧ (s.setStream i x).poAsserted = s.poAsserted ∧ (s.setStream i x).regs = s.regs ∧
    (s.setStream i x).latch = s.latch ∧ (s.setStream i x).held = s.held ∧ (s.setStream i x).bellLow = s.bellLow ∧
    (s.setStream i x).iso = s.iso ∧ (s.setStream i x).bentOff = s.bentOff ∧ (s.setStream i x).tenons = s.tenons ∧
    (s.setStream i x).plumbOff = s.plumbOff ∧ (s.setStream i x).plumb = s.plumb ∧ (s.setStream i x).chans = s.chans ∧
    (s.setStream i x).chains = s.chains ∧ (s.setStream i x).caps = s.caps ∧ (s.setStream i x).segMem = s.segMem ∧
    (s.setStream i x).xtrig = s.xtrig ∧ (s.setStream i x).stampUnits = s.stampUnits ∧
    (s.setStream i x).bentMerge = s.bentMerge ∧ (s.setStream i x).tenonMerge = s.tenonMerge ∧
    (s.setStream i x).intUnits = s.intUnits ∧ (s.setStream i x).gates = s.gates ∧ (s.setStream i x).gatesDone = s.gatesDone ∧
    (s.setStream i x).loops = s.loops ∧ (s.setStream i x).bents = s.bents ∧ (s.setStream i x).stats = s.stats ∧
    (s.setStream i x).userSets = s.userSets ∧ (s.setStream i x).losses = s.losses ∧ (s.setStream i x).pool = s.pool ∧
    (s.setStream i x).ports = s.ports ∧ (s.setStream i x).lanes = s.lanes ∧ (s.setStream i x).route = s.route ∧
    (s.setStream i x).fwds = s.fwds ∧ (s.setStream i x).inbound = s.inbound ∧ (s.setStream i x).seen = s.seen ∧
    (s.setStream i x).bcastTag = s.bcastTag ∧ (s.setStream i x).msixTable = s.msixTable ∧ (s.setStream i x).pba = s.pba ∧
    (s.setStream i x).rings = s.rings ∧ (s.setStream i x).jobs = s.jobs ∧ (s.setStream i x).nextJob = s.nextJob ∧
    (s.setStream i x).lastSq = s.lastSq ∧ (s.setStream i x).engine = s.engine ∧ (s.setStream i x).groups = s.groups ∧
    (s.setStream i x).nextGroup = s.nextGroup ∧ (s.setStream i x).fabReads = s.fabReads ∧
    (s.setStream i x).pcieReads = s.pcieReads ∧ (s.setStream i x).fabWrites = s.fabWrites ∧
    (s.setStream i x).holds = s.holds ∧ (s.setStream i x).bells = s.bells ∧ (s.setStream i x).withheld = s.withheld ∧
    (s.setStream i x).tagNext = s.tagNext ∧ (s.setStream i x).seif = s.seif ∧ (s.setStream i x).zcores = s.zcores ∧
    (s.setStream i x).zmem = s.zmem ∧ (s.setStream i x).faPending = s.faPending ∧ (s.setStream i x).zdigest = s.zdigest ∧
    (s.setStream i x).secs = s.secs ∧ (s.setStream i x).secq = s.secq ∧ (s.setStream i x).dx = s.dx ∧
    (s.setStream i x).boots = s.boots ∧ (s.setStream i x).dorm = s.dorm ∧ (s.setStream i x).dieRails = s.dieRails ∧
    (s.setStream i x).dieHot = s.dieHot ∧ (s.setStream i x).tally = s.tally ∧ (s.setStream i x).tap = s.tap ∧
    (s.setStream i x).out = s.out := by
  repeat' constructor

@[simp] theorem State.setQueue_frame (i : Nat) (x : Queue) :
    (s.setQueue i x).pending = s.pending ∧ (s.setQueue i x).now = s.now ∧ (s.setQueue i x).free = s.free ∧
    (s.setQueue i x).part = s.part ∧ (s.setQueue i x).poAsserted = s.poAsserted ∧ (s.setQueue i x).regs = s.regs ∧
    (s.setQueue i x).latch = s.latch ∧ (s.setQueue i x).held = s.held ∧ (s.setQueue i x).bellLow = s.bellLow ∧
    (s.setQueue i x).iso = s.iso ∧ (s.setQueue i x).bentOff = s.bentOff ∧ (s.setQueue i x).tenons = s.tenons ∧
    (s.setQueue i x).plumbOff = s.plumbOff ∧ (s.setQueue i x).plumb = s.plumb ∧ (s.setQueue i x).chans = s.chans ∧
    (s.setQueue i x).chains = s.chains ∧ (s.setQueue i x).caps = s.caps ∧ (s.setQueue i x).segMem = s.segMem ∧
    (s.setQueue i x).xtrig = s.xtrig ∧ (s.setQueue i x).stampUnits = s.stampUnits ∧
    (s.setQueue i x).bentMerge = s.bentMerge ∧ (s.setQueue i x).tenonMerge = s.tenonMerge ∧
    (s.setQueue i x).intUnits = s.intUnits ∧ (s.setQueue i x).gates = s.gates ∧ (s.setQueue i x).gatesDone = s.gatesDone ∧
    (s.setQueue i x).loops = s.loops ∧ (s.setQueue i x).bents = s.bents ∧ (s.setQueue i x).stats = s.stats ∧
    (s.setQueue i x).userSets = s.userSets ∧ (s.setQueue i x).streams = s.streams ∧ (s.setQueue i x).losses = s.losses ∧
    (s.setQueue i x).ports = s.ports ∧ (s.setQueue i x).lanes = s.lanes ∧ (s.setQueue i x).route = s.route ∧
    (s.setQueue i x).fwds = s.fwds ∧ (s.setQueue i x).inbound = s.inbound ∧ (s.setQueue i x).seen = s.seen ∧
    (s.setQueue i x).bcastTag = s.bcastTag ∧ (s.setQueue i x).msixTable = s.msixTable ∧ (s.setQueue i x).pba = s.pba ∧
    (s.setQueue i x).rings = s.rings ∧ (s.setQueue i x).jobs = s.jobs ∧ (s.setQueue i x).nextJob = s.nextJob ∧
    (s.setQueue i x).lastSq = s.lastSq ∧ (s.setQueue i x).engine = s.engine ∧ (s.setQueue i x).groups = s.groups ∧
    (s.setQueue i x).nextGroup = s.nextGroup ∧ (s.setQueue i x).fabReads = s.fabReads ∧
    (s.setQueue i x).pcieReads = s.pcieReads ∧ (s.setQueue i x).fabWrites = s.fabWrites ∧ (s.setQueue i x).holds = s.holds ∧
    (s.setQueue i x).bells = s.bells ∧ (s.setQueue i x).withheld = s.withheld ∧ (s.setQueue i x).tagNext = s.tagNext ∧
    (s.setQueue i x).seif = s.seif ∧ (s.setQueue i x).zcores = s.zcores ∧ (s.setQueue i x).zmem = s.zmem ∧
    (s.setQueue i x).faPending = s.faPending ∧ (s.setQueue i x).zdigest = s.zdigest ∧ (s.setQueue i x).secs = s.secs ∧
    (s.setQueue i x).secq = s.secq ∧ (s.setQueue i x).dx = s.dx ∧ (s.setQueue i x).boots = s.boots ∧
    (s.setQueue i x).dorm = s.dorm ∧ (s.setQueue i x).dieRails = s.dieRails ∧ (s.setQueue i x).dieHot = s.dieHot ∧
    (s.setQueue i x).tally = s.tally ∧ (s.setQueue i x).tap = s.tap ∧ (s.setQueue i x).out = s.out := by
  repeat' constructor

@[simp] theorem State.setProd_frame (i : Nat) (x : Prod) :
    (s.setProd i x).pending = s.pending ∧ (s.setProd i x).now = s.now ∧ (s.setProd i x).free = s.free ∧
    (s.setProd i x).part = s.part ∧ (s.setProd i x).poAsserted = s.poAsserted ∧ (s.setProd i x).regs = s.regs ∧
    (s.setProd i x).latch = s.latch ∧ (s.setProd i x).held = s.held ∧ (s.setProd i x).bellLow = s.bellLow ∧
    (s.setProd i x).iso = s.iso ∧ (s.setProd i x).bentOff = s.bentOff ∧ (s.setProd i x).tenons = s.tenons ∧
    (s.setProd i x).plumbOff = s.plumbOff ∧ (s.setProd i x).plumb = s.plumb ∧ (s.setProd i x).chans = s.chans ∧
    (s.setProd i x).chains = s.chains ∧ (s.setProd i x).caps = s.caps ∧ (s.setProd i x).segMem = s.segMem ∧
    (s.setProd i x).xtrig = s.xtrig ∧ (s.setProd i x).stampUnits = s.stampUnits ∧ (s.setProd i x).bentMerge = s.bentMerge ∧
    (s.setProd i x).tenonMerge = s.tenonMerge ∧ (s.setProd i x).intUnits = s.intUnits ∧ (s.setProd i x).gates = s.gates ∧
    (s.setProd i x).gatesDone = s.gatesDone ∧ (s.setProd i x).loops = s.loops ∧ (s.setProd i x).bents = s.bents ∧
    (s.setProd i x).stats = s.stats ∧ (s.setProd i x).userSets = s.userSets ∧ (s.setProd i x).streams = s.streams ∧
    (s.setProd i x).losses = s.losses ∧ (s.setProd i x).ports = s.ports ∧ (s.setProd i x).lanes = s.lanes ∧
    (s.setProd i x).route = s.route ∧ (s.setProd i x).fwds = s.fwds ∧ (s.setProd i x).inbound = s.inbound ∧
    (s.setProd i x).seen = s.seen ∧ (s.setProd i x).bcastTag = s.bcastTag ∧ (s.setProd i x).msixTable = s.msixTable ∧
    (s.setProd i x).pba = s.pba ∧ (s.setProd i x).rings = s.rings ∧ (s.setProd i x).jobs = s.jobs ∧
    (s.setProd i x).nextJob = s.nextJob ∧ (s.setProd i x).lastSq = s.lastSq ∧ (s.setProd i x).engine = s.engine ∧
    (s.setProd i x).groups = s.groups ∧ (s.setProd i x).nextGroup = s.nextGroup ∧ (s.setProd i x).fabReads = s.fabReads ∧
    (s.setProd i x).pcieReads = s.pcieReads ∧ (s.setProd i x).fabWrites = s.fabWrites ∧ (s.setProd i x).holds = s.holds ∧
    (s.setProd i x).bells = s.bells ∧ (s.setProd i x).withheld = s.withheld ∧ (s.setProd i x).tagNext = s.tagNext ∧
    (s.setProd i x).seif = s.seif ∧ (s.setProd i x).zcores = s.zcores ∧ (s.setProd i x).zmem = s.zmem ∧
    (s.setProd i x).faPending = s.faPending ∧ (s.setProd i x).zdigest = s.zdigest ∧ (s.setProd i x).secs = s.secs ∧
    (s.setProd i x).secq = s.secq ∧ (s.setProd i x).dx = s.dx ∧ (s.setProd i x).boots = s.boots ∧
    (s.setProd i x).dorm = s.dorm ∧ (s.setProd i x).dieRails = s.dieRails ∧ (s.setProd i x).dieHot = s.dieHot ∧
    (s.setProd i x).tally = s.tally ∧ (s.setProd i x).tap = s.tap ∧ (s.setProd i x).out = s.out := by
  repeat' constructor

@[simp] theorem State.setIso_frame (k i : Nat) (c : Option Nat) :
    (s.setIso k i c).pending = s.pending ∧ (s.setIso k i c).now = s.now ∧ (s.setIso k i c).free = s.free ∧
    (s.setIso k i c).part = s.part ∧ (s.setIso k i c).poAsserted = s.poAsserted ∧ (s.setIso k i c).regs = s.regs ∧
    (s.setIso k i c).latch = s.latch ∧ (s.setIso k i c).held = s.held ∧ (s.setIso k i c).bellLow = s.bellLow ∧
    (s.setIso k i c).bentOff = s.bentOff ∧ (s.setIso k i c).tenons = s.tenons ∧ (s.setIso k i c).plumbOff = s.plumbOff ∧
    (s.setIso k i c).plumb = s.plumb ∧ (s.setIso k i c).chans = s.chans ∧ (s.setIso k i c).chains = s.chains ∧
    (s.setIso k i c).caps = s.caps ∧ (s.setIso k i c).segMem = s.segMem ∧ (s.setIso k i c).xtrig = s.xtrig ∧
    (s.setIso k i c).stampUnits = s.stampUnits ∧ (s.setIso k i c).bentMerge = s.bentMerge ∧
    (s.setIso k i c).tenonMerge = s.tenonMerge ∧ (s.setIso k i c).intUnits = s.intUnits ∧ (s.setIso k i c).gates = s.gates ∧
    (s.setIso k i c).gatesDone = s.gatesDone ∧ (s.setIso k i c).loops = s.loops ∧ (s.setIso k i c).bents = s.bents ∧
    (s.setIso k i c).stats = s.stats ∧ (s.setIso k i c).userSets = s.userSets ∧ (s.setIso k i c).streams = s.streams ∧
    (s.setIso k i c).losses = s.losses ∧ (s.setIso k i c).pool = s.pool ∧ (s.setIso k i c).ports = s.ports ∧
    (s.setIso k i c).lanes = s.lanes ∧ (s.setIso k i c).route = s.route ∧ (s.setIso k i c).fwds = s.fwds ∧
    (s.setIso k i c).inbound = s.inbound ∧ (s.setIso k i c).seen = s.seen ∧ (s.setIso k i c).bcastTag = s.bcastTag ∧
    (s.setIso k i c).msixTable = s.msixTable ∧ (s.setIso k i c).pba = s.pba ∧ (s.setIso k i c).rings = s.rings ∧
    (s.setIso k i c).jobs = s.jobs ∧ (s.setIso k i c).nextJob = s.nextJob ∧ (s.setIso k i c).lastSq = s.lastSq ∧
    (s.setIso k i c).engine = s.engine ∧ (s.setIso k i c).groups = s.groups ∧ (s.setIso k i c).nextGroup = s.nextGroup ∧
    (s.setIso k i c).fabReads = s.fabReads ∧ (s.setIso k i c).pcieReads = s.pcieReads ∧
    (s.setIso k i c).fabWrites = s.fabWrites ∧ (s.setIso k i c).holds = s.holds ∧ (s.setIso k i c).bells = s.bells ∧
    (s.setIso k i c).withheld = s.withheld ∧ (s.setIso k i c).tagNext = s.tagNext ∧ (s.setIso k i c).seif = s.seif ∧
    (s.setIso k i c).zcores = s.zcores ∧ (s.setIso k i c).zmem = s.zmem ∧ (s.setIso k i c).faPending = s.faPending ∧
    (s.setIso k i c).zdigest = s.zdigest ∧ (s.setIso k i c).secs = s.secs ∧ (s.setIso k i c).secq = s.secq ∧
    (s.setIso k i c).dx = s.dx ∧ (s.setIso k i c).boots = s.boots ∧ (s.setIso k i c).dorm = s.dorm ∧
    (s.setIso k i c).dieRails = s.dieRails ∧ (s.setIso k i c).dieHot = s.dieHot ∧ (s.setIso k i c).tally = s.tally ∧
    (s.setIso k i c).tap = s.tap ∧ (s.setIso k i c).out = s.out := by
  repeat' constructor

@[simp] theorem State.setLoss_frame (k i : Nat) (l : Option LossPend) :
    (s.setLoss k i l).pending = s.pending ∧ (s.setLoss k i l).now = s.now ∧ (s.setLoss k i l).free = s.free ∧
    (s.setLoss k i l).part = s.part ∧ (s.setLoss k i l).poAsserted = s.poAsserted ∧ (s.setLoss k i l).regs = s.regs ∧
    (s.setLoss k i l).latch = s.latch ∧ (s.setLoss k i l).held = s.held ∧ (s.setLoss k i l).bellLow = s.bellLow ∧
    (s.setLoss k i l).iso = s.iso ∧ (s.setLoss k i l).bentOff = s.bentOff ∧ (s.setLoss k i l).tenons = s.tenons ∧
    (s.setLoss k i l).plumbOff = s.plumbOff ∧ (s.setLoss k i l).plumb = s.plumb ∧ (s.setLoss k i l).chans = s.chans ∧
    (s.setLoss k i l).chains = s.chains ∧ (s.setLoss k i l).caps = s.caps ∧ (s.setLoss k i l).segMem = s.segMem ∧
    (s.setLoss k i l).xtrig = s.xtrig ∧ (s.setLoss k i l).stampUnits = s.stampUnits ∧
    (s.setLoss k i l).bentMerge = s.bentMerge ∧ (s.setLoss k i l).tenonMerge = s.tenonMerge ∧
    (s.setLoss k i l).intUnits = s.intUnits ∧ (s.setLoss k i l).gates = s.gates ∧ (s.setLoss k i l).gatesDone = s.gatesDone ∧
    (s.setLoss k i l).loops = s.loops ∧ (s.setLoss k i l).bents = s.bents ∧ (s.setLoss k i l).stats = s.stats ∧
    (s.setLoss k i l).userSets = s.userSets ∧ (s.setLoss k i l).streams = s.streams ∧ (s.setLoss k i l).pool = s.pool ∧
    (s.setLoss k i l).ports = s.ports ∧ (s.setLoss k i l).lanes = s.lanes ∧ (s.setLoss k i l).route = s.route ∧
    (s.setLoss k i l).fwds = s.fwds ∧ (s.setLoss k i l).inbound = s.inbound ∧ (s.setLoss k i l).seen = s.seen ∧
    (s.setLoss k i l).bcastTag = s.bcastTag ∧ (s.setLoss k i l).msixTable = s.msixTable ∧ (s.setLoss k i l).pba = s.pba ∧
    (s.setLoss k i l).rings = s.rings ∧ (s.setLoss k i l).jobs = s.jobs ∧ (s.setLoss k i l).nextJob = s.nextJob ∧
    (s.setLoss k i l).lastSq = s.lastSq ∧ (s.setLoss k i l).engine = s.engine ∧ (s.setLoss k i l).groups = s.groups ∧
    (s.setLoss k i l).nextGroup = s.nextGroup ∧ (s.setLoss k i l).fabReads = s.fabReads ∧
    (s.setLoss k i l).pcieReads = s.pcieReads ∧ (s.setLoss k i l).fabWrites = s.fabWrites ∧
    (s.setLoss k i l).holds = s.holds ∧ (s.setLoss k i l).bells = s.bells ∧ (s.setLoss k i l).withheld = s.withheld ∧
    (s.setLoss k i l).tagNext = s.tagNext ∧ (s.setLoss k i l).seif = s.seif ∧ (s.setLoss k i l).zcores = s.zcores ∧
    (s.setLoss k i l).zmem = s.zmem ∧ (s.setLoss k i l).faPending = s.faPending ∧ (s.setLoss k i l).zdigest = s.zdigest ∧
    (s.setLoss k i l).secs = s.secs ∧ (s.setLoss k i l).secq = s.secq ∧ (s.setLoss k i l).dx = s.dx ∧
    (s.setLoss k i l).boots = s.boots ∧ (s.setLoss k i l).dorm = s.dorm ∧ (s.setLoss k i l).dieRails = s.dieRails ∧
    (s.setLoss k i l).dieHot = s.dieHot ∧ (s.setLoss k i l).tally = s.tally ∧ (s.setLoss k i l).tap = s.tap ∧
    (s.setLoss k i l).out = s.out := by
  repeat' constructor

@[simp] theorem State.setPort_frame (i : Nat) (x : Port) :
    (s.setPort i x).pending = s.pending ∧ (s.setPort i x).now = s.now ∧ (s.setPort i x).free = s.free ∧
    (s.setPort i x).part = s.part ∧ (s.setPort i x).poAsserted = s.poAsserted ∧ (s.setPort i x).regs = s.regs ∧
    (s.setPort i x).latch = s.latch ∧ (s.setPort i x).held = s.held ∧ (s.setPort i x).bellLow = s.bellLow ∧
    (s.setPort i x).iso = s.iso ∧ (s.setPort i x).bentOff = s.bentOff ∧ (s.setPort i x).tenons = s.tenons ∧
    (s.setPort i x).plumbOff = s.plumbOff ∧ (s.setPort i x).plumb = s.plumb ∧ (s.setPort i x).chans = s.chans ∧
    (s.setPort i x).chains = s.chains ∧ (s.setPort i x).caps = s.caps ∧ (s.setPort i x).segMem = s.segMem ∧
    (s.setPort i x).xtrig = s.xtrig ∧ (s.setPort i x).stampUnits = s.stampUnits ∧ (s.setPort i x).bentMerge = s.bentMerge ∧
    (s.setPort i x).tenonMerge = s.tenonMerge ∧ (s.setPort i x).intUnits = s.intUnits ∧ (s.setPort i x).gates = s.gates ∧
    (s.setPort i x).gatesDone = s.gatesDone ∧ (s.setPort i x).loops = s.loops ∧ (s.setPort i x).bents = s.bents ∧
    (s.setPort i x).stats = s.stats ∧ (s.setPort i x).userSets = s.userSets ∧ (s.setPort i x).streams = s.streams ∧
    (s.setPort i x).losses = s.losses ∧ (s.setPort i x).pool = s.pool ∧ (s.setPort i x).lanes = s.lanes ∧
    (s.setPort i x).route = s.route ∧ (s.setPort i x).fwds = s.fwds ∧ (s.setPort i x).inbound = s.inbound ∧
    (s.setPort i x).seen = s.seen ∧ (s.setPort i x).bcastTag = s.bcastTag ∧ (s.setPort i x).msixTable = s.msixTable ∧
    (s.setPort i x).pba = s.pba ∧ (s.setPort i x).rings = s.rings ∧ (s.setPort i x).jobs = s.jobs ∧
    (s.setPort i x).nextJob = s.nextJob ∧ (s.setPort i x).lastSq = s.lastSq ∧ (s.setPort i x).engine = s.engine ∧
    (s.setPort i x).groups = s.groups ∧ (s.setPort i x).nextGroup = s.nextGroup ∧ (s.setPort i x).fabReads = s.fabReads ∧
    (s.setPort i x).pcieReads = s.pcieReads ∧ (s.setPort i x).fabWrites = s.fabWrites ∧ (s.setPort i x).holds = s.holds ∧
    (s.setPort i x).bells = s.bells ∧ (s.setPort i x).withheld = s.withheld ∧ (s.setPort i x).tagNext = s.tagNext ∧
    (s.setPort i x).seif = s.seif ∧ (s.setPort i x).zcores = s.zcores ∧ (s.setPort i x).zmem = s.zmem ∧
    (s.setPort i x).faPending = s.faPending ∧ (s.setPort i x).zdigest = s.zdigest ∧ (s.setPort i x).secs = s.secs ∧
    (s.setPort i x).secq = s.secq ∧ (s.setPort i x).dx = s.dx ∧ (s.setPort i x).boots = s.boots ∧
    (s.setPort i x).dorm = s.dorm ∧ (s.setPort i x).dieRails = s.dieRails ∧ (s.setPort i x).dieHot = s.dieHot ∧
    (s.setPort i x).tally = s.tally ∧ (s.setPort i x).tap = s.tap ∧ (s.setPort i x).out = s.out := by
  repeat' constructor

@[simp] theorem State.setLane_frame (i : Nat) (x : Lane) :
    (s.setLane i x).pending = s.pending ∧ (s.setLane i x).now = s.now ∧ (s.setLane i x).free = s.free ∧
    (s.setLane i x).part = s.part ∧ (s.setLane i x).poAsserted = s.poAsserted ∧ (s.setLane i x).regs = s.regs ∧
    (s.setLane i x).latch = s.latch ∧ (s.setLane i x).held = s.held ∧ (s.setLane i x).bellLow = s.bellLow ∧
    (s.setLane i x).iso = s.iso ∧ (s.setLane i x).bentOff = s.bentOff ∧ (s.setLane i x).tenons = s.tenons ∧
    (s.setLane i x).plumbOff = s.plumbOff ∧ (s.setLane i x).plumb = s.plumb ∧ (s.setLane i x).chans = s.chans ∧
    (s.setLane i x).chains = s.chains ∧ (s.setLane i x).caps = s.caps ∧ (s.setLane i x).segMem = s.segMem ∧
    (s.setLane i x).xtrig = s.xtrig ∧ (s.setLane i x).stampUnits = s.stampUnits ∧ (s.setLane i x).bentMerge = s.bentMerge ∧
    (s.setLane i x).tenonMerge = s.tenonMerge ∧ (s.setLane i x).intUnits = s.intUnits ∧ (s.setLane i x).gates = s.gates ∧
    (s.setLane i x).gatesDone = s.gatesDone ∧ (s.setLane i x).loops = s.loops ∧ (s.setLane i x).bents = s.bents ∧
    (s.setLane i x).stats = s.stats ∧ (s.setLane i x).userSets = s.userSets ∧ (s.setLane i x).streams = s.streams ∧
    (s.setLane i x).losses = s.losses ∧ (s.setLane i x).pool = s.pool ∧ (s.setLane i x).ports = s.ports ∧
    (s.setLane i x).route = s.route ∧ (s.setLane i x).fwds = s.fwds ∧ (s.setLane i x).inbound = s.inbound ∧
    (s.setLane i x).seen = s.seen ∧ (s.setLane i x).bcastTag = s.bcastTag ∧ (s.setLane i x).msixTable = s.msixTable ∧
    (s.setLane i x).pba = s.pba ∧ (s.setLane i x).rings = s.rings ∧ (s.setLane i x).jobs = s.jobs ∧
    (s.setLane i x).nextJob = s.nextJob ∧ (s.setLane i x).lastSq = s.lastSq ∧ (s.setLane i x).engine = s.engine ∧
    (s.setLane i x).groups = s.groups ∧ (s.setLane i x).nextGroup = s.nextGroup ∧ (s.setLane i x).fabReads = s.fabReads ∧
    (s.setLane i x).pcieReads = s.pcieReads ∧ (s.setLane i x).fabWrites = s.fabWrites ∧ (s.setLane i x).holds = s.holds ∧
    (s.setLane i x).bells = s.bells ∧ (s.setLane i x).withheld = s.withheld ∧ (s.setLane i x).tagNext = s.tagNext ∧
    (s.setLane i x).seif = s.seif ∧ (s.setLane i x).zcores = s.zcores ∧ (s.setLane i x).zmem = s.zmem ∧
    (s.setLane i x).faPending = s.faPending ∧ (s.setLane i x).zdigest = s.zdigest ∧ (s.setLane i x).secs = s.secs ∧
    (s.setLane i x).secq = s.secq ∧ (s.setLane i x).dx = s.dx ∧ (s.setLane i x).boots = s.boots ∧
    (s.setLane i x).dorm = s.dorm ∧ (s.setLane i x).dieRails = s.dieRails ∧ (s.setLane i x).dieHot = s.dieHot ∧
    (s.setLane i x).tally = s.tally ∧ (s.setLane i x).tap = s.tap ∧ (s.setLane i x).out = s.out := by
  repeat' constructor

@[simp] theorem State.setMsix_frame (v w x : Nat) :
    (s.setMsix v w x).pending = s.pending ∧ (s.setMsix v w x).now = s.now ∧ (s.setMsix v w x).free = s.free ∧
    (s.setMsix v w x).part = s.part ∧ (s.setMsix v w x).poAsserted = s.poAsserted ∧ (s.setMsix v w x).regs = s.regs ∧
    (s.setMsix v w x).latch = s.latch ∧ (s.setMsix v w x).held = s.held ∧ (s.setMsix v w x).bellLow = s.bellLow ∧
    (s.setMsix v w x).iso = s.iso ∧ (s.setMsix v w x).bentOff = s.bentOff ∧ (s.setMsix v w x).tenons = s.tenons ∧
    (s.setMsix v w x).plumbOff = s.plumbOff ∧ (s.setMsix v w x).plumb = s.plumb ∧ (s.setMsix v w x).chans = s.chans ∧
    (s.setMsix v w x).chains = s.chains ∧ (s.setMsix v w x).caps = s.caps ∧ (s.setMsix v w x).segMem = s.segMem ∧
    (s.setMsix v w x).xtrig = s.xtrig ∧ (s.setMsix v w x).stampUnits = s.stampUnits ∧
    (s.setMsix v w x).bentMerge = s.bentMerge ∧ (s.setMsix v w x).tenonMerge = s.tenonMerge ∧
    (s.setMsix v w x).intUnits = s.intUnits ∧ (s.setMsix v w x).gates = s.gates ∧ (s.setMsix v w x).gatesDone = s.gatesDone ∧
    (s.setMsix v w x).loops = s.loops ∧ (s.setMsix v w x).bents = s.bents ∧ (s.setMsix v w x).stats = s.stats ∧
    (s.setMsix v w x).userSets = s.userSets ∧ (s.setMsix v w x).streams = s.streams ∧ (s.setMsix v w x).losses = s.losses ∧
    (s.setMsix v w x).pool = s.pool ∧ (s.setMsix v w x).ports = s.ports ∧ (s.setMsix v w x).lanes = s.lanes ∧
    (s.setMsix v w x).route = s.route ∧ (s.setMsix v w x).fwds = s.fwds ∧ (s.setMsix v w x).inbound = s.inbound ∧
    (s.setMsix v w x).seen = s.seen ∧ (s.setMsix v w x).bcastTag = s.bcastTag ∧ (s.setMsix v w x).pba = s.pba ∧
    (s.setMsix v w x).rings = s.rings ∧ (s.setMsix v w x).jobs = s.jobs ∧ (s.setMsix v w x).nextJob = s.nextJob ∧
    (s.setMsix v w x).lastSq = s.lastSq ∧ (s.setMsix v w x).engine = s.engine ∧ (s.setMsix v w x).groups = s.groups ∧
    (s.setMsix v w x).nextGroup = s.nextGroup ∧ (s.setMsix v w x).fabReads = s.fabReads ∧
    (s.setMsix v w x).pcieReads = s.pcieReads ∧ (s.setMsix v w x).fabWrites = s.fabWrites ∧
    (s.setMsix v w x).holds = s.holds ∧ (s.setMsix v w x).bells = s.bells ∧ (s.setMsix v w x).withheld = s.withheld ∧
    (s.setMsix v w x).tagNext = s.tagNext ∧ (s.setMsix v w x).seif = s.seif ∧ (s.setMsix v w x).zcores = s.zcores ∧
    (s.setMsix v w x).zmem = s.zmem ∧ (s.setMsix v w x).faPending = s.faPending ∧ (s.setMsix v w x).zdigest = s.zdigest ∧
    (s.setMsix v w x).secs = s.secs ∧ (s.setMsix v w x).secq = s.secq ∧ (s.setMsix v w x).dx = s.dx ∧
    (s.setMsix v w x).boots = s.boots ∧ (s.setMsix v w x).dorm = s.dorm ∧ (s.setMsix v w x).dieRails = s.dieRails ∧
    (s.setMsix v w x).dieHot = s.dieHot ∧ (s.setMsix v w x).tally = s.tally ∧ (s.setMsix v w x).tap = s.tap ∧
    (s.setMsix v w x).out = s.out := by
  repeat' constructor

@[simp] theorem State.setRing_frame (k i : Nat) (x : Ring) :
    (s.setRing k i x).pending = s.pending ∧ (s.setRing k i x).now = s.now ∧ (s.setRing k i x).free = s.free ∧
    (s.setRing k i x).part = s.part ∧ (s.setRing k i x).poAsserted = s.poAsserted ∧ (s.setRing k i x).regs = s.regs ∧
    (s.setRing k i x).latch = s.latch ∧ (s.setRing k i x).held = s.held ∧ (s.setRing k i x).bellLow = s.bellLow ∧
    (s.setRing k i x).iso = s.iso ∧ (s.setRing k i x).bentOff = s.bentOff ∧ (s.setRing k i x).tenons = s.tenons ∧
    (s.setRing k i x).plumbOff = s.plumbOff ∧ (s.setRing k i x).plumb = s.plumb ∧ (s.setRing k i x).chans = s.chans ∧
    (s.setRing k i x).chains = s.chains ∧ (s.setRing k i x).caps = s.caps ∧ (s.setRing k i x).segMem = s.segMem ∧
    (s.setRing k i x).xtrig = s.xtrig ∧ (s.setRing k i x).stampUnits = s.stampUnits ∧
    (s.setRing k i x).bentMerge = s.bentMerge ∧ (s.setRing k i x).tenonMerge = s.tenonMerge ∧
    (s.setRing k i x).intUnits = s.intUnits ∧ (s.setRing k i x).gates = s.gates ∧ (s.setRing k i x).gatesDone = s.gatesDone ∧
    (s.setRing k i x).loops = s.loops ∧ (s.setRing k i x).bents = s.bents ∧ (s.setRing k i x).stats = s.stats ∧
    (s.setRing k i x).userSets = s.userSets ∧ (s.setRing k i x).streams = s.streams ∧ (s.setRing k i x).losses = s.losses ∧
    (s.setRing k i x).pool = s.pool ∧ (s.setRing k i x).ports = s.ports ∧ (s.setRing k i x).lanes = s.lanes ∧
    (s.setRing k i x).route = s.route ∧ (s.setRing k i x).fwds = s.fwds ∧ (s.setRing k i x).inbound = s.inbound ∧
    (s.setRing k i x).seen = s.seen ∧ (s.setRing k i x).bcastTag = s.bcastTag ∧ (s.setRing k i x).msixTable = s.msixTable ∧
    (s.setRing k i x).pba = s.pba ∧ (s.setRing k i x).jobs = s.jobs ∧ (s.setRing k i x).nextJob = s.nextJob ∧
    (s.setRing k i x).lastSq = s.lastSq ∧ (s.setRing k i x).engine = s.engine ∧ (s.setRing k i x).groups = s.groups ∧
    (s.setRing k i x).nextGroup = s.nextGroup ∧ (s.setRing k i x).fabReads = s.fabReads ∧
    (s.setRing k i x).pcieReads = s.pcieReads ∧ (s.setRing k i x).fabWrites = s.fabWrites ∧
    (s.setRing k i x).holds = s.holds ∧ (s.setRing k i x).bells = s.bells ∧ (s.setRing k i x).withheld = s.withheld ∧
    (s.setRing k i x).tagNext = s.tagNext ∧ (s.setRing k i x).seif = s.seif ∧ (s.setRing k i x).zcores = s.zcores ∧
    (s.setRing k i x).zmem = s.zmem ∧ (s.setRing k i x).faPending = s.faPending ∧ (s.setRing k i x).zdigest = s.zdigest ∧
    (s.setRing k i x).secs = s.secs ∧ (s.setRing k i x).secq = s.secq ∧ (s.setRing k i x).dx = s.dx ∧
    (s.setRing k i x).boots = s.boots ∧ (s.setRing k i x).dorm = s.dorm ∧ (s.setRing k i x).dieRails = s.dieRails ∧
    (s.setRing k i x).dieHot = s.dieHot ∧ (s.setRing k i x).tally = s.tally ∧ (s.setRing k i x).tap = s.tap ∧
    (s.setRing k i x).out = s.out := by
  repeat' constructor

@[simp] theorem State.setJob_frame (jb : Job) :
    (s.setJob jb).pending = s.pending ∧ (s.setJob jb).now = s.now ∧ (s.setJob jb).free = s.free ∧
    (s.setJob jb).part = s.part ∧ (s.setJob jb).poAsserted = s.poAsserted ∧ (s.setJob jb).regs = s.regs ∧
    (s.setJob jb).latch = s.latch ∧ (s.setJob jb).held = s.held ∧ (s.setJob jb).bellLow = s.bellLow ∧
    (s.setJob jb).iso = s.iso ∧ (s.setJob jb).bentOff = s.bentOff ∧ (s.setJob jb).tenons = s.tenons ∧
    (s.setJob jb).plumbOff = s.plumbOff ∧ (s.setJob jb).plumb = s.plumb ∧ (s.setJob jb).chans = s.chans ∧
    (s.setJob jb).chains = s.chains ∧ (s.setJob jb).caps = s.caps ∧ (s.setJob jb).segMem = s.segMem ∧
    (s.setJob jb).xtrig = s.xtrig ∧ (s.setJob jb).stampUnits = s.stampUnits ∧ (s.setJob jb).bentMerge = s.bentMerge ∧
    (s.setJob jb).tenonMerge = s.tenonMerge ∧ (s.setJob jb).intUnits = s.intUnits ∧ (s.setJob jb).gates = s.gates ∧
    (s.setJob jb).gatesDone = s.gatesDone ∧ (s.setJob jb).loops = s.loops ∧ (s.setJob jb).bents = s.bents ∧
    (s.setJob jb).stats = s.stats ∧ (s.setJob jb).userSets = s.userSets ∧ (s.setJob jb).streams = s.streams ∧
    (s.setJob jb).losses = s.losses ∧ (s.setJob jb).pool = s.pool ∧ (s.setJob jb).ports = s.ports ∧
    (s.setJob jb).lanes = s.lanes ∧ (s.setJob jb).route = s.route ∧ (s.setJob jb).fwds = s.fwds ∧
    (s.setJob jb).inbound = s.inbound ∧ (s.setJob jb).seen = s.seen ∧ (s.setJob jb).bcastTag = s.bcastTag ∧
    (s.setJob jb).msixTable = s.msixTable ∧ (s.setJob jb).pba = s.pba ∧ (s.setJob jb).rings = s.rings ∧
    (s.setJob jb).nextJob = s.nextJob ∧ (s.setJob jb).lastSq = s.lastSq ∧ (s.setJob jb).engine = s.engine ∧
    (s.setJob jb).groups = s.groups ∧ (s.setJob jb).nextGroup = s.nextGroup ∧ (s.setJob jb).fabReads = s.fabReads ∧
    (s.setJob jb).pcieReads = s.pcieReads ∧ (s.setJob jb).fabWrites = s.fabWrites ∧ (s.setJob jb).holds = s.holds ∧
    (s.setJob jb).bells = s.bells ∧ (s.setJob jb).withheld = s.withheld ∧ (s.setJob jb).tagNext = s.tagNext ∧
    (s.setJob jb).seif = s.seif ∧ (s.setJob jb).zcores = s.zcores ∧ (s.setJob jb).zmem = s.zmem ∧
    (s.setJob jb).faPending = s.faPending ∧ (s.setJob jb).zdigest = s.zdigest ∧ (s.setJob jb).secs = s.secs ∧
    (s.setJob jb).secq = s.secq ∧ (s.setJob jb).dx = s.dx ∧ (s.setJob jb).boots = s.boots ∧ (s.setJob jb).dorm = s.dorm ∧
    (s.setJob jb).dieRails = s.dieRails ∧ (s.setJob jb).dieHot = s.dieHot ∧ (s.setJob jb).tally = s.tally ∧
    (s.setJob jb).tap = s.tap ∧ (s.setJob jb).out = s.out := by
  repeat' constructor

@[simp] theorem State.commit_frame (jb : Job) (status result : Nat) :
    (s.commit jb status result).pending = s.pending ∧ (s.commit jb status result).now = s.now ∧
    (s.commit jb status result).free = s.free ∧ (s.commit jb status result).part = s.part ∧
    (s.commit jb status result).poAsserted = s.poAsserted ∧ (s.commit jb status result).regs = s.regs ∧
    (s.commit jb status result).latch = s.latch ∧ (s.commit jb status result).held = s.held ∧
    (s.commit jb status result).bellLow = s.bellLow ∧ (s.commit jb status result).iso = s.iso ∧
    (s.commit jb status result).bentOff = s.bentOff ∧ (s.commit jb status result).tenons = s.tenons ∧
    (s.commit jb status result).plumbOff = s.plumbOff ∧ (s.commit jb status result).plumb = s.plumb ∧
    (s.commit jb status result).chans = s.chans ∧ (s.commit jb status result).chains = s.chains ∧
    (s.commit jb status result).caps = s.caps ∧ (s.commit jb status result).segMem = s.segMem ∧
    (s.commit jb status result).xtrig = s.xtrig ∧ (s.commit jb status result).stampUnits = s.stampUnits ∧
    (s.commit jb status result).bentMerge = s.bentMerge ∧ (s.commit jb status result).tenonMerge = s.tenonMerge ∧
    (s.commit jb status result).intUnits = s.intUnits ∧ (s.commit jb status result).gates = s.gates ∧
    (s.commit jb status result).gatesDone = s.gatesDone ∧ (s.commit jb status result).loops = s.loops ∧
    (s.commit jb status result).bents = s.bents ∧ (s.commit jb status result).stats = s.stats ∧
    (s.commit jb status result).userSets = s.userSets ∧ (s.commit jb status result).streams = s.streams ∧
    (s.commit jb status result).losses = s.losses ∧ (s.commit jb status result).pool = s.pool ∧
    (s.commit jb status result).ports = s.ports ∧ (s.commit jb status result).lanes = s.lanes ∧
    (s.commit jb status result).route = s.route ∧ (s.commit jb status result).fwds = s.fwds ∧
    (s.commit jb status result).inbound = s.inbound ∧ (s.commit jb status result).seen = s.seen ∧
    (s.commit jb status result).bcastTag = s.bcastTag ∧ (s.commit jb status result).msixTable = s.msixTable ∧
    (s.commit jb status result).pba = s.pba ∧ (s.commit jb status result).rings = s.rings ∧
    (s.commit jb status result).nextJob = s.nextJob ∧ (s.commit jb status result).lastSq = s.lastSq ∧
    (s.commit jb status result).groups = s.groups ∧ (s.commit jb status result).nextGroup = s.nextGroup ∧
    (s.commit jb status result).fabReads = s.fabReads ∧ (s.commit jb status result).pcieReads = s.pcieReads ∧
    (s.commit jb status result).fabWrites = s.fabWrites ∧ (s.commit jb status result).holds = s.holds ∧
    (s.commit jb status result).bells = s.bells ∧ (s.commit jb status result).withheld = s.withheld ∧
    (s.commit jb status result).tagNext = s.tagNext ∧ (s.commit jb status result).seif = s.seif ∧
    (s.commit jb status result).zcores = s.zcores ∧ (s.commit jb status result).zmem = s.zmem ∧
    (s.commit jb status result).faPending = s.faPending ∧ (s.commit jb status result).zdigest = s.zdigest ∧
    (s.commit jb status result).secs = s.secs ∧ (s.commit jb status result).secq = s.secq ∧
    (s.commit jb status result).dx = s.dx ∧ (s.commit jb status result).boots = s.boots ∧
    (s.commit jb status result).dorm = s.dorm ∧ (s.commit jb status result).dieRails = s.dieRails ∧
    (s.commit jb status result).dieHot = s.dieHot ∧ (s.commit jb status result).tally = s.tally ∧
    (s.commit jb status result).tap = s.tap ∧ (s.commit jb status result).out = s.out := by
  repeat' constructor

@[simp] theorem State.setStampUnit_frame (i : Nat) (x : StampUnit) :
    (s.setStampUnit i x).pending = s.pending ∧ (s.setStampUnit i x).now = s.now ∧ (s.setStampUnit i x).free = s.free ∧
    (s.setStampUnit i x).part = s.part ∧ (s.setStampUnit i x).poAsserted = s.poAsserted ∧
    (s.setStampUnit i x).regs = s.regs ∧ (s.setStampUnit i x).latch = s.latch ∧ (s.setStampUnit i x).held = s.held ∧
    (s.setStampUnit i x).bellLow = s.bellLow ∧ (s.setStampUnit i x).iso = s.iso ∧ (s.setStampUnit i x).bentOff = s.bentOff ∧
    (s.setStampUnit i x).tenons = s.tenons ∧ (s.setStampUnit i x).plumbOff = s.plumbOff ∧
    (s.setStampUnit i x).plumb = s.plumb ∧ (s.setStampUnit i x).chans = s.chans ∧ (s.setStampUnit i x).chains = s.chains ∧
    (s.setStampUnit i x).caps = s.caps ∧ (s.setStampUnit i x).segMem = s.segMem ∧ (s.setStampUnit i x).xtrig = s.xtrig ∧
    (s.setStampUnit i x).bentMerge = s.bentMerge ∧ (s.setStampUnit i x).tenonMerge = s.tenonMerge ∧
    (s.setStampUnit i x).intUnits = s.intUnits ∧ (s.setStampUnit i x).gates = s.gates ∧
    (s.setStampUnit i x).gatesDone = s.gatesDone ∧ (s.setStampUnit i x).loops = s.loops ∧
    (s.setStampUnit i x).bents = s.bents ∧ (s.setStampUnit i x).stats = s.stats ∧
    (s.setStampUnit i x).userSets = s.userSets ∧ (s.setStampUnit i x).streams = s.streams ∧
    (s.setStampUnit i x).losses = s.losses ∧ (s.setStampUnit i x).pool = s.pool ∧ (s.setStampUnit i x).ports = s.ports ∧
    (s.setStampUnit i x).lanes = s.lanes ∧ (s.setStampUnit i x).route = s.route ∧ (s.setStampUnit i x).fwds = s.fwds ∧
    (s.setStampUnit i x).inbound = s.inbound ∧ (s.setStampUnit i x).seen = s.seen ∧
    (s.setStampUnit i x).bcastTag = s.bcastTag ∧ (s.setStampUnit i x).msixTable = s.msixTable ∧
    (s.setStampUnit i x).pba = s.pba ∧ (s.setStampUnit i x).rings = s.rings ∧ (s.setStampUnit i x).jobs = s.jobs ∧
    (s.setStampUnit i x).nextJob = s.nextJob ∧ (s.setStampUnit i x).lastSq = s.lastSq ∧
    (s.setStampUnit i x).engine = s.engine ∧ (s.setStampUnit i x).groups = s.groups ∧
    (s.setStampUnit i x).nextGroup = s.nextGroup ∧ (s.setStampUnit i x).fabReads = s.fabReads ∧
    (s.setStampUnit i x).pcieReads = s.pcieReads ∧ (s.setStampUnit i x).fabWrites = s.fabWrites ∧
    (s.setStampUnit i x).holds = s.holds ∧ (s.setStampUnit i x).bells = s.bells ∧
    (s.setStampUnit i x).withheld = s.withheld ∧ (s.setStampUnit i x).tagNext = s.tagNext ∧
    (s.setStampUnit i x).seif = s.seif ∧ (s.setStampUnit i x).zcores = s.zcores ∧ (s.setStampUnit i x).zmem = s.zmem ∧
    (s.setStampUnit i x).faPending = s.faPending ∧ (s.setStampUnit i x).zdigest = s.zdigest ∧
    (s.setStampUnit i x).secs = s.secs ∧ (s.setStampUnit i x).secq = s.secq ∧ (s.setStampUnit i x).dx = s.dx ∧
    (s.setStampUnit i x).boots = s.boots ∧ (s.setStampUnit i x).dorm = s.dorm ∧ (s.setStampUnit i x).dieRails = s.dieRails ∧
    (s.setStampUnit i x).dieHot = s.dieHot ∧ (s.setStampUnit i x).tally = s.tally ∧ (s.setStampUnit i x).tap = s.tap ∧
    (s.setStampUnit i x).out = s.out := by
  repeat' constructor

@[simp] theorem State.setIntUnit_frame (i : Nat) (x : IntUnit) :
    (s.setIntUnit i x).pending = s.pending ∧ (s.setIntUnit i x).now = s.now ∧ (s.setIntUnit i x).free = s.free ∧
    (s.setIntUnit i x).part = s.part ∧ (s.setIntUnit i x).poAsserted = s.poAsserted ∧ (s.setIntUnit i x).regs = s.regs ∧
    (s.setIntUnit i x).latch = s.latch ∧ (s.setIntUnit i x).held = s.held ∧ (s.setIntUnit i x).bellLow = s.bellLow ∧
    (s.setIntUnit i x).iso = s.iso ∧ (s.setIntUnit i x).bentOff = s.bentOff ∧ (s.setIntUnit i x).tenons = s.tenons ∧
    (s.setIntUnit i x).plumbOff = s.plumbOff ∧ (s.setIntUnit i x).plumb = s.plumb ∧ (s.setIntUnit i x).chans = s.chans ∧
    (s.setIntUnit i x).chains = s.chains ∧ (s.setIntUnit i x).caps = s.caps ∧ (s.setIntUnit i x).segMem = s.segMem ∧
    (s.setIntUnit i x).xtrig = s.xtrig ∧ (s.setIntUnit i x).stampUnits = s.stampUnits ∧
    (s.setIntUnit i x).bentMerge = s.bentMerge ∧ (s.setIntUnit i x).tenonMerge = s.tenonMerge ∧
    (s.setIntUnit i x).gates = s.gates ∧ (s.setIntUnit i x).gatesDone = s.gatesDone ∧ (s.setIntUnit i x).loops = s.loops ∧
    (s.setIntUnit i x).bents = s.bents ∧ (s.setIntUnit i x).stats = s.stats ∧ (s.setIntUnit i x).userSets = s.userSets ∧
    (s.setIntUnit i x).streams = s.streams ∧ (s.setIntUnit i x).losses = s.losses ∧ (s.setIntUnit i x).pool = s.pool ∧
    (s.setIntUnit i x).ports = s.ports ∧ (s.setIntUnit i x).lanes = s.lanes ∧ (s.setIntUnit i x).route = s.route ∧
    (s.setIntUnit i x).fwds = s.fwds ∧ (s.setIntUnit i x).inbound = s.inbound ∧ (s.setIntUnit i x).seen = s.seen ∧
    (s.setIntUnit i x).bcastTag = s.bcastTag ∧ (s.setIntUnit i x).msixTable = s.msixTable ∧ (s.setIntUnit i x).pba = s.pba ∧
    (s.setIntUnit i x).rings = s.rings ∧ (s.setIntUnit i x).jobs = s.jobs ∧ (s.setIntUnit i x).nextJob = s.nextJob ∧
    (s.setIntUnit i x).lastSq = s.lastSq ∧ (s.setIntUnit i x).engine = s.engine ∧ (s.setIntUnit i x).groups = s.groups ∧
    (s.setIntUnit i x).nextGroup = s.nextGroup ∧ (s.setIntUnit i x).fabReads = s.fabReads ∧
    (s.setIntUnit i x).pcieReads = s.pcieReads ∧ (s.setIntUnit i x).fabWrites = s.fabWrites ∧
    (s.setIntUnit i x).holds = s.holds ∧ (s.setIntUnit i x).bells = s.bells ∧ (s.setIntUnit i x).withheld = s.withheld ∧
    (s.setIntUnit i x).tagNext = s.tagNext ∧ (s.setIntUnit i x).seif = s.seif ∧ (s.setIntUnit i x).zcores = s.zcores ∧
    (s.setIntUnit i x).zmem = s.zmem ∧ (s.setIntUnit i x).faPending = s.faPending ∧ (s.setIntUnit i x).zdigest = s.zdigest ∧
    (s.setIntUnit i x).secs = s.secs ∧ (s.setIntUnit i x).secq = s.secq ∧ (s.setIntUnit i x).dx = s.dx ∧
    (s.setIntUnit i x).boots = s.boots ∧ (s.setIntUnit i x).dorm = s.dorm ∧ (s.setIntUnit i x).dieRails = s.dieRails ∧
    (s.setIntUnit i x).dieHot = s.dieHot ∧ (s.setIntUnit i x).tally = s.tally ∧ (s.setIntUnit i x).tap = s.tap ∧
    (s.setIntUnit i x).out = s.out := by
  repeat' constructor

@[simp] theorem State.setLoop_frame (i : Nat) (x : Loop) :
    (s.setLoop i x).pending = s.pending ∧ (s.setLoop i x).now = s.now ∧ (s.setLoop i x).free = s.free ∧
    (s.setLoop i x).part = s.part ∧ (s.setLoop i x).poAsserted = s.poAsserted ∧ (s.setLoop i x).regs = s.regs ∧
    (s.setLoop i x).latch = s.latch ∧ (s.setLoop i x).held = s.held ∧ (s.setLoop i x).bellLow = s.bellLow ∧
    (s.setLoop i x).iso = s.iso ∧ (s.setLoop i x).bentOff = s.bentOff ∧ (s.setLoop i x).tenons = s.tenons ∧
    (s.setLoop i x).plumbOff = s.plumbOff ∧ (s.setLoop i x).plumb = s.plumb ∧ (s.setLoop i x).chans = s.chans ∧
    (s.setLoop i x).chains = s.chains ∧ (s.setLoop i x).caps = s.caps ∧ (s.setLoop i x).segMem = s.segMem ∧
    (s.setLoop i x).xtrig = s.xtrig ∧ (s.setLoop i x).stampUnits = s.stampUnits ∧ (s.setLoop i x).bentMerge = s.bentMerge ∧
    (s.setLoop i x).tenonMerge = s.tenonMerge ∧ (s.setLoop i x).intUnits = s.intUnits ∧ (s.setLoop i x).gates = s.gates ∧
    (s.setLoop i x).gatesDone = s.gatesDone ∧ (s.setLoop i x).bents = s.bents ∧ (s.setLoop i x).stats = s.stats ∧
    (s.setLoop i x).userSets = s.userSets ∧ (s.setLoop i x).streams = s.streams ∧ (s.setLoop i x).losses = s.losses ∧
    (s.setLoop i x).pool = s.pool ∧ (s.setLoop i x).ports = s.ports ∧ (s.setLoop i x).lanes = s.lanes ∧
    (s.setLoop i x).route = s.route ∧ (s.setLoop i x).fwds = s.fwds ∧ (s.setLoop i x).inbound = s.inbound ∧
    (s.setLoop i x).seen = s.seen ∧ (s.setLoop i x).bcastTag = s.bcastTag ∧ (s.setLoop i x).msixTable = s.msixTable ∧
    (s.setLoop i x).pba = s.pba ∧ (s.setLoop i x).rings = s.rings ∧ (s.setLoop i x).jobs = s.jobs ∧
    (s.setLoop i x).nextJob = s.nextJob ∧ (s.setLoop i x).lastSq = s.lastSq ∧ (s.setLoop i x).engine = s.engine ∧
    (s.setLoop i x).groups = s.groups ∧ (s.setLoop i x).nextGroup = s.nextGroup ∧ (s.setLoop i x).fabReads = s.fabReads ∧
    (s.setLoop i x).pcieReads = s.pcieReads ∧ (s.setLoop i x).fabWrites = s.fabWrites ∧ (s.setLoop i x).holds = s.holds ∧
    (s.setLoop i x).bells = s.bells ∧ (s.setLoop i x).withheld = s.withheld ∧ (s.setLoop i x).tagNext = s.tagNext ∧
    (s.setLoop i x).seif = s.seif ∧ (s.setLoop i x).zcores = s.zcores ∧ (s.setLoop i x).zmem = s.zmem ∧
    (s.setLoop i x).faPending = s.faPending ∧ (s.setLoop i x).zdigest = s.zdigest ∧ (s.setLoop i x).secs = s.secs ∧
    (s.setLoop i x).secq = s.secq ∧ (s.setLoop i x).dx = s.dx ∧ (s.setLoop i x).boots = s.boots ∧
    (s.setLoop i x).dorm = s.dorm ∧ (s.setLoop i x).dieRails = s.dieRails ∧ (s.setLoop i x).dieHot = s.dieHot ∧
    (s.setLoop i x).tally = s.tally ∧ (s.setLoop i x).tap = s.tap ∧ (s.setLoop i x).out = s.out := by
  repeat' constructor

@[simp] theorem State.setBent_frame (i : Nat) (x : Bent) :
    (s.setBent i x).pending = s.pending ∧ (s.setBent i x).now = s.now ∧ (s.setBent i x).free = s.free ∧
    (s.setBent i x).part = s.part ∧ (s.setBent i x).poAsserted = s.poAsserted ∧ (s.setBent i x).regs = s.regs ∧
    (s.setBent i x).latch = s.latch ∧ (s.setBent i x).held = s.held ∧ (s.setBent i x).bellLow = s.bellLow ∧
    (s.setBent i x).iso = s.iso ∧ (s.setBent i x).bentOff = s.bentOff ∧ (s.setBent i x).tenons = s.tenons ∧
    (s.setBent i x).plumbOff = s.plumbOff ∧ (s.setBent i x).plumb = s.plumb ∧ (s.setBent i x).chans = s.chans ∧
    (s.setBent i x).chains = s.chains ∧ (s.setBent i x).caps = s.caps ∧ (s.setBent i x).segMem = s.segMem ∧
    (s.setBent i x).xtrig = s.xtrig ∧ (s.setBent i x).stampUnits = s.stampUnits ∧ (s.setBent i x).bentMerge = s.bentMerge ∧
    (s.setBent i x).tenonMerge = s.tenonMerge ∧ (s.setBent i x).intUnits = s.intUnits ∧ (s.setBent i x).gates = s.gates ∧
    (s.setBent i x).gatesDone = s.gatesDone ∧ (s.setBent i x).loops = s.loops ∧ (s.setBent i x).stats = s.stats ∧
    (s.setBent i x).userSets = s.userSets ∧ (s.setBent i x).streams = s.streams ∧ (s.setBent i x).losses = s.losses ∧
    (s.setBent i x).pool = s.pool ∧ (s.setBent i x).ports = s.ports ∧ (s.setBent i x).lanes = s.lanes ∧
    (s.setBent i x).route = s.route ∧ (s.setBent i x).fwds = s.fwds ∧ (s.setBent i x).inbound = s.inbound ∧
    (s.setBent i x).seen = s.seen ∧ (s.setBent i x).bcastTag = s.bcastTag ∧ (s.setBent i x).msixTable = s.msixTable ∧
    (s.setBent i x).pba = s.pba ∧ (s.setBent i x).rings = s.rings ∧ (s.setBent i x).jobs = s.jobs ∧
    (s.setBent i x).nextJob = s.nextJob ∧ (s.setBent i x).lastSq = s.lastSq ∧ (s.setBent i x).engine = s.engine ∧
    (s.setBent i x).groups = s.groups ∧ (s.setBent i x).nextGroup = s.nextGroup ∧ (s.setBent i x).fabReads = s.fabReads ∧
    (s.setBent i x).pcieReads = s.pcieReads ∧ (s.setBent i x).fabWrites = s.fabWrites ∧ (s.setBent i x).holds = s.holds ∧
    (s.setBent i x).bells = s.bells ∧ (s.setBent i x).withheld = s.withheld ∧ (s.setBent i x).tagNext = s.tagNext ∧
    (s.setBent i x).seif = s.seif ∧ (s.setBent i x).zcores = s.zcores ∧ (s.setBent i x).zmem = s.zmem ∧
    (s.setBent i x).faPending = s.faPending ∧ (s.setBent i x).zdigest = s.zdigest ∧ (s.setBent i x).secs = s.secs ∧
    (s.setBent i x).secq = s.secq ∧ (s.setBent i x).dx = s.dx ∧ (s.setBent i x).boots = s.boots ∧
    (s.setBent i x).dorm = s.dorm ∧ (s.setBent i x).dieRails = s.dieRails ∧ (s.setBent i x).dieHot = s.dieHot ∧
    (s.setBent i x).tally = s.tally ∧ (s.setBent i x).tap = s.tap ∧ (s.setBent i x).out = s.out := by
  repeat' constructor

@[simp] theorem State.setZcore_frame (i : Nat) (x : ZCore) :
    (s.setZcore i x).pending = s.pending ∧ (s.setZcore i x).now = s.now ∧ (s.setZcore i x).free = s.free ∧
    (s.setZcore i x).part = s.part ∧ (s.setZcore i x).poAsserted = s.poAsserted ∧ (s.setZcore i x).regs = s.regs ∧
    (s.setZcore i x).latch = s.latch ∧ (s.setZcore i x).held = s.held ∧ (s.setZcore i x).bellLow = s.bellLow ∧
    (s.setZcore i x).iso = s.iso ∧ (s.setZcore i x).bentOff = s.bentOff ∧ (s.setZcore i x).tenons = s.tenons ∧
    (s.setZcore i x).plumbOff = s.plumbOff ∧ (s.setZcore i x).plumb = s.plumb ∧ (s.setZcore i x).chans = s.chans ∧
    (s.setZcore i x).chains = s.chains ∧ (s.setZcore i x).caps = s.caps ∧ (s.setZcore i x).segMem = s.segMem ∧
    (s.setZcore i x).xtrig = s.xtrig ∧ (s.setZcore i x).stampUnits = s.stampUnits ∧
    (s.setZcore i x).bentMerge = s.bentMerge ∧ (s.setZcore i x).tenonMerge = s.tenonMerge ∧
    (s.setZcore i x).intUnits = s.intUnits ∧ (s.setZcore i x).gates = s.gates ∧ (s.setZcore i x).gatesDone = s.gatesDone ∧
    (s.setZcore i x).loops = s.loops ∧ (s.setZcore i x).bents = s.bents ∧ (s.setZcore i x).stats = s.stats ∧
    (s.setZcore i x).userSets = s.userSets ∧ (s.setZcore i x).streams = s.streams ∧ (s.setZcore i x).losses = s.losses ∧
    (s.setZcore i x).pool = s.pool ∧ (s.setZcore i x).ports = s.ports ∧ (s.setZcore i x).lanes = s.lanes ∧
    (s.setZcore i x).route = s.route ∧ (s.setZcore i x).fwds = s.fwds ∧ (s.setZcore i x).inbound = s.inbound ∧
    (s.setZcore i x).seen = s.seen ∧ (s.setZcore i x).bcastTag = s.bcastTag ∧ (s.setZcore i x).msixTable = s.msixTable ∧
    (s.setZcore i x).pba = s.pba ∧ (s.setZcore i x).rings = s.rings ∧ (s.setZcore i x).jobs = s.jobs ∧
    (s.setZcore i x).nextJob = s.nextJob ∧ (s.setZcore i x).lastSq = s.lastSq ∧ (s.setZcore i x).engine = s.engine ∧
    (s.setZcore i x).groups = s.groups ∧ (s.setZcore i x).nextGroup = s.nextGroup ∧ (s.setZcore i x).fabReads = s.fabReads ∧
    (s.setZcore i x).pcieReads = s.pcieReads ∧ (s.setZcore i x).fabWrites = s.fabWrites ∧ (s.setZcore i x).holds = s.holds ∧
    (s.setZcore i x).bells = s.bells ∧ (s.setZcore i x).withheld = s.withheld ∧ (s.setZcore i x).tagNext = s.tagNext ∧
    (s.setZcore i x).seif = s.seif ∧ (s.setZcore i x).zmem = s.zmem ∧ (s.setZcore i x).faPending = s.faPending ∧
    (s.setZcore i x).zdigest = s.zdigest ∧ (s.setZcore i x).secs = s.secs ∧ (s.setZcore i x).secq = s.secq ∧
    (s.setZcore i x).dx = s.dx ∧ (s.setZcore i x).boots = s.boots ∧ (s.setZcore i x).dorm = s.dorm ∧
    (s.setZcore i x).dieRails = s.dieRails ∧ (s.setZcore i x).dieHot = s.dieHot ∧ (s.setZcore i x).tally = s.tally ∧
    (s.setZcore i x).tap = s.tap ∧ (s.setZcore i x).out = s.out := by
  repeat' constructor

@[simp] theorem State.setSeif_frame (i : Nat) (x : SeifEng) :
    (s.setSeif i x).pending = s.pending ∧ (s.setSeif i x).now = s.now ∧ (s.setSeif i x).free = s.free ∧
    (s.setSeif i x).part = s.part ∧ (s.setSeif i x).poAsserted = s.poAsserted ∧ (s.setSeif i x).regs = s.regs ∧
    (s.setSeif i x).latch = s.latch ∧ (s.setSeif i x).held = s.held ∧ (s.setSeif i x).bellLow = s.bellLow ∧
    (s.setSeif i x).iso = s.iso ∧ (s.setSeif i x).bentOff = s.bentOff ∧ (s.setSeif i x).tenons = s.tenons ∧
    (s.setSeif i x).plumbOff = s.plumbOff ∧ (s.setSeif i x).plumb = s.plumb ∧ (s.setSeif i x).chans = s.chans ∧
    (s.setSeif i x).chains = s.chains ∧ (s.setSeif i x).caps = s.caps ∧ (s.setSeif i x).segMem = s.segMem ∧
    (s.setSeif i x).xtrig = s.xtrig ∧ (s.setSeif i x).stampUnits = s.stampUnits ∧ (s.setSeif i x).bentMerge = s.bentMerge ∧
    (s.setSeif i x).tenonMerge = s.tenonMerge ∧ (s.setSeif i x).intUnits = s.intUnits ∧ (s.setSeif i x).gates = s.gates ∧
    (s.setSeif i x).gatesDone = s.gatesDone ∧ (s.setSeif i x).loops = s.loops ∧ (s.setSeif i x).bents = s.bents ∧
    (s.setSeif i x).stats = s.stats ∧ (s.setSeif i x).userSets = s.userSets ∧ (s.setSeif i x).streams = s.streams ∧
    (s.setSeif i x).losses = s.losses ∧ (s.setSeif i x).pool = s.pool ∧ (s.setSeif i x).ports = s.ports ∧
    (s.setSeif i x).lanes = s.lanes ∧ (s.setSeif i x).route = s.route ∧ (s.setSeif i x).fwds = s.fwds ∧
    (s.setSeif i x).inbound = s.inbound ∧ (s.setSeif i x).seen = s.seen ∧ (s.setSeif i x).bcastTag = s.bcastTag ∧
    (s.setSeif i x).msixTable = s.msixTable ∧ (s.setSeif i x).pba = s.pba ∧ (s.setSeif i x).rings = s.rings ∧
    (s.setSeif i x).jobs = s.jobs ∧ (s.setSeif i x).nextJob = s.nextJob ∧ (s.setSeif i x).lastSq = s.lastSq ∧
    (s.setSeif i x).engine = s.engine ∧ (s.setSeif i x).groups = s.groups ∧ (s.setSeif i x).nextGroup = s.nextGroup ∧
    (s.setSeif i x).fabReads = s.fabReads ∧ (s.setSeif i x).pcieReads = s.pcieReads ∧
    (s.setSeif i x).fabWrites = s.fabWrites ∧ (s.setSeif i x).holds = s.holds ∧ (s.setSeif i x).bells = s.bells ∧
    (s.setSeif i x).withheld = s.withheld ∧ (s.setSeif i x).tagNext = s.tagNext ∧ (s.setSeif i x).zcores = s.zcores ∧
    (s.setSeif i x).zmem = s.zmem ∧ (s.setSeif i x).faPending = s.faPending ∧ (s.setSeif i x).zdigest = s.zdigest ∧
    (s.setSeif i x).secs = s.secs ∧ (s.setSeif i x).secq = s.secq ∧ (s.setSeif i x).dx = s.dx ∧
    (s.setSeif i x).boots = s.boots ∧ (s.setSeif i x).dorm = s.dorm ∧ (s.setSeif i x).dieRails = s.dieRails ∧
    (s.setSeif i x).dieHot = s.dieHot ∧ (s.setSeif i x).tally = s.tally ∧ (s.setSeif i x).tap = s.tap ∧
    (s.setSeif i x).out = s.out := by
  repeat' constructor

@[simp] theorem State.setFwd_frame (i : Nat) (x : Fwd) :
    (s.setFwd i x).pending = s.pending ∧ (s.setFwd i x).now = s.now ∧ (s.setFwd i x).free = s.free ∧
    (s.setFwd i x).part = s.part ∧ (s.setFwd i x).poAsserted = s.poAsserted ∧ (s.setFwd i x).regs = s.regs ∧
    (s.setFwd i x).latch = s.latch ∧ (s.setFwd i x).held = s.held ∧ (s.setFwd i x).bellLow = s.bellLow ∧
    (s.setFwd i x).iso = s.iso ∧ (s.setFwd i x).bentOff = s.bentOff ∧ (s.setFwd i x).tenons = s.tenons ∧
    (s.setFwd i x).plumbOff = s.plumbOff ∧ (s.setFwd i x).plumb = s.plumb ∧ (s.setFwd i x).chans = s.chans ∧
    (s.setFwd i x).chains = s.chains ∧ (s.setFwd i x).caps = s.caps ∧ (s.setFwd i x).segMem = s.segMem ∧
    (s.setFwd i x).xtrig = s.xtrig ∧ (s.setFwd i x).stampUnits = s.stampUnits ∧ (s.setFwd i x).bentMerge = s.bentMerge ∧
    (s.setFwd i x).tenonMerge = s.tenonMerge ∧ (s.setFwd i x).intUnits = s.intUnits ∧ (s.setFwd i x).gates = s.gates ∧
    (s.setFwd i x).gatesDone = s.gatesDone ∧ (s.setFwd i x).loops = s.loops ∧ (s.setFwd i x).bents = s.bents ∧
    (s.setFwd i x).stats = s.stats ∧ (s.setFwd i x).userSets = s.userSets ∧ (s.setFwd i x).streams = s.streams ∧
    (s.setFwd i x).losses = s.losses ∧ (s.setFwd i x).pool = s.pool ∧ (s.setFwd i x).ports = s.ports ∧
    (s.setFwd i x).lanes = s.lanes ∧ (s.setFwd i x).route = s.route ∧ (s.setFwd i x).inbound = s.inbound ∧
    (s.setFwd i x).seen = s.seen ∧ (s.setFwd i x).bcastTag = s.bcastTag ∧ (s.setFwd i x).msixTable = s.msixTable ∧
    (s.setFwd i x).pba = s.pba ∧ (s.setFwd i x).rings = s.rings ∧ (s.setFwd i x).jobs = s.jobs ∧
    (s.setFwd i x).nextJob = s.nextJob ∧ (s.setFwd i x).lastSq = s.lastSq ∧ (s.setFwd i x).engine = s.engine ∧
    (s.setFwd i x).groups = s.groups ∧ (s.setFwd i x).nextGroup = s.nextGroup ∧ (s.setFwd i x).fabReads = s.fabReads ∧
    (s.setFwd i x).pcieReads = s.pcieReads ∧ (s.setFwd i x).fabWrites = s.fabWrites ∧ (s.setFwd i x).holds = s.holds ∧
    (s.setFwd i x).bells = s.bells ∧ (s.setFwd i x).withheld = s.withheld ∧ (s.setFwd i x).tagNext = s.tagNext ∧
    (s.setFwd i x).seif = s.seif ∧ (s.setFwd i x).zcores = s.zcores ∧ (s.setFwd i x).zmem = s.zmem ∧
    (s.setFwd i x).faPending = s.faPending ∧ (s.setFwd i x).zdigest = s.zdigest ∧ (s.setFwd i x).secs = s.secs ∧
    (s.setFwd i x).secq = s.secq ∧ (s.setFwd i x).dx = s.dx ∧ (s.setFwd i x).boots = s.boots ∧ (s.setFwd i x).dorm = s.dorm ∧
    (s.setFwd i x).dieRails = s.dieRails ∧ (s.setFwd i x).dieHot = s.dieHot ∧ (s.setFwd i x).tally = s.tally ∧
    (s.setFwd i x).tap = s.tap ∧ (s.setFwd i x).out = s.out := by
  repeat' constructor

@[simp] theorem State.setInb_frame (i : Nat) (x : Inbound) :
    (s.setInb i x).pending = s.pending ∧ (s.setInb i x).now = s.now ∧ (s.setInb i x).free = s.free ∧
    (s.setInb i x).part = s.part ∧ (s.setInb i x).poAsserted = s.poAsserted ∧ (s.setInb i x).regs = s.regs ∧
    (s.setInb i x).latch = s.latch ∧ (s.setInb i x).held = s.held ∧ (s.setInb i x).bellLow = s.bellLow ∧
    (s.setInb i x).iso = s.iso ∧ (s.setInb i x).bentOff = s.bentOff ∧ (s.setInb i x).tenons = s.tenons ∧
    (s.setInb i x).plumbOff = s.plumbOff ∧ (s.setInb i x).plumb = s.plumb ∧ (s.setInb i x).chans = s.chans ∧
    (s.setInb i x).chains = s.chains ∧ (s.setInb i x).caps = s.caps ∧ (s.setInb i x).segMem = s.segMem ∧
    (s.setInb i x).xtrig = s.xtrig ∧ (s.setInb i x).stampUnits = s.stampUnits ∧ (s.setInb i x).bentMerge = s.bentMerge ∧
    (s.setInb i x).tenonMerge = s.tenonMerge ∧ (s.setInb i x).intUnits = s.intUnits ∧ (s.setInb i x).gates = s.gates ∧
    (s.setInb i x).gatesDone = s.gatesDone ∧ (s.setInb i x).loops = s.loops ∧ (s.setInb i x).bents = s.bents ∧
    (s.setInb i x).stats = s.stats ∧ (s.setInb i x).userSets = s.userSets ∧ (s.setInb i x).streams = s.streams ∧
    (s.setInb i x).losses = s.losses ∧ (s.setInb i x).pool = s.pool ∧ (s.setInb i x).ports = s.ports ∧
    (s.setInb i x).lanes = s.lanes ∧ (s.setInb i x).route = s.route ∧ (s.setInb i x).fwds = s.fwds ∧
    (s.setInb i x).seen = s.seen ∧ (s.setInb i x).bcastTag = s.bcastTag ∧ (s.setInb i x).msixTable = s.msixTable ∧
    (s.setInb i x).pba = s.pba ∧ (s.setInb i x).rings = s.rings ∧ (s.setInb i x).jobs = s.jobs ∧
    (s.setInb i x).nextJob = s.nextJob ∧ (s.setInb i x).lastSq = s.lastSq ∧ (s.setInb i x).engine = s.engine ∧
    (s.setInb i x).groups = s.groups ∧ (s.setInb i x).nextGroup = s.nextGroup ∧ (s.setInb i x).fabReads = s.fabReads ∧
    (s.setInb i x).pcieReads = s.pcieReads ∧ (s.setInb i x).fabWrites = s.fabWrites ∧ (s.setInb i x).holds = s.holds ∧
    (s.setInb i x).bells = s.bells ∧ (s.setInb i x).withheld = s.withheld ∧ (s.setInb i x).tagNext = s.tagNext ∧
    (s.setInb i x).seif = s.seif ∧ (s.setInb i x).zcores = s.zcores ∧ (s.setInb i x).zmem = s.zmem ∧
    (s.setInb i x).faPending = s.faPending ∧ (s.setInb i x).zdigest = s.zdigest ∧ (s.setInb i x).secs = s.secs ∧
    (s.setInb i x).secq = s.secq ∧ (s.setInb i x).dx = s.dx ∧ (s.setInb i x).boots = s.boots ∧ (s.setInb i x).dorm = s.dorm ∧
    (s.setInb i x).dieRails = s.dieRails ∧ (s.setInb i x).dieHot = s.dieHot ∧ (s.setInb i x).tally = s.tally ∧
    (s.setInb i x).tap = s.tap ∧ (s.setInb i x).out = s.out := by
  repeat' constructor

@[simp] theorem State.setBell_frame (i : Nat) (x : BellPage) :
    (s.setBell i x).pending = s.pending ∧ (s.setBell i x).now = s.now ∧ (s.setBell i x).free = s.free ∧
    (s.setBell i x).part = s.part ∧ (s.setBell i x).poAsserted = s.poAsserted ∧ (s.setBell i x).regs = s.regs ∧
    (s.setBell i x).latch = s.latch ∧ (s.setBell i x).held = s.held ∧ (s.setBell i x).bellLow = s.bellLow ∧
    (s.setBell i x).iso = s.iso ∧ (s.setBell i x).bentOff = s.bentOff ∧ (s.setBell i x).tenons = s.tenons ∧
    (s.setBell i x).plumbOff = s.plumbOff ∧ (s.setBell i x).plumb = s.plumb ∧ (s.setBell i x).chans = s.chans ∧
    (s.setBell i x).chains = s.chains ∧ (s.setBell i x).caps = s.caps ∧ (s.setBell i x).segMem = s.segMem ∧
    (s.setBell i x).xtrig = s.xtrig ∧ (s.setBell i x).stampUnits = s.stampUnits ∧ (s.setBell i x).bentMerge = s.bentMerge ∧
    (s.setBell i x).tenonMerge = s.tenonMerge ∧ (s.setBell i x).intUnits = s.intUnits ∧ (s.setBell i x).gates = s.gates ∧
    (s.setBell i x).gatesDone = s.gatesDone ∧ (s.setBell i x).loops = s.loops ∧ (s.setBell i x).bents = s.bents ∧
    (s.setBell i x).stats = s.stats ∧ (s.setBell i x).userSets = s.userSets ∧ (s.setBell i x).streams = s.streams ∧
    (s.setBell i x).losses = s.losses ∧ (s.setBell i x).pool = s.pool ∧ (s.setBell i x).ports = s.ports ∧
    (s.setBell i x).lanes = s.lanes ∧ (s.setBell i x).route = s.route ∧ (s.setBell i x).fwds = s.fwds ∧
    (s.setBell i x).inbound = s.inbound ∧ (s.setBell i x).seen = s.seen ∧ (s.setBell i x).bcastTag = s.bcastTag ∧
    (s.setBell i x).msixTable = s.msixTable ∧ (s.setBell i x).pba = s.pba ∧ (s.setBell i x).rings = s.rings ∧
    (s.setBell i x).jobs = s.jobs ∧ (s.setBell i x).nextJob = s.nextJob ∧ (s.setBell i x).lastSq = s.lastSq ∧
    (s.setBell i x).engine = s.engine ∧ (s.setBell i x).groups = s.groups ∧ (s.setBell i x).nextGroup = s.nextGroup ∧
    (s.setBell i x).fabReads = s.fabReads ∧ (s.setBell i x).pcieReads = s.pcieReads ∧
    (s.setBell i x).fabWrites = s.fabWrites ∧ (s.setBell i x).holds = s.holds ∧ (s.setBell i x).withheld = s.withheld ∧
    (s.setBell i x).tagNext = s.tagNext ∧ (s.setBell i x).seif = s.seif ∧ (s.setBell i x).zcores = s.zcores ∧
    (s.setBell i x).zmem = s.zmem ∧ (s.setBell i x).faPending = s.faPending ∧ (s.setBell i x).zdigest = s.zdigest ∧
    (s.setBell i x).secs = s.secs ∧ (s.setBell i x).secq = s.secq ∧ (s.setBell i x).dx = s.dx ∧
    (s.setBell i x).boots = s.boots ∧ (s.setBell i x).dorm = s.dorm ∧ (s.setBell i x).dieRails = s.dieRails ∧
    (s.setBell i x).dieHot = s.dieHot ∧ (s.setBell i x).tally = s.tally ∧ (s.setBell i x).tap = s.tap ∧
    (s.setBell i x).out = s.out := by
  repeat' constructor

@[simp] theorem State.withDx_frame (f : Duplex → Duplex) :
    (s.withDx f).pending = s.pending ∧ (s.withDx f).now = s.now ∧ (s.withDx f).free = s.free ∧ (s.withDx f).part = s.part ∧
    (s.withDx f).poAsserted = s.poAsserted ∧ (s.withDx f).regs = s.regs ∧ (s.withDx f).latch = s.latch ∧
    (s.withDx f).held = s.held ∧ (s.withDx f).bellLow = s.bellLow ∧ (s.withDx f).iso = s.iso ∧
    (s.withDx f).bentOff = s.bentOff ∧ (s.withDx f).tenons = s.tenons ∧ (s.withDx f).plumbOff = s.plumbOff ∧
    (s.withDx f).plumb = s.plumb ∧ (s.withDx f).chans = s.chans ∧ (s.withDx f).chains = s.chains ∧
    (s.withDx f).caps = s.caps ∧ (s.withDx f).segMem = s.segMem ∧ (s.withDx f).xtrig = s.xtrig ∧
    (s.withDx f).stampUnits = s.stampUnits ∧ (s.withDx f).bentMerge = s.bentMerge ∧ (s.withDx f).tenonMerge = s.tenonMerge ∧
    (s.withDx f).intUnits = s.intUnits ∧ (s.withDx f).gates = s.gates ∧ (s.withDx f).gatesDone = s.gatesDone ∧
    (s.withDx f).loops = s.loops ∧ (s.withDx f).bents = s.bents ∧ (s.withDx f).stats = s.stats ∧
    (s.withDx f).userSets = s.userSets ∧ (s.withDx f).streams = s.streams ∧ (s.withDx f).losses = s.losses ∧
    (s.withDx f).pool = s.pool ∧ (s.withDx f).ports = s.ports ∧ (s.withDx f).lanes = s.lanes ∧ (s.withDx f).route = s.route ∧
    (s.withDx f).fwds = s.fwds ∧ (s.withDx f).inbound = s.inbound ∧ (s.withDx f).seen = s.seen ∧
    (s.withDx f).bcastTag = s.bcastTag ∧ (s.withDx f).msixTable = s.msixTable ∧ (s.withDx f).pba = s.pba ∧
    (s.withDx f).rings = s.rings ∧ (s.withDx f).jobs = s.jobs ∧ (s.withDx f).nextJob = s.nextJob ∧
    (s.withDx f).lastSq = s.lastSq ∧ (s.withDx f).engine = s.engine ∧ (s.withDx f).groups = s.groups ∧
    (s.withDx f).nextGroup = s.nextGroup ∧ (s.withDx f).fabReads = s.fabReads ∧ (s.withDx f).pcieReads = s.pcieReads ∧
    (s.withDx f).fabWrites = s.fabWrites ∧ (s.withDx f).holds = s.holds ∧ (s.withDx f).bells = s.bells ∧
    (s.withDx f).withheld = s.withheld ∧ (s.withDx f).tagNext = s.tagNext ∧ (s.withDx f).seif = s.seif ∧
    (s.withDx f).zcores = s.zcores ∧ (s.withDx f).zmem = s.zmem ∧ (s.withDx f).faPending = s.faPending ∧
    (s.withDx f).zdigest = s.zdigest ∧ (s.withDx f).secs = s.secs ∧ (s.withDx f).secq = s.secq ∧
    (s.withDx f).boots = s.boots ∧ (s.withDx f).dorm = s.dorm ∧ (s.withDx f).dieRails = s.dieRails ∧
    (s.withDx f).dieHot = s.dieHot ∧ (s.withDx f).tally = s.tally ∧ (s.withDx f).tap = s.tap ∧ (s.withDx f).out = s.out := by
  repeat' constructor

@[simp] theorem State.setBoot_frame (i : Nat) (x : Boot) :
    (s.setBoot i x).pending = s.pending ∧ (s.setBoot i x).now = s.now ∧ (s.setBoot i x).free = s.free ∧
    (s.setBoot i x).part = s.part ∧ (s.setBoot i x).poAsserted = s.poAsserted ∧ (s.setBoot i x).regs = s.regs ∧
    (s.setBoot i x).latch = s.latch ∧ (s.setBoot i x).held = s.held ∧ (s.setBoot i x).bellLow = s.bellLow ∧
    (s.setBoot i x).iso = s.iso ∧ (s.setBoot i x).bentOff = s.bentOff ∧ (s.setBoot i x).tenons = s.tenons ∧
    (s.setBoot i x).plumbOff = s.plumbOff ∧ (s.setBoot i x).plumb = s.plumb ∧ (s.setBoot i x).chans = s.chans ∧
    (s.setBoot i x).chains = s.chains ∧ (s.setBoot i x).caps = s.caps ∧ (s.setBoot i x).segMem = s.segMem ∧
    (s.setBoot i x).xtrig = s.xtrig ∧ (s.setBoot i x).stampUnits = s.stampUnits ∧ (s.setBoot i x).bentMerge = s.bentMerge ∧
    (s.setBoot i x).tenonMerge = s.tenonMerge ∧ (s.setBoot i x).intUnits = s.intUnits ∧ (s.setBoot i x).gates = s.gates ∧
    (s.setBoot i x).gatesDone = s.gatesDone ∧ (s.setBoot i x).loops = s.loops ∧ (s.setBoot i x).bents = s.bents ∧
    (s.setBoot i x).stats = s.stats ∧ (s.setBoot i x).userSets = s.userSets ∧ (s.setBoot i x).streams = s.streams ∧
    (s.setBoot i x).losses = s.losses ∧ (s.setBoot i x).pool = s.pool ∧ (s.setBoot i x).ports = s.ports ∧
    (s.setBoot i x).lanes = s.lanes ∧ (s.setBoot i x).route = s.route ∧ (s.setBoot i x).fwds = s.fwds ∧
    (s.setBoot i x).inbound = s.inbound ∧ (s.setBoot i x).seen = s.seen ∧ (s.setBoot i x).bcastTag = s.bcastTag ∧
    (s.setBoot i x).msixTable = s.msixTable ∧ (s.setBoot i x).pba = s.pba ∧ (s.setBoot i x).rings = s.rings ∧
    (s.setBoot i x).jobs = s.jobs ∧ (s.setBoot i x).nextJob = s.nextJob ∧ (s.setBoot i x).lastSq = s.lastSq ∧
    (s.setBoot i x).engine = s.engine ∧ (s.setBoot i x).groups = s.groups ∧ (s.setBoot i x).nextGroup = s.nextGroup ∧
    (s.setBoot i x).fabReads = s.fabReads ∧ (s.setBoot i x).pcieReads = s.pcieReads ∧
    (s.setBoot i x).fabWrites = s.fabWrites ∧ (s.setBoot i x).holds = s.holds ∧ (s.setBoot i x).bells = s.bells ∧
    (s.setBoot i x).withheld = s.withheld ∧ (s.setBoot i x).tagNext = s.tagNext ∧ (s.setBoot i x).seif = s.seif ∧
    (s.setBoot i x).zcores = s.zcores ∧ (s.setBoot i x).zmem = s.zmem ∧ (s.setBoot i x).faPending = s.faPending ∧
    (s.setBoot i x).zdigest = s.zdigest ∧ (s.setBoot i x).secs = s.secs ∧ (s.setBoot i x).secq = s.secq ∧
    (s.setBoot i x).dx = s.dx ∧ (s.setBoot i x).dorm = s.dorm ∧ (s.setBoot i x).dieRails = s.dieRails ∧
    (s.setBoot i x).dieHot = s.dieHot ∧ (s.setBoot i x).tally = s.tally ∧ (s.setBoot i x).tap = s.tap ∧
    (s.setBoot i x).out = s.out := by
  repeat' constructor

end Sys2Proof.Machine
end

