-- ==== Sys2Proof/Laws/Map.lean ====
section
/-! SUPPORT. The laws of sparse maps and of register fields: what is read after a write, and that a write keeps the
canonical form. -/

namespace Sys2Proof.Machine

open Sys2Proof

variable {α : Type}

/-- No pair of the map has key k. -/
def absent (m : SMap α) (k : Nat) : Prop := ∀ p ∈ m, p.1 ≠ k

theorem smapGet_absent (d : α) {m : SMap α} {k : Nat} (h : absent m k) : smapGet d m k = d := by
  induction m with
  | nil => rfl
  | cons p m ih =>
    have hp : p.1 ≠ k := h p List.mem_cons_self
    simp only [smapGet, hp, if_false]
    exact ih (fun q hq => h q (List.mem_cons_of_mem _ hq))

theorem smapErase_absent (m : SMap α) (k : Nat) : absent (smapErase m k) k := by
  intro p hp
  simp only [smapErase, List.mem_filter, decide_eq_true_eq] at hp
  exact hp.2

theorem smapGet_erase_other (d : α) (m : SMap α) {k j : Nat} (h : j ≠ k) :
    smapGet d (smapErase m k) j = smapGet d m j := by
  induction m with
  | nil => rfl
  | cons p m ih =>
    by_cases hk : p.1 = k
    · have he : smapErase (p :: m) k = smapErase m k := by simp [smapErase, hk]
      have hj : p.1 ≠ j := fun e => h (e.symm.trans hk)
      rw [he, ih]
      simp [smapGet, hj]
    · have he : smapErase (p :: m) k = p :: smapErase m k := by simp [smapErase, hk]
      rw [he]
      simp only [smapGet, ih]

theorem smapGet_insert_same (d v : α) {m : SMap α} {k : Nat} (h : absent m k) :
    smapGet d (smapInsert k v m) k = v := by
  induction m with
  | nil => simp [smapInsert, smapGet]
  | cons p m ih =>
    have hp : p.1 ≠ k := h p List.mem_cons_self
    by_cases hk : k < p.1
    · simp [smapInsert, smapGet, hk]
    · simp only [smapInsert, hk, if_false, smapGet, hp]
      exact ih (fun q hq => h q (List.mem_cons_of_mem _ hq))

theorem smapGet_insert_other (d v : α) (m : SMap α) {k j : Nat} (h : j ≠ k) :
    smapGet d (smapInsert k v m) j = smapGet d m j := by
  induction m with
  | nil => simp [smapInsert, smapGet, Ne.symm h]
  | cons p m ih =>
    by_cases hk : k < p.1
    · simp [smapInsert, smapGet, hk, Ne.symm h]
    · simp [smapInsert, smapGet, hk, ih]

variable [DecidableEq α]

/-- What was written is read. -/
@[simp] theorem smapGet_set_same (d : α) (m : SMap α) (k : Nat) (v : α) : smapGet d (smapSet d m k v) k = v := by
  unfold smapSet
  split
  · next h => rw [smapGet_absent d (smapErase_absent m k), h]
  · exact smapGet_insert_same d v (smapErase_absent m k)

/-- Every other key reads as before. -/
theorem smapGet_set_other (d : α) (m : SMap α) {k j : Nat} (v : α) (h : j ≠ k) :
    smapGet d (smapSet d m k v) j = smapGet d m j := by
  unfold smapSet
  split
  · exact smapGet_erase_other d m h
  · rw [smapGet_insert_other d v _ h, smapGet_erase_other d m h]

/-! ### The canonical form -/

theorem smapWf_cons {d : α} {p : Nat × α} {m : SMap α} :
    smapWf d (p :: m) = true ↔ p.2 ≠ d ∧ (∀ q ∈ m, p.1 < q.1) ∧ smapWf d m = true := by
  induction m generalizing p with
  | nil => simp [smapWf]
  | cons q m ih =>
    simp only [smapWf, Bool.and_eq_true, decide_eq_true_eq]
    constructor
    · rintro ⟨⟨h1, h2⟩, h3⟩
      refine ⟨h1, ?_, h3⟩
      intro r hr
      rcases List.mem_cons.mp hr with rfl | hr
      · exact h2
      · exact Nat.lt_trans h2 ((ih.mp h3).2.1 r hr)
    · rintro ⟨h1, h2, h3⟩
      exact ⟨⟨h1, h2 q List.mem_cons_self⟩, h3⟩

theorem smapWf_filter {d : α} {m : SMap α} (f : Nat × α → Bool) (h : smapWf d m = true) :
    smapWf d (m.filter f) = true := by
  induction m with
  | nil => rfl
  | cons p m ih =>
    obtain ⟨h1, h2, h3⟩ := smapWf_cons.mp h
    by_cases hp : f p = true
    · rw [List.filter_cons_of_pos hp]
      exact smapWf_cons.mpr ⟨h1, fun q hq => h2 q (List.mem_filter.mp hq).1, ih h3⟩
    · rw [List.filter_cons_of_neg hp]
      exact ih h3

omit [DecidableEq α] in
theorem mem_smapInsert {k : Nat} {v : α} {m : SMap α} {q : Nat × α} :
    q ∈ smapInsert k v m ↔ q = (k, v) ∨ q ∈ m := by
  induction m with
  | nil => simp [smapInsert]
  | cons p m ih =>
    by_cases hk : k < p.1
    · simp [smapInsert, hk]
    · simp only [smapInsert, hk, if_false, List.mem_cons, ih]
      exact ⟨fun h => h.elim (fun a => .inr (.inl a)) (fun h => h.elim .inl (fun a => .inr (.inr a))),
        fun h => h.elim (fun a => .inr (.inl a)) (fun h => h.elim .inl (fun a => .inr (.inr a)))⟩

theorem smapWf_insert {d v : α} {m : SMap α} {k : Nat} (hv : v ≠ d) (ha : absent m k) (h : smapWf d m = true) :
    smapWf d (smapInsert k v m) = true := by
  induction m with
  | nil => simpa [smapInsert, smapWf] using hv
  | cons p m ih =>
    obtain ⟨h1, h2, h3⟩ := smapWf_cons.mp h
    by_cases hk : k < p.1
    · simp only [smapInsert, hk, if_true]
      refine smapWf_cons.mpr ⟨hv, ?_, h⟩
      intro q hq
      rcases List.mem_cons.mp hq with rfl | hq
      · exact hk
      · exact Nat.lt_trans hk (h2 q hq)
    · have hne : p.1 ≠ k := ha p List.mem_cons_self
      simp only [smapInsert, hk, if_false]
      refine smapWf_cons.mpr ⟨h1, ?_, ih (fun q hq => ha q (List.mem_cons_of_mem _ hq)) h3⟩
      intro q hq
      rcases mem_smapInsert.mp hq with rfl | hq
      · show p.1 < k
        omega
      · exact h2 q hq

/-- A write keeps the canonical form. -/
theorem smapWf_set {d : α} {m : SMap α} (k : Nat) (v : α) (h : smapWf d m = true) :
    smapWf d (smapSet d m k v) = true := by
  unfold smapSet
  split
  · exact smapWf_filter _ h
  · next hv => exact smapWf_insert hv (smapErase_absent m k) (smapWf_filter _ h)

/-- Dropping keys keeps the canonical form. -/
theorem smapWf_drop {d : α} {m : SMap α} (p : Nat → Bool) (h : smapWf d m = true) : smapWf d (smapDrop m p) = true :=
  smapWf_filter _ h

/-! ### Register fields -/

/-- A field reads what was written to it, to its width. -/
@[simp] theorem rd_wr_same (s : State) (f : Fld) (i v : Nat) : (s.wr f i v).rd f i = v % 2 ^ f.width := by
  simp [State.rd, State.wr]

/-- A write changes no other field's copy. -/
theorem rd_wr_other (s : State) {f g : Fld} {i j : Nat} (v : Nat) (h : fkey g j ≠ fkey f i) :
    (s.wr f i v).rd g j = s.rd g j := by
  unfold State.rd State.wr
  by_cases hr : resetOf g j = resetOf f i
  · simp only [hr]
    exact smapGet_set_other _ _ _ h
  · simp only [smapSet]
    split
    · exact smapGet_erase_other _ _ h
    · rw [smapGet_insert_other _ _ _ h, smapGet_erase_other _ _ h]

/-- Copies of different fields have different keys, while their numbers stay below 2^20. -/
theorem fkey_ne {f g : Fld} {i j : Nat} (hf : f.id ≠ g.id) (hi : i < 2 ^ 20) (hj : j < 2 ^ 20) : fkey f i ≠ fkey g j := by
  unfold fkey
  omega

/-- Copies of one field with different numbers have different keys. -/
theorem fkey_copy_ne {f : Fld} {i j : Nat} (h : i ≠ j) : fkey f i ≠ fkey f j := by
  unfold fkey
  omega

end Sys2Proof.Machine
end

