-- ==== Sys2Proof/Laws/Reads.lean ====
section
/-! SUPPORT. What each update of the state leaves as it was, for the named reads of it. -/

namespace Sys2Proof.Machine

open Sys2Proof

variable (s : State)

@[simp] theorem State.wr_reads (f : Fld) (i v : Nat) :
    (∀ (k : Nat), (s.wr f i v).present k = s.present k) ∧ (∀ (k j : Nat), (s.wr f i v).isolated k j = s.isolated k j) ∧
    (∀ (k : Nat), (s.wr f i v).inService k = s.inService k) ∧ (∀ (k : Nat), (s.wr f i v).reachable k = s.reachable k) ∧
    (∀ (j : Nat), (s.wr f i v).tenon j = s.tenon j) ∧ (∀ (j : Nat), (s.wr f i v).chan j = s.chan j) ∧
    (∀ (j : Nat), (s.wr f i v).chain j = s.chain j) ∧ (∀ (j : Nat), (s.wr f i v).cap j = s.cap j) ∧
    (∀ (j : Nat), (s.wr f i v).stream j = s.stream j) ∧ (∀ (j : Nat), (s.wr f i v).queue j = s.queue j) ∧
    (∀ (j : Nat), (s.wr f i v).prod j = s.prod j) ∧ (∀ (k j : Nat), (s.wr f i v).loss k j = s.loss k j) ∧
    (∀ (j : Nat), (s.wr f i v).port j = s.port j) ∧ (∀ (j : Nat), (s.wr f i v).lane j = s.lane j) ∧
    (∀ (k j : Nat), (s.wr f i v).ring k j = s.ring k j) ∧ (∀ (j : Nat), (s.wr f i v).job j = s.job j) ∧
    (∀ (j : Nat), (s.wr f i v).stampUnit j = s.stampUnit j) ∧ (∀ (j : Nat), (s.wr f i v).intUnit j = s.intUnit j) ∧
    (∀ (j : Nat), (s.wr f i v).loop j = s.loop j) ∧ (∀ (j : Nat), (s.wr f i v).bent j = s.bent j) ∧
    (∀ (j : Nat), (s.wr f i v).zcore j = s.zcore j) ∧ (s.wr f i v).plumbNow = s.plumbNow ∧
    (s.wr f i v).journaling = s.journaling ∧ (s.wr f i v).otherDie = s.otherDie ∧
    (∀ (j : Nat), (s.wr f i v).boot j = s.boot j) := by
  repeat' apply And.intro
  all_goals intros; rfl

@[simp] theorem State.at__reads (t : Nat) :
    (∀ (g : Fld) (j : Nat), (s.at_ t).rd g j = s.rd g j) ∧ (∀ (g : Fld) (j : Nat), (s.at_ t).on g j = s.on g j) ∧
    (∀ (g : Fld) (j : Nat), (s.at_ t).rdS g j = s.rdS g j) ∧ (s.at_ t).mode = s.mode ∧ (s.at_ t).nodeId = s.nodeId ∧
    (∀ (k : Nat), (s.at_ t).present k = s.present k) ∧ (∀ (k j : Nat), (s.at_ t).isolated k j = s.isolated k j) ∧
    (∀ (k : Nat), (s.at_ t).inService k = s.inService k) ∧ (∀ (k : Nat), (s.at_ t).reachable k = s.reachable k) ∧
    (∀ (j : Nat), (s.at_ t).tenon j = s.tenon j) ∧ (∀ (j : Nat), (s.at_ t).chan j = s.chan j) ∧
    (∀ (j : Nat), (s.at_ t).chain j = s.chain j) ∧ (∀ (j : Nat), (s.at_ t).cap j = s.cap j) ∧
    (∀ (j : Nat), (s.at_ t).stream j = s.stream j) ∧ (∀ (j : Nat), (s.at_ t).queue j = s.queue j) ∧
    (∀ (j : Nat), (s.at_ t).prod j = s.prod j) ∧ (∀ (k j : Nat), (s.at_ t).loss k j = s.loss k j) ∧
    (∀ (j : Nat), (s.at_ t).port j = s.port j) ∧ (∀ (j : Nat), (s.at_ t).lane j = s.lane j) ∧
    (∀ (k j : Nat), (s.at_ t).ring k j = s.ring k j) ∧ (∀ (j : Nat), (s.at_ t).job j = s.job j) ∧
    (∀ (j : Nat), (s.at_ t).stampUnit j = s.stampUnit j) ∧ (∀ (j : Nat), (s.at_ t).intUnit j = s.intUnit j) ∧
    (∀ (j : Nat), (s.at_ t).loop j = s.loop j) ∧ (∀ (j : Nat), (s.at_ t).bent j = s.bent j) ∧
    (∀ (j : Nat), (s.at_ t).zcore j = s.zcore j) ∧ (s.at_ t).journaling = s.journaling ∧ (s.at_ t).otherDie = s.otherDie ∧
    (∀ (j : Nat), (s.at_ t).boot j = s.boot j) := by
  repeat' apply And.intro
  all_goals intros; rfl

@[simp] theorem State.setTenon_reads (i : Nat) (x : Tenon) :
    (∀ (g : Fld) (j : Nat), (s.setTenon i x).rd g j = s.rd g j) ∧
    (∀ (g : Fld) (j : Nat), (s.setTenon i x).on g j = s.on g j) ∧
    (∀ (g : Fld) (j : Nat), (s.setTenon i x).rdS g j = s.rdS g j) ∧ (s.setTenon i x).mode = s.mode ∧
    (s.setTenon i x).nodeId = s.nodeId ∧ (∀ (k : Nat), (s.setTenon i x).present k = s.present k) ∧
    (∀ (k j : Nat), (s.setTenon i x).isolated k j = s.isolated k j) ∧
    (∀ (k : Nat), (s.setTenon i x).inService k = s.inService k) ∧
    (∀ (k : Nat), (s.setTenon i x).reachable k = s.reachable k) ∧ (∀ (j : Nat), (s.setTenon i x).chan j = s.chan j) ∧
    (∀ (j : Nat), (s.setTenon i x).chain j = s.chain j) ∧ (∀ (j : Nat), (s.setTenon i x).cap j = s.cap j) ∧
    (∀ (j : Nat), (s.setTenon i x).stream j = s.stream j) ∧ (∀ (j : Nat), (s.setTenon i x).queue j = s.queue j) ∧
    (∀ (j : Nat), (s.setTenon i x).prod j = s.prod j) ∧ (∀ (k j : Nat), (s.setTenon i x).loss k j = s.loss k j) ∧
    (∀ (j : Nat), (s.setTenon i x).port j = s.port j) ∧ (∀ (j : Nat), (s.setTenon i x).lane j = s.lane j) ∧
    (∀ (k j : Nat), (s.setTenon i x).ring k j = s.ring k j) ∧ (∀ (j : Nat), (s.setTenon i x).job j = s.job j) ∧
    (∀ (j : Nat), (s.setTenon i x).stampUnit j = s.stampUnit j) ∧ (∀ (j : Nat), (s.setTenon i x).intUnit j = s.intUnit j) ∧
    (∀ (j : Nat), (s.setTenon i x).loop j = s.loop j) ∧ (∀ (j : Nat), (s.setTenon i x).bent j = s.bent j) ∧
    (∀ (j : Nat), (s.setTenon i x).zcore j = s.zcore j) ∧ (s.setTenon i x).plumbNow = s.plumbNow ∧
    (s.setTenon i x).journaling = s.journaling ∧ (s.setTenon i x).otherDie = s.otherDie ∧
    (∀ (j : Nat), (s.setTenon i x).boot j = s.boot j) := by
  repeat' apply And.intro
  all_goals intros; rfl

@[simp] theorem State.setChan_reads (i : Nat) (x : Chan) :
    (∀ (g : Fld) (j : Nat), (s.setChan i x).rd g j = s.rd g j) ∧ (∀ (g : Fld) (j : Nat), (s.setChan i x).on g j = s.on g j) ∧
    (∀ (g : Fld) (j : Nat), (s.setChan i x).rdS g j = s.rdS g j) ∧ (s.setChan i x).mode = s.mode ∧
    (s.setChan i x).nodeId = s.nodeId ∧ (∀ (k : Nat), (s.setChan i x).present k = s.present k) ∧
    (∀ (k j : Nat), (s.setChan i x).isolated k j = s.isolated k j) ∧
    (∀ (k : Nat), (s.setChan i x).inService k = s.inService k) ∧ (∀ (k : Nat), (s.setChan i x).reachable k = s.reachable k) ∧
    (∀ (j : Nat), (s.setChan i x).tenon j = s.tenon j) ∧ (∀ (j : Nat), (s.setChan i x).chain j = s.chain j) ∧
    (∀ (j : Nat), (s.setChan i x).cap j = s.cap j) ∧ (∀ (j : Nat), (s.setChan i x).stream j = s.stream j) ∧
    (∀ (j : Nat), (s.setChan i x).queue j = s.queue j) ∧ (∀ (j : Nat), (s.setChan i x).prod j = s.prod j) ∧
    (∀ (k j : Nat), (s.setChan i x).loss k j = s.loss k j) ∧ (∀ (j : Nat), (s.setChan i x).port j = s.port j) ∧
    (∀ (j : Nat), (s.setChan i x).lane j = s.lane j) ∧ (∀ (k j : Nat), (s.setChan i x).ring k j = s.ring k j) ∧
    (∀ (j : Nat), (s.setChan i x).job j = s.job j) ∧ (∀ (j : Nat), (s.setChan i x).stampUnit j = s.stampUnit j) ∧
    (∀ (j : Nat), (s.setChan i x).intUnit j = s.intUnit j) ∧ (∀ (j : Nat), (s.setChan i x).loop j = s.loop j) ∧
    (∀ (j : Nat), (s.setChan i x).bent j = s.bent j) ∧ (∀ (j : Nat), (s.setChan i x).zcore j = s.zcore j) ∧
    (s.setChan i x).plumbNow = s.plumbNow ∧ (s.setChan i x).journaling = s.journaling ∧
    (s.setChan i x).otherDie = s.otherDie ∧ (∀ (j : Nat), (s.setChan i x).boot j = s.boot j) := by
  repeat' apply And.intro
  all_goals intros; rfl

@[simp] theorem State.setChain_reads (i : Nat) (x : Chain) :
    (∀ (g : Fld) (j : Nat), (s.setChain i x).rd g j = s.rd g j) ∧
    (∀ (g : Fld) (j : Nat), (s.setChain i x).on g j = s.on g j) ∧
    (∀ (g : Fld) (j : Nat), (s.setChain i x).rdS g j = s.rdS g j) ∧ (s.setChain i x).mode = s.mode ∧
    (s.setChain i x).nodeId = s.nodeId ∧ (∀ (k : Nat), (s.setChain i x).present k = s.present k) ∧
    (∀ (k j : Nat), (s.setChain i x).isolated k j = s.isolated k j) ∧
    (∀ (k : Nat), (s.setChain i x).inService k = s.inService k) ∧
    (∀ (k : Nat), (s.setChain i x).reachable k = s.reachable k) ∧ (∀ (j : Nat), (s.setChain i x).tenon j = s.tenon j) ∧
    (∀ (j : Nat), (s.setChain i x).chan j = s.chan j) ∧ (∀ (j : Nat), (s.setChain i x).cap j = s.cap j) ∧
    (∀ (j : Nat), (s.setChain i x).stream j = s.stream j) ∧ (∀ (j : Nat), (s.setChain i x).queue j = s.queue j) ∧
    (∀ (j : Nat), (s.setChain i x).prod j = s.prod j) ∧ (∀ (k j : Nat), (s.setChain i x).loss k j = s.loss k j) ∧
    (∀ (j : Nat), (s.setChain i x).port j = s.port j) ∧ (∀ (j : Nat), (s.setChain i x).lane j = s.lane j) ∧
    (∀ (k j : Nat), (s.setChain i x).ring k j = s.ring k j) ∧ (∀ (j : Nat), (s.setChain i x).job j = s.job j) ∧
    (∀ (j : Nat), (s.setChain i x).stampUnit j = s.stampUnit j) ∧ (∀ (j : Nat), (s.setChain i x).intUnit j = s.intUnit j) ∧
    (∀ (j : Nat), (s.setChain i x).loop j = s.loop j) ∧ (∀ (j : Nat), (s.setChain i x).bent j = s.bent j) ∧
    (∀ (j : Nat), (s.setChain i x).zcore j = s.zcore j) ∧ (s.setChain i x).plumbNow = s.plumbNow ∧
    (s.setChain i x).journaling = s.journaling ∧ (s.setChain i x).otherDie = s.otherDie ∧
    (∀ (j : Nat), (s.setChain i x).boot j = s.boot j) := by
  repeat' apply And.intro
  all_goals intros; rfl

@[simp] theorem State.setCap_reads (i : Nat) (x : Cap) :
    (∀ (g : Fld) (j : Nat), (s.setCap i x).rd g j = s.rd g j) ∧ (∀ (g : Fld) (j : Nat), (s.setCap i x).on g j = s.on g j) ∧
    (∀ (g : Fld) (j : Nat), (s.setCap i x).rdS g j = s.rdS g j) ∧ (s.setCap i x).mode = s.mode ∧
    (s.setCap i x).nodeId = s.nodeId ∧ (∀ (k : Nat), (s.setCap i x).present k = s.present k) ∧
    (∀ (k j : Nat), (s.setCap i x).isolated k j = s.isolated k j) ∧
    (∀ (k : Nat), (s.setCap i x).inService k = s.inService k) ∧ (∀ (k : Nat), (s.setCap i x).reachable k = s.reachable k) ∧
    (∀ (j : Nat), (s.setCap i x).tenon j = s.tenon j) ∧ (∀ (j : Nat), (s.setCap i x).chan j = s.chan j) ∧
    (∀ (j : Nat), (s.setCap i x).chain j = s.chain j) ∧ (∀ (j : Nat), (s.setCap i x).stream j = s.stream j) ∧
    (∀ (j : Nat), (s.setCap i x).queue j = s.queue j) ∧ (∀ (j : Nat), (s.setCap i x).prod j = s.prod j) ∧
    (∀ (k j : Nat), (s.setCap i x).loss k j = s.loss k j) ∧ (∀ (j : Nat), (s.setCap i x).port j = s.port j) ∧
    (∀ (j : Nat), (s.setCap i x).lane j = s.lane j) ∧ (∀ (k j : Nat), (s.setCap i x).ring k j = s.ring k j) ∧
    (∀ (j : Nat), (s.setCap i x).job j = s.job j) ∧ (∀ (j : Nat), (s.setCap i x).stampUnit j = s.stampUnit j) ∧
    (∀ (j : Nat), (s.setCap i x).intUnit j = s.intUnit j) ∧ (∀ (j : Nat), (s.setCap i x).loop j = s.loop j) ∧
    (∀ (j : Nat), (s.setCap i x).bent j = s.bent j) ∧ (∀ (j : Nat), (s.setCap i x).zcore j = s.zcore j) ∧
    (s.setCap i x).plumbNow = s.plumbNow ∧ (s.setCap i x).journaling = s.journaling ∧ (s.setCap i x).otherDie = s.otherDie ∧
    (∀ (j : Nat), (s.setCap i x).boot j = s.boot j) := by
  repeat' apply And.intro
  all_goals intros; rfl

@[simp] theorem State.setStream_reads (i : Nat) (x : StreamSt) :
    (∀ (g : Fld) (j : Nat), (s.setStream i x).rd g j = s.rd g j) ∧
    (∀ (g : Fld) (j : Nat), (s.setStream i x).on g j = s.on g j) ∧
    (∀ (g : Fld) (j : Nat), (s.setStream i x).rdS g j = s.rdS g j) ∧ (s.setStream i x).mode = s.mode ∧
    (s.setStream i x).nodeId = s.nodeId ∧ (∀ (k : Nat), (s.setStream i x).present k = s.present k) ∧
    (∀ (k j : Nat), (s.setStream i x).isolated k j = s.isolated k j) ∧
    (∀ (k : Nat), (s.setStream i x).inService k = s.inService k) ∧
    (∀ (k : Nat), (s.setStream i x).reachable k = s.reachable k) ∧ (∀ (j : Nat), (s.setStream i x).tenon j = s.tenon j) ∧
    (∀ (j : Nat), (s.setStream i x).chan j = s.chan j) ∧ (∀ (j : Nat), (s.setStream i x).chain j = s.chain j) ∧
    (∀ (j : Nat), (s.setStream i x).cap j = s.cap j) ∧ (∀ (j : Nat), (s.setStream i x).queue j = s.queue j) ∧
    (∀ (j : Nat), (s.setStream i x).prod j = s.prod j) ∧ (∀ (k j : Nat), (s.setStream i x).loss k j = s.loss k j) ∧
    (∀ (j : Nat), (s.setStream i x).port j = s.port j) ∧ (∀ (j : Nat), (s.setStream i x).lane j = s.lane j) ∧
    (∀ (k j : Nat), (s.setStream i x).ring k j = s.ring k j) ∧ (∀ (j : Nat), (s.setStream i x).job j = s.job j) ∧
    (∀ (j : Nat), (s.setStream i x).stampUnit j = s.stampUnit j) ∧ (∀ (j : Nat), (s.setStream i x).intUnit j = s.intUnit j) ∧
    (∀ (j : Nat), (s.setStream i x).loop j = s.loop j) ∧ (∀ (j : Nat), (s.setStream i x).bent j = s.bent j) ∧
    (∀ (j : Nat), (s.setStream i x).zcore j = s.zcore j) ∧ (s.setStream i x).plumbNow = s.plumbNow ∧
    (s.setStream i x).journaling = s.journaling ∧ (s.setStream i x).otherDie = s.otherDie ∧
    (∀ (j : Nat), (s.setStream i x).boot j = s.boot j) := by
  repeat' apply And.intro
  all_goals intros; rfl

@[simp] theorem State.setQueue_reads (i : Nat) (x : Queue) :
    (∀ (g : Fld) (j : Nat), (s.setQueue i x).rd g j = s.rd g j) ∧
    (∀ (g : Fld) (j : Nat), (s.setQueue i x).on g j = s.on g j) ∧
    (∀ (g : Fld) (j : Nat), (s.setQueue i x).rdS g j = s.rdS g j) ∧ (s.setQueue i x).mode = s.mode ∧
    (s.setQueue i x).nodeId = s.nodeId ∧ (∀ (k : Nat), (s.setQueue i x).present k = s.present k) ∧
    (∀ (k j : Nat), (s.setQueue i x).isolated k j = s.isolated k j) ∧
    (∀ (k : Nat), (s.setQueue i x).inService k = s.inService k) ∧
    (∀ (k : Nat), (s.setQueue i x).reachable k = s.reachable k) ∧ (∀ (j : Nat), (s.setQueue i x).tenon j = s.tenon j) ∧
    (∀ (j : Nat), (s.setQueue i x).chan j = s.chan j) ∧ (∀ (j : Nat), (s.setQueue i x).chain j = s.chain j) ∧
    (∀ (j : Nat), (s.setQueue i x).cap j = s.cap j) ∧ (∀ (j : Nat), (s.setQueue i x).stream j = s.stream j) ∧
    (∀ (k j : Nat), (s.setQueue i x).loss k j = s.loss k j) ∧ (∀ (j : Nat), (s.setQueue i x).port j = s.port j) ∧
    (∀ (j : Nat), (s.setQueue i x).lane j = s.lane j) ∧ (∀ (k j : Nat), (s.setQueue i x).ring k j = s.ring k j) ∧
    (∀ (j : Nat), (s.setQueue i x).job j = s.job j) ∧ (∀ (j : Nat), (s.setQueue i x).stampUnit j = s.stampUnit j) ∧
    (∀ (j : Nat), (s.setQueue i x).intUnit j = s.intUnit j) ∧ (∀ (j : Nat), (s.setQueue i x).loop j = s.loop j) ∧
    (∀ (j : Nat), (s.setQueue i x).bent j = s.bent j) ∧ (∀ (j : Nat), (s.setQueue i x).zcore j = s.zcore j) ∧
    (s.setQueue i x).plumbNow = s.plumbNow ∧ (s.setQueue i x).journaling = s.journaling ∧
    (s.setQueue i x).otherDie = s.otherDie ∧ (∀ (j : Nat), (s.setQueue i x).boot j = s.boot j) := by
  repeat' apply And.intro
  all_goals intros; rfl

@[simp] theorem State.setProd_reads (i : Nat) (x : Prod) :
    (∀ (g : Fld) (j : Nat), (s.setProd i x).rd g j = s.rd g j) ∧ (∀ (g : Fld) (j : Nat), (s.setProd i x).on g j = s.on g j) ∧
    (∀ (g : Fld) (j : Nat), (s.setProd i x).rdS g j = s.rdS g j) ∧ (s.setProd i x).mode = s.mode ∧
    (s.setProd i x).nodeId = s.nodeId ∧ (∀ (k : Nat), (s.setProd i x).present k = s.present k) ∧
    (∀ (k j : Nat), (s.setProd i x).isolated k j = s.isolated k j) ∧
    (∀ (k : Nat), (s.setProd i x).inService k = s.inService k) ∧ (∀ (k : Nat), (s.setProd i x).reachable k = s.reachable k) ∧
    (∀ (j : Nat), (s.setProd i x).tenon j = s.tenon j) ∧ (∀ (j : Nat), (s.setProd i x).chan j = s.chan j) ∧
    (∀ (j : Nat), (s.setProd i x).chain j = s.chain j) ∧ (∀ (j : Nat), (s.setProd i x).cap j = s.cap j) ∧
    (∀ (j : Nat), (s.setProd i x).stream j = s.stream j) ∧ (∀ (k j : Nat), (s.setProd i x).loss k j = s.loss k j) ∧
    (∀ (j : Nat), (s.setProd i x).port j = s.port j) ∧ (∀ (j : Nat), (s.setProd i x).lane j = s.lane j) ∧
    (∀ (k j : Nat), (s.setProd i x).ring k j = s.ring k j) ∧ (∀ (j : Nat), (s.setProd i x).job j = s.job j) ∧
    (∀ (j : Nat), (s.setProd i x).stampUnit j = s.stampUnit j) ∧ (∀ (j : Nat), (s.setProd i x).intUnit j = s.intUnit j) ∧
    (∀ (j : Nat), (s.setProd i x).loop j = s.loop j) ∧ (∀ (j : Nat), (s.setProd i x).bent j = s.bent j) ∧
    (∀ (j : Nat), (s.setProd i x).zcore j = s.zcore j) ∧ (s.setProd i x).plumbNow = s.plumbNow ∧
    (s.setProd i x).journaling = s.journaling ∧ (s.setProd i x).otherDie = s.otherDie ∧
    (∀ (j : Nat), (s.setProd i x).boot j = s.boot j) := by
  repeat' apply And.intro
  all_goals intros; rfl

@[simp] theorem State.setIso_reads (k i : Nat) (c : Option Nat) :
    (∀ (g : Fld) (j : Nat), (s.setIso k i c).rd g j = s.rd g j) ∧
    (∀ (g : Fld) (j : Nat), (s.setIso k i c).on g j = s.on g j) ∧
    (∀ (g : Fld) (j : Nat), (s.setIso k i c).rdS g j = s.rdS g j) ∧ (s.setIso k i c).mode = s.mode ∧
    (s.setIso k i c).nodeId = s.nodeId ∧ (∀ (k : Nat), (s.setIso k i c).present k = s.present k) ∧
    (∀ (j : Nat), (s.setIso k i c).tenon j = s.tenon j) ∧ (∀ (j : Nat), (s.setIso k i c).chan j = s.chan j) ∧
    (∀ (j : Nat), (s.setIso k i c).chain j = s.chain j) ∧ (∀ (j : Nat), (s.setIso k i c).cap j = s.cap j) ∧
    (∀ (j : Nat), (s.setIso k i c).stream j = s.stream j) ∧ (∀ (j : Nat), (s.setIso k i c).queue j = s.queue j) ∧
    (∀ (j : Nat), (s.setIso k i c).prod j = s.prod j) ∧ (∀ (k j : Nat), (s.setIso k i c).loss k j = s.loss k j) ∧
    (∀ (j : Nat), (s.setIso k i c).port j = s.port j) ∧ (∀ (j : Nat), (s.setIso k i c).lane j = s.lane j) ∧
    (∀ (k j : Nat), (s.setIso k i c).ring k j = s.ring k j) ∧ (∀ (j : Nat), (s.setIso k i c).job j = s.job j) ∧
    (∀ (j : Nat), (s.setIso k i c).stampUnit j = s.stampUnit j) ∧ (∀ (j : Nat), (s.setIso k i c).intUnit j = s.intUnit j) ∧
    (∀ (j : Nat), (s.setIso k i c).loop j = s.loop j) ∧ (∀ (j : Nat), (s.setIso k i c).bent j = s.bent j) ∧
    (∀ (j : Nat), (s.setIso k i c).zcore j = s.zcore j) ∧ (s.setIso k i c).plumbNow = s.plumbNow ∧
    (s.setIso k i c).journaling = s.journaling ∧ (s.setIso k i c).otherDie = s.otherDie ∧
    (∀ (j : Nat), (s.setIso k i c).boot j = s.boot j) := by
  repeat' apply And.intro
  all_goals intros; rfl

@[simp] theorem State.setLoss_reads (k i : Nat) (l : Option LossPend) :
    (∀ (g : Fld) (j : Nat), (s.setLoss k i l).rd g j = s.rd g j) ∧
    (∀ (g : Fld) (j : Nat), (s.setLoss k i l).on g j = s.on g j) ∧
    (∀ (g : Fld) (j : Nat), (s.setLoss k i l).rdS g j = s.rdS g j) ∧ (s.setLoss k i l).mode = s.mode ∧
    (s.setLoss k i l).nodeId = s.nodeId ∧ (∀ (k : Nat), (s.setLoss k i l).present k = s.present k) ∧
    (∀ (k j : Nat), (s.setLoss k i l).isolated k j = s.isolated k j) ∧
    (∀ (k : Nat), (s.setLoss k i l).inService k = s.inService k) ∧
    (∀ (k : Nat), (s.setLoss k i l).reachable k = s.reachable k) ∧ (∀ (j : Nat), (s.setLoss k i l).tenon j = s.tenon j) ∧
    (∀ (j : Nat), (s.setLoss k i l).chan j = s.chan j) ∧ (∀ (j : Nat), (s.setLoss k i l).chain j = s.chain j) ∧
    (∀ (j : Nat), (s.setLoss k i l).cap j = s.cap j) ∧ (∀ (j : Nat), (s.setLoss k i l).stream j = s.stream j) ∧
    (∀ (j : Nat), (s.setLoss k i l).queue j = s.queue j) ∧ (∀ (j : Nat), (s.setLoss k i l).prod j = s.prod j) ∧
    (∀ (j : Nat), (s.setLoss k i l).port j = s.port j) ∧ (∀ (j : Nat), (s.setLoss k i l).lane j = s.lane j) ∧
    (∀ (k j : Nat), (s.setLoss k i l).ring k j = s.ring k j) ∧ (∀ (j : Nat), (s.setLoss k i l).job j = s.job j) ∧
    (∀ (j : Nat), (s.setLoss k i l).stampUnit j = s.stampUnit j) ∧ (∀ (j : Nat), (s.setLoss k i l).intUnit j = s.intUnit j) ∧
    (∀ (j : Nat), (s.setLoss k i l).loop j = s.loop j) ∧ (∀ (j : Nat), (s.setLoss k i l).bent j = s.bent j) ∧
    (∀ (j : Nat), (s.setLoss k i l).zcore j = s.zcore j) ∧ (s.setLoss k i l).plumbNow = s.plumbNow ∧
    (s.setLoss k i l).journaling = s.journaling ∧ (s.setLoss k i l).otherDie = s.otherDie ∧
    (∀ (j : Nat), (s.setLoss k i l).boot j = s.boot j) := by
  repeat' apply And.intro
  all_goals intros; rfl

@[simp] theorem State.setPort_reads (i : Nat) (x : Port) :
    (∀ (g : Fld) (j : Nat), (s.setPort i x).rd g j = s.rd g j) ∧ (∀ (g : Fld) (j : Nat), (s.setPort i x).on g j = s.on g j) ∧
    (∀ (g : Fld) (j : Nat), (s.setPort i x).rdS g j = s.rdS g j) ∧ (s.setPort i x).mode = s.mode ∧
    (s.setPort i x).nodeId = s.nodeId ∧ (∀ (k : Nat), (s.setPort i x).present k = s.present k) ∧
    (∀ (k j : Nat), (s.setPort i x).isolated k j = s.isolated k j) ∧
    (∀ (k : Nat), (s.setPort i x).inService k = s.inService k) ∧ (∀ (k : Nat), (s.setPort i x).reachable k = s.reachable k) ∧
    (∀ (j : Nat), (s.setPort i x).tenon j = s.tenon j) ∧ (∀ (j : Nat), (s.setPort i x).chan j = s.chan j) ∧
    (∀ (j : Nat), (s.setPort i x).chain j = s.chain j) ∧ (∀ (j : Nat), (s.setPort i x).cap j = s.cap j) ∧
    (∀ (j : Nat), (s.setPort i x).stream j = s.stream j) ∧ (∀ (j : Nat), (s.setPort i x).queue j = s.queue j) ∧
    (∀ (j : Nat), (s.setPort i x).prod j = s.prod j) ∧ (∀ (k j : Nat), (s.setPort i x).loss k j = s.loss k j) ∧
    (∀ (j : Nat), (s.setPort i x).lane j = s.lane j) ∧ (∀ (k j : Nat), (s.setPort i x).ring k j = s.ring k j) ∧
    (∀ (j : Nat), (s.setPort i x).job j = s.job j) ∧ (∀ (j : Nat), (s.setPort i x).stampUnit j = s.stampUnit j) ∧
    (∀ (j : Nat), (s.setPort i x).intUnit j = s.intUnit j) ∧ (∀ (j : Nat), (s.setPort i x).loop j = s.loop j) ∧
    (∀ (j : Nat), (s.setPort i x).bent j = s.bent j) ∧ (∀ (j : Nat), (s.setPort i x).zcore j = s.zcore j) ∧
    (s.setPort i x).plumbNow = s.plumbNow ∧ (s.setPort i x).journaling = s.journaling ∧
    (s.setPort i x).otherDie = s.otherDie ∧ (∀ (j : Nat), (s.setPort i x).boot j = s.boot j) := by
  repeat' apply And.intro
  all_goals intros; rfl

@[simp] theorem State.setLane_reads (i : Nat) (x : Lane) :
    (∀ (g : Fld) (j : Nat), (s.setLane i x).rd g j = s.rd g j) ∧ (∀ (g : Fld) (j : Nat), (s.setLane i x).on g j = s.on g j) ∧
    (∀ (g : Fld) (j : Nat), (s.setLane i x).rdS g j = s.rdS g j) ∧ (s.setLane i x).mode = s.mode ∧
    (s.setLane i x).nodeId = s.nodeId ∧ (∀ (k : Nat), (s.setLane i x).present k = s.present k) ∧
    (∀ (k j : Nat), (s.setLane i x).isolated k j = s.isolated k j) ∧
    (∀ (k : Nat), (s.setLane i x).inService k = s.inService k) ∧ (∀ (k : Nat), (s.setLane i x).reachable k = s.reachable k) ∧
    (∀ (j : Nat), (s.setLane i x).tenon j = s.tenon j) ∧ (∀ (j : Nat), (s.setLane i x).chan j = s.chan j) ∧
    (∀ (j : Nat), (s.setLane i x).chain j = s.chain j) ∧ (∀ (j : Nat), (s.setLane i x).cap j = s.cap j) ∧
    (∀ (j : Nat), (s.setLane i x).stream j = s.stream j) ∧ (∀ (j : Nat), (s.setLane i x).queue j = s.queue j) ∧
    (∀ (j : Nat), (s.setLane i x).prod j = s.prod j) ∧ (∀ (k j : Nat), (s.setLane i x).loss k j = s.loss k j) ∧
    (∀ (j : Nat), (s.setLane i x).port j = s.port j) ∧ (∀ (k j : Nat), (s.setLane i x).ring k j = s.ring k j) ∧
    (∀ (j : Nat), (s.setLane i x).job j = s.job j) ∧ (∀ (j : Nat), (s.setLane i x).stampUnit j = s.stampUnit j) ∧
    (∀ (j : Nat), (s.setLane i x).intUnit j = s.intUnit j) ∧ (∀ (j : Nat), (s.setLane i x).loop j = s.loop j) ∧
    (∀ (j : Nat), (s.setLane i x).bent j = s.bent j) ∧ (∀ (j : Nat), (s.setLane i x).zcore j = s.zcore j) ∧
    (s.setLane i x).plumbNow = s.plumbNow ∧ (s.setLane i x).journaling = s.journaling ∧
    (s.setLane i x).otherDie = s.otherDie ∧ (∀ (j : Nat), (s.setLane i x).boot j = s.boot j) := by
  repeat' apply And.intro
  all_goals intros; rfl

@[simp] theorem State.setMsix_reads (v w x : Nat) :
    (∀ (g : Fld) (j : Nat), (s.setMsix v w x).rd g j = s.rd g j) ∧
    (∀ (g : Fld) (j : Nat), (s.setMsix v w x).on g j = s.on g j) ∧
    (∀ (g : Fld) (j : Nat), (s.setMsix v w x).rdS g j = s.rdS g j) ∧ (s.setMsix v w x).mode = s.mode ∧
    (s.setMsix v w x).nodeId = s.nodeId ∧ (∀ (k : Nat), (s.setMsix v w x).present k = s.present k) ∧
    (∀ (k j : Nat), (s.setMsix v w x).isolated k j = s.isolated k j) ∧
    (∀ (k : Nat), (s.setMsix v w x).inService k = s.inService k) ∧
    (∀ (k : Nat), (s.setMsix v w x).reachable k = s.reachable k) ∧ (∀ (j : Nat), (s.setMsix v w x).tenon j = s.tenon j) ∧
    (∀ (j : Nat), (s.setMsix v w x).chan j = s.chan j) ∧ (∀ (j : Nat), (s.setMsix v w x).chain j = s.chain j) ∧
    (∀ (j : Nat), (s.setMsix v w x).cap j = s.cap j) ∧ (∀ (j : Nat), (s.setMsix v w x).stream j = s.stream j) ∧
    (∀ (j : Nat), (s.setMsix v w x).queue j = s.queue j) ∧ (∀ (j : Nat), (s.setMsix v w x).prod j = s.prod j) ∧
    (∀ (k j : Nat), (s.setMsix v w x).loss k j = s.loss k j) ∧ (∀ (j : Nat), (s.setMsix v w x).port j = s.port j) ∧
    (∀ (j : Nat), (s.setMsix v w x).lane j = s.lane j) ∧ (∀ (k j : Nat), (s.setMsix v w x).ring k j = s.ring k j) ∧
    (∀ (j : Nat), (s.setMsix v w x).job j = s.job j) ∧ (∀ (j : Nat), (s.setMsix v w x).stampUnit j = s.stampUnit j) ∧
    (∀ (j : Nat), (s.setMsix v w x).intUnit j = s.intUnit j) ∧ (∀ (j : Nat), (s.setMsix v w x).loop j = s.loop j) ∧
    (∀ (j : Nat), (s.setMsix v w x).bent j = s.bent j) ∧ (∀ (j : Nat), (s.setMsix v w x).zcore j = s.zcore j) ∧
    (s.setMsix v w x).plumbNow = s.plumbNow ∧ (s.setMsix v w x).journaling = s.journaling ∧
    (s.setMsix v w x).otherDie = s.otherDie ∧ (∀ (j : Nat), (s.setMsix v w x).boot j = s.boot j) := by
  repeat' apply And.intro
  all_goals intros; rfl

@[simp] theorem State.setRing_reads (k i : Nat) (x : Ring) :
    (∀ (g : Fld) (j : Nat), (s.setRing k i x).rd g j = s.rd g j) ∧
    (∀ (g : Fld) (j : Nat), (s.setRing k i x).on g j = s.on g j) ∧
    (∀ (g : Fld) (j : Nat), (s.setRing k i x).rdS g j = s.rdS g j) ∧ (s.setRing k i x).mode = s.mode ∧
    (s.setRing k i x).nodeId = s.nodeId ∧ (∀ (k : Nat), (s.setRing k i x).present k = s.present k) ∧
    (∀ (k j : Nat), (s.setRing k i x).isolated k j = s.isolated k j) ∧
    (∀ (k : Nat), (s.setRing k i x).inService k = s.inService k) ∧
    (∀ (k : Nat), (s.setRing k i x).reachable k = s.reachable k) ∧ (∀ (j : Nat), (s.setRing k i x).tenon j = s.tenon j) ∧
    (∀ (j : Nat), (s.setRing k i x).chan j = s.chan j) ∧ (∀ (j : Nat), (s.setRing k i x).chain j = s.chain j) ∧
    (∀ (j : Nat), (s.setRing k i x).cap j = s.cap j) ∧ (∀ (j : Nat), (s.setRing k i x).stream j = s.stream j) ∧
    (∀ (j : Nat), (s.setRing k i x).queue j = s.queue j) ∧ (∀ (j : Nat), (s.setRing k i x).prod j = s.prod j) ∧
    (∀ (k j : Nat), (s.setRing k i x).loss k j = s.loss k j) ∧ (∀ (j : Nat), (s.setRing k i x).port j = s.port j) ∧
    (∀ (j : Nat), (s.setRing k i x).lane j = s.lane j) ∧ (∀ (j : Nat), (s.setRing k i x).job j = s.job j) ∧
    (∀ (j : Nat), (s.setRing k i x).stampUnit j = s.stampUnit j) ∧ (∀ (j : Nat), (s.setRing k i x).intUnit j = s.intUnit j) ∧
    (∀ (j : Nat), (s.setRing k i x).loop j = s.loop j) ∧ (∀ (j : Nat), (s.setRing k i x).bent j = s.bent j) ∧
    (∀ (j : Nat), (s.setRing k i x).zcore j = s.zcore j) ∧ (s.setRing k i x).plumbNow = s.plumbNow ∧
    (s.setRing k i x).journaling = s.journaling ∧ (s.setRing k i x).otherDie = s.otherDie ∧
    (∀ (j : Nat), (s.setRing k i x).boot j = s.boot j) := by
  repeat' apply And.intro
  all_goals intros; rfl

@[simp] theorem State.setJob_reads (jb : Job) :
    (∀ (g : Fld) (j : Nat), (s.setJob jb).rd g j = s.rd g j) ∧ (∀ (g : Fld) (j : Nat), (s.setJob jb).on g j = s.on g j) ∧
    (∀ (g : Fld) (j : Nat), (s.setJob jb).rdS g j = s.rdS g j) ∧ (s.setJob jb).mode = s.mode ∧
    (s.setJob jb).nodeId = s.nodeId ∧ (∀ (k : Nat), (s.setJob jb).present k = s.present k) ∧
    (∀ (k j : Nat), (s.setJob jb).isolated k j = s.isolated k j) ∧ (∀ (k : Nat), (s.setJob jb).inService k = s.inService k) ∧
    (∀ (k : Nat), (s.setJob jb).reachable k = s.reachable k) ∧ (∀ (j : Nat), (s.setJob jb).tenon j = s.tenon j) ∧
    (∀ (j : Nat), (s.setJob jb).chan j = s.chan j) ∧ (∀ (j : Nat), (s.setJob jb).chain j = s.chain j) ∧
    (∀ (j : Nat), (s.setJob jb).cap j = s.cap j) ∧ (∀ (j : Nat), (s.setJob jb).stream j = s.stream j) ∧
    (∀ (j : Nat), (s.setJob jb).queue j = s.queue j) ∧ (∀ (j : Nat), (s.setJob jb).prod j = s.prod j) ∧
    (∀ (k j : Nat), (s.setJob jb).loss k j = s.loss k j) ∧ (∀ (j : Nat), (s.setJob jb).port j = s.port j) ∧
    (∀ (j : Nat), (s.setJob jb).lane j = s.lane j) ∧ (∀ (k j : Nat), (s.setJob jb).ring k j = s.ring k j) ∧
    (∀ (j : Nat), (s.setJob jb).stampUnit j = s.stampUnit j) ∧ (∀ (j : Nat), (s.setJob jb).intUnit j = s.intUnit j) ∧
    (∀ (j : Nat), (s.setJob jb).loop j = s.loop j) ∧ (∀ (j : Nat), (s.setJob jb).bent j = s.bent j) ∧
    (∀ (j : Nat), (s.setJob jb).zcore j = s.zcore j) ∧ (s.setJob jb).plumbNow = s.plumbNow ∧
    (s.setJob jb).journaling = s.journaling ∧ (s.setJob jb).otherDie = s.otherDie ∧
    (∀ (j : Nat), (s.setJob jb).boot j = s.boot j) := by
  repeat' apply And.intro
  all_goals intros; rfl

@[simp] theorem State.commit_reads (jb : Job) (status result : Nat) :
    (∀ (g : Fld) (j : Nat), (s.commit jb status result).rd g j = s.rd g j) ∧
    (∀ (g : Fld) (j : Nat), (s.commit jb status result).on g j = s.on g j) ∧
    (∀ (g : Fld) (j : Nat), (s.commit jb status result).rdS g j = s.rdS g j) ∧ (s.commit jb status result).mode = s.mode ∧
    (s.commit jb status result).nodeId = s.nodeId ∧ (∀ (k : Nat), (s.commit jb status result).present k = s.present k) ∧
    (∀ (k j : Nat), (s.commit jb status result).isolated k j = s.isolated k j) ∧
    (∀ (k : Nat), (s.commit jb status result).inService k = s.inService k) ∧
    (∀ (k : Nat), (s.commit jb status result).reachable k = s.reachable k) ∧
    (∀ (j : Nat), (s.commit jb status result).tenon j = s.tenon j) ∧
    (∀ (j : Nat), (s.commit jb status result).chan j = s.chan j) ∧
    (∀ (j : Nat), (s.commit jb status result).chain j = s.chain j) ∧
    (∀ (j : Nat), (s.commit jb status result).cap j = s.cap j) ∧
    (∀ (j : Nat), (s.commit jb status result).stream j = s.stream j) ∧
    (∀ (j : Nat), (s.commit jb status result).queue j = s.queue j) ∧
    (∀ (j : Nat), (s.commit jb status result).prod j = s.prod j) ∧
    (∀ (k j : Nat), (s.commit jb status result).loss k j = s.loss k j) ∧
    (∀ (j : Nat), (s.commit jb status result).port j = s.port j) ∧
    (∀ (j : Nat), (s.commit jb status result).lane j = s.lane j) ∧
    (∀ (k j : Nat), (s.commit jb status result).ring k j = s.ring k j) ∧
    (∀ (j : Nat), (s.commit jb status result).stampUnit j = s.stampUnit j) ∧
    (∀ (j : Nat), (s.commit jb status result).intUnit j = s.intUnit j) ∧
    (∀ (j : Nat), (s.commit jb status result).loop j = s.loop j) ∧
    (∀ (j : Nat), (s.commit jb status result).bent j = s.bent j) ∧
    (∀ (j : Nat), (s.commit jb status result).zcore j = s.zcore j) ∧ (s.commit jb status result).plumbNow = s.plumbNow ∧
    (s.commit jb status result).journaling = s.journaling ∧ (s.commit jb status result).otherDie = s.otherDie ∧
    (∀ (j : Nat), (s.commit jb status result).boot j = s.boot j) := by
  repeat' apply And.intro
  all_goals intros; rfl

@[simp] theorem State.setStampUnit_reads (i : Nat) (x : StampUnit) :
    (∀ (g : Fld) (j : Nat), (s.setStampUnit i x).rd g j = s.rd g j) ∧
    (∀ (g : Fld) (j : Nat), (s.setStampUnit i x).on g j = s.on g j) ∧
    (∀ (g : Fld) (j : Nat), (s.setStampUnit i x).rdS g j = s.rdS g j) ∧ (s.setStampUnit i x).mode = s.mode ∧
    (s.setStampUnit i x).nodeId = s.nodeId ∧ (∀ (k : Nat), (s.setStampUnit i x).present k = s.present k) ∧
    (∀ (k j : Nat), (s.setStampUnit i x).isolated k j = s.isolated k j) ∧
    (∀ (k : Nat), (s.setStampUnit i x).inService k = s.inService k) ∧
    (∀ (k : Nat), (s.setStampUnit i x).reachable k = s.reachable k) ∧
    (∀ (j : Nat), (s.setStampUnit i x).tenon j = s.tenon j) ∧ (∀ (j : Nat), (s.setStampUnit i x).chan j = s.chan j) ∧
    (∀ (j : Nat), (s.setStampUnit i x).chain j = s.chain j) ∧ (∀ (j : Nat), (s.setStampUnit i x).cap j = s.cap j) ∧
    (∀ (j : Nat), (s.setStampUnit i x).stream j = s.stream j) ∧ (∀ (j : Nat), (s.setStampUnit i x).queue j = s.queue j) ∧
    (∀ (j : Nat), (s.setStampUnit i x).prod j = s.prod j) ∧ (∀ (k j : Nat), (s.setStampUnit i x).loss k j = s.loss k j) ∧
    (∀ (j : Nat), (s.setStampUnit i x).port j = s.port j) ∧ (∀ (j : Nat), (s.setStampUnit i x).lane j = s.lane j) ∧
    (∀ (k j : Nat), (s.setStampUnit i x).ring k j = s.ring k j) ∧ (∀ (j : Nat), (s.setStampUnit i x).job j = s.job j) ∧
    (∀ (j : Nat), (s.setStampUnit i x).intUnit j = s.intUnit j) ∧ (∀ (j : Nat), (s.setStampUnit i x).loop j = s.loop j) ∧
    (∀ (j : Nat), (s.setStampUnit i x).bent j = s.bent j) ∧ (∀ (j : Nat), (s.setStampUnit i x).zcore j = s.zcore j) ∧
    (s.setStampUnit i x).plumbNow = s.plumbNow ∧ (s.setStampUnit i x).journaling = s.journaling ∧
    (s.setStampUnit i x).otherDie = s.otherDie ∧ (∀ (j : Nat), (s.setStampUnit i x).boot j = s.boot j) := by
  repeat' apply And.intro
  all_goals intros; rfl

@[simp] theorem State.setIntUnit_reads (i : Nat) (x : IntUnit) :
    (∀ (g : Fld) (j : Nat), (s.setIntUnit i x).rd g j = s.rd g j) ∧
    (∀ (g : Fld) (j : Nat), (s.setIntUnit i x).on g j = s.on g j) ∧
    (∀ (g : Fld) (j : Nat), (s.setIntUnit i x).rdS g j = s.rdS g j) ∧ (s.setIntUnit i x).mode = s.mode ∧
    (s.setIntUnit i x).nodeId = s.nodeId ∧ (∀ (k : Nat), (s.setIntUnit i x).present k = s.present k) ∧
    (∀ (k j : Nat), (s.setIntUnit i x).isolated k j = s.isolated k j) ∧
    (∀ (k : Nat), (s.setIntUnit i x).inService k = s.inService k) ∧
    (∀ (k : Nat), (s.setIntUnit i x).reachable k = s.reachable k) ∧ (∀ (j : Nat), (s.setIntUnit i x).tenon j = s.tenon j) ∧
    (∀ (j : Nat), (s.setIntUnit i x).chan j = s.chan j) ∧ (∀ (j : Nat), (s.setIntUnit i x).chain j = s.chain j) ∧
    (∀ (j : Nat), (s.setIntUnit i x).cap j = s.cap j) ∧ (∀ (j : Nat), (s.setIntUnit i x).stream j = s.stream j) ∧
    (∀ (j : Nat), (s.setIntUnit i x).queue j = s.queue j) ∧ (∀ (j : Nat), (s.setIntUnit i x).prod j = s.prod j) ∧
    (∀ (k j : Nat), (s.setIntUnit i x).loss k j = s.loss k j) ∧ (∀ (j : Nat), (s.setIntUnit i x).port j = s.port j) ∧
    (∀ (j : Nat), (s.setIntUnit i x).lane j = s.lane j) ∧ (∀ (k j : Nat), (s.setIntUnit i x).ring k j = s.ring k j) ∧
    (∀ (j : Nat), (s.setIntUnit i x).job j = s.job j) ∧ (∀ (j : Nat), (s.setIntUnit i x).stampUnit j = s.stampUnit j) ∧
    (∀ (j : Nat), (s.setIntUnit i x).loop j = s.loop j) ∧ (∀ (j : Nat), (s.setIntUnit i x).bent j = s.bent j) ∧
    (∀ (j : Nat), (s.setIntUnit i x).zcore j = s.zcore j) ∧ (s.setIntUnit i x).plumbNow = s.plumbNow ∧
    (s.setIntUnit i x).journaling = s.journaling ∧ (s.setIntUnit i x).otherDie = s.otherDie ∧
    (∀ (j : Nat), (s.setIntUnit i x).boot j = s.boot j) := by
  repeat' apply And.intro
  all_goals intros; rfl

@[simp] theorem State.setLoop_reads (i : Nat) (x : Loop) :
    (∀ (g : Fld) (j : Nat), (s.setLoop i x).rd g j = s.rd g j) ∧ (∀ (g : Fld) (j : Nat), (s.setLoop i x).on g j = s.on g j) ∧
    (∀ (g : Fld) (j : Nat), (s.setLoop i x).rdS g j = s.rdS g j) ∧ (s.setLoop i x).mode = s.mode ∧
    (s.setLoop i x).nodeId = s.nodeId ∧ (∀ (k : Nat), (s.setLoop i x).present k = s.present k) ∧
    (∀ (k j : Nat), (s.setLoop i x).isolated k j = s.isolated k j) ∧
    (∀ (k : Nat), (s.setLoop i x).inService k = s.inService k) ∧ (∀ (k : Nat), (s.setLoop i x).reachable k = s.reachable k) ∧
    (∀ (j : Nat), (s.setLoop i x).tenon j = s.tenon j) ∧ (∀ (j : Nat), (s.setLoop i x).chan j = s.chan j) ∧
    (∀ (j : Nat), (s.setLoop i x).chain j = s.chain j) ∧ (∀ (j : Nat), (s.setLoop i x).cap j = s.cap j) ∧
    (∀ (j : Nat), (s.setLoop i x).stream j = s.stream j) ∧ (∀ (j : Nat), (s.setLoop i x).queue j = s.queue j) ∧
    (∀ (j : Nat), (s.setLoop i x).prod j = s.prod j) ∧ (∀ (k j : Nat), (s.setLoop i x).loss k j = s.loss k j) ∧
    (∀ (j : Nat), (s.setLoop i x).port j = s.port j) ∧ (∀ (j : Nat), (s.setLoop i x).lane j = s.lane j) ∧
    (∀ (k j : Nat), (s.setLoop i x).ring k j = s.ring k j) ∧ (∀ (j : Nat), (s.setLoop i x).job j = s.job j) ∧
    (∀ (j : Nat), (s.setLoop i x).stampUnit j = s.stampUnit j) ∧ (∀ (j : Nat), (s.setLoop i x).intUnit j = s.intUnit j) ∧
    (∀ (j : Nat), (s.setLoop i x).bent j = s.bent j) ∧ (∀ (j : Nat), (s.setLoop i x).zcore j = s.zcore j) ∧
    (s.setLoop i x).plumbNow = s.plumbNow ∧ (s.setLoop i x).journaling = s.journaling ∧
    (s.setLoop i x).otherDie = s.otherDie ∧ (∀ (j : Nat), (s.setLoop i x).boot j = s.boot j) := by
  repeat' apply And.intro
  all_goals intros; rfl

@[simp] theorem State.setBent_reads (i : Nat) (x : Bent) :
    (∀ (g : Fld) (j : Nat), (s.setBent i x).rd g j = s.rd g j) ∧ (∀ (g : Fld) (j : Nat), (s.setBent i x).on g j = s.on g j) ∧
    (∀ (g : Fld) (j : Nat), (s.setBent i x).rdS g j = s.rdS g j) ∧ (s.setBent i x).mode = s.mode ∧
    (s.setBent i x).nodeId = s.nodeId ∧ (∀ (k : Nat), (s.setBent i x).present k = s.present k) ∧
    (∀ (k j : Nat), (s.setBent i x).isolated k j = s.isolated k j) ∧
    (∀ (k : Nat), (s.setBent i x).inService k = s.inService k) ∧ (∀ (k : Nat), (s.setBent i x).reachable k = s.reachable k) ∧
    (∀ (j : Nat), (s.setBent i x).tenon j = s.tenon j) ∧ (∀ (j : Nat), (s.setBent i x).chan j = s.chan j) ∧
    (∀ (j : Nat), (s.setBent i x).chain j = s.chain j) ∧ (∀ (j : Nat), (s.setBent i x).cap j = s.cap j) ∧
    (∀ (j : Nat), (s.setBent i x).stream j = s.stream j) ∧ (∀ (j : Nat), (s.setBent i x).queue j = s.queue j) ∧
    (∀ (j : Nat), (s.setBent i x).prod j = s.prod j) ∧ (∀ (k j : Nat), (s.setBent i x).loss k j = s.loss k j) ∧
    (∀ (j : Nat), (s.setBent i x).port j = s.port j) ∧ (∀ (j : Nat), (s.setBent i x).lane j = s.lane j) ∧
    (∀ (k j : Nat), (s.setBent i x).ring k j = s.ring k j) ∧ (∀ (j : Nat), (s.setBent i x).job j = s.job j) ∧
    (∀ (j : Nat), (s.setBent i x).stampUnit j = s.stampUnit j) ∧ (∀ (j : Nat), (s.setBent i x).intUnit j = s.intUnit j) ∧
    (∀ (j : Nat), (s.setBent i x).loop j = s.loop j) ∧ (∀ (j : Nat), (s.setBent i x).zcore j = s.zcore j) ∧
    (s.setBent i x).plumbNow = s.plumbNow ∧ (s.setBent i x).journaling = s.journaling ∧
    (s.setBent i x).otherDie = s.otherDie ∧ (∀ (j : Nat), (s.setBent i x).boot j = s.boot j) := by
  repeat' apply And.intro
  all_goals intros; rfl

@[simp] theorem State.setZcore_reads (i : Nat) (x : ZCore) :
    (∀ (g : Fld) (j : Nat), (s.setZcore i x).rd g j = s.rd g j) ∧
    (∀ (g : Fld) (j : Nat), (s.setZcore i x).on g j = s.on g j) ∧
    (∀ (g : Fld) (j : Nat), (s.setZcore i x).rdS g j = s.rdS g j) ∧ (s.setZcore i x).mode = s.mode ∧
    (s.setZcore i x).nodeId = s.nodeId ∧ (∀ (k : Nat), (s.setZcore i x).present k = s.present k) ∧
    (∀ (k j : Nat), (s.setZcore i x).isolated k j = s.isolated k j) ∧
    (∀ (k : Nat), (s.setZcore i x).inService k = s.inService k) ∧
    (∀ (k : Nat), (s.setZcore i x).reachable k = s.reachable k) ∧ (∀ (j : Nat), (s.setZcore i x).tenon j = s.tenon j) ∧
    (∀ (j : Nat), (s.setZcore i x).chan j = s.chan j) ∧ (∀ (j : Nat), (s.setZcore i x).chain j = s.chain j) ∧
    (∀ (j : Nat), (s.setZcore i x).cap j = s.cap j) ∧ (∀ (j : Nat), (s.setZcore i x).stream j = s.stream j) ∧
    (∀ (j : Nat), (s.setZcore i x).queue j = s.queue j) ∧ (∀ (j : Nat), (s.setZcore i x).prod j = s.prod j) ∧
    (∀ (k j : Nat), (s.setZcore i x).loss k j = s.loss k j) ∧ (∀ (j : Nat), (s.setZcore i x).port j = s.port j) ∧
    (∀ (j : Nat), (s.setZcore i x).lane j = s.lane j) ∧ (∀ (k j : Nat), (s.setZcore i x).ring k j = s.ring k j) ∧
    (∀ (j : Nat), (s.setZcore i x).job j = s.job j) ∧ (∀ (j : Nat), (s.setZcore i x).stampUnit j = s.stampUnit j) ∧
    (∀ (j : Nat), (s.setZcore i x).intUnit j = s.intUnit j) ∧ (∀ (j : Nat), (s.setZcore i x).loop j = s.loop j) ∧
    (∀ (j : Nat), (s.setZcore i x).bent j = s.bent j) ∧ (s.setZcore i x).plumbNow = s.plumbNow ∧
    (s.setZcore i x).journaling = s.journaling ∧ (s.setZcore i x).otherDie = s.otherDie ∧
    (∀ (j : Nat), (s.setZcore i x).boot j = s.boot j) := by
  repeat' apply And.intro
  all_goals intros; rfl

@[simp] theorem State.setSeif_reads (i : Nat) (x : SeifEng) :
    (∀ (g : Fld) (j : Nat), (s.setSeif i x).rd g j = s.rd g j) ∧ (∀ (g : Fld) (j : Nat), (s.setSeif i x).on g j = s.on g j) ∧
    (∀ (g : Fld) (j : Nat), (s.setSeif i x).rdS g j = s.rdS g j) ∧ (s.setSeif i x).mode = s.mode ∧
    (s.setSeif i x).nodeId = s.nodeId ∧ (∀ (k : Nat), (s.setSeif i x).present k = s.present k) ∧
    (∀ (k j : Nat), (s.setSeif i x).isolated k j = s.isolated k j) ∧
    (∀ (k : Nat), (s.setSeif i x).inService k = s.inService k) ∧ (∀ (k : Nat), (s.setSeif i x).reachable k = s.reachable k) ∧
    (∀ (j : Nat), (s.setSeif i x).tenon j = s.tenon j) ∧ (∀ (j : Nat), (s.setSeif i x).chan j = s.chan j) ∧
    (∀ (j : Nat), (s.setSeif i x).chain j = s.chain j) ∧ (∀ (j : Nat), (s.setSeif i x).cap j = s.cap j) ∧
    (∀ (j : Nat), (s.setSeif i x).stream j = s.stream j) ∧ (∀ (j : Nat), (s.setSeif i x).queue j = s.queue j) ∧
    (∀ (j : Nat), (s.setSeif i x).prod j = s.prod j) ∧ (∀ (k j : Nat), (s.setSeif i x).loss k j = s.loss k j) ∧
    (∀ (j : Nat), (s.setSeif i x).port j = s.port j) ∧ (∀ (j : Nat), (s.setSeif i x).lane j = s.lane j) ∧
    (∀ (k j : Nat), (s.setSeif i x).ring k j = s.ring k j) ∧ (∀ (j : Nat), (s.setSeif i x).job j = s.job j) ∧
    (∀ (j : Nat), (s.setSeif i x).stampUnit j = s.stampUnit j) ∧ (∀ (j : Nat), (s.setSeif i x).intUnit j = s.intUnit j) ∧
    (∀ (j : Nat), (s.setSeif i x).loop j = s.loop j) ∧ (∀ (j : Nat), (s.setSeif i x).bent j = s.bent j) ∧
    (∀ (j : Nat), (s.setSeif i x).zcore j = s.zcore j) ∧ (s.setSeif i x).plumbNow = s.plumbNow ∧
    (s.setSeif i x).journaling = s.journaling ∧ (s.setSeif i x).otherDie = s.otherDie ∧
    (∀ (j : Nat), (s.setSeif i x).boot j = s.boot j) := by
  repeat' apply And.intro
  all_goals intros; rfl

@[simp] theorem State.setFwd_reads (i : Nat) (x : Fwd) :
    (∀ (g : Fld) (j : Nat), (s.setFwd i x).rd g j = s.rd g j) ∧ (∀ (g : Fld) (j : Nat), (s.setFwd i x).on g j = s.on g j) ∧
    (∀ (g : Fld) (j : Nat), (s.setFwd i x).rdS g j = s.rdS g j) ∧ (s.setFwd i x).mode = s.mode ∧
    (s.setFwd i x).nodeId = s.nodeId ∧ (∀ (k : Nat), (s.setFwd i x).present k = s.present k) ∧
    (∀ (k j : Nat), (s.setFwd i x).isolated k j = s.isolated k j) ∧
    (∀ (k : Nat), (s.setFwd i x).inService k = s.inService k) ∧ (∀ (k : Nat), (s.setFwd i x).reachable k = s.reachable k) ∧
    (∀ (j : Nat), (s.setFwd i x).tenon j = s.tenon j) ∧ (∀ (j : Nat), (s.setFwd i x).chan j = s.chan j) ∧
    (∀ (j : Nat), (s.setFwd i x).chain j = s.chain j) ∧ (∀ (j : Nat), (s.setFwd i x).cap j = s.cap j) ∧
    (∀ (j : Nat), (s.setFwd i x).stream j = s.stream j) ∧ (∀ (j : Nat), (s.setFwd i x).queue j = s.queue j) ∧
    (∀ (j : Nat), (s.setFwd i x).prod j = s.prod j) ∧ (∀ (k j : Nat), (s.setFwd i x).loss k j = s.loss k j) ∧
    (∀ (j : Nat), (s.setFwd i x).port j = s.port j) ∧ (∀ (j : Nat), (s.setFwd i x).lane j = s.lane j) ∧
    (∀ (k j : Nat), (s.setFwd i x).ring k j = s.ring k j) ∧ (∀ (j : Nat), (s.setFwd i x).job j = s.job j) ∧
    (∀ (j : Nat), (s.setFwd i x).stampUnit j = s.stampUnit j) ∧ (∀ (j : Nat), (s.setFwd i x).intUnit j = s.intUnit j) ∧
    (∀ (j : Nat), (s.setFwd i x).loop j = s.loop j) ∧ (∀ (j : Nat), (s.setFwd i x).bent j = s.bent j) ∧
    (∀ (j : Nat), (s.setFwd i x).zcore j = s.zcore j) ∧ (s.setFwd i x).plumbNow = s.plumbNow ∧
    (s.setFwd i x).journaling = s.journaling ∧ (s.setFwd i x).otherDie = s.otherDie ∧
    (∀ (j : Nat), (s.setFwd i x).boot j = s.boot j) := by
  repeat' apply And.intro
  all_goals intros; rfl

@[simp] theorem State.setInb_reads (i : Nat) (x : Inbound) :
    (∀ (g : Fld) (j : Nat), (s.setInb i x).rd g j = s.rd g j) ∧ (∀ (g : Fld) (j : Nat), (s.setInb i x).on g j = s.on g j) ∧
    (∀ (g : Fld) (j : Nat), (s.setInb i x).rdS g j = s.rdS g j) ∧ (s.setInb i x).mode = s.mode ∧
    (s.setInb i x).nodeId = s.nodeId ∧ (∀ (k : Nat), (s.setInb i x).present k = s.present k) ∧
    (∀ (k j : Nat), (s.setInb i x).isolated k j = s.isolated k j) ∧
    (∀ (k : Nat), (s.setInb i x).inService k = s.inService k) ∧ (∀ (k : Nat), (s.setInb i x).reachable k = s.reachable k) ∧
    (∀ (j : Nat), (s.setInb i x).tenon j = s.tenon j) ∧ (∀ (j : Nat), (s.setInb i x).chan j = s.chan j) ∧
    (∀ (j : Nat), (s.setInb i x).chain j = s.chain j) ∧ (∀ (j : Nat), (s.setInb i x).cap j = s.cap j) ∧
    (∀ (j : Nat), (s.setInb i x).stream j = s.stream j) ∧ (∀ (j : Nat), (s.setInb i x).queue j = s.queue j) ∧
    (∀ (j : Nat), (s.setInb i x).prod j = s.prod j) ∧ (∀ (k j : Nat), (s.setInb i x).loss k j = s.loss k j) ∧
    (∀ (j : Nat), (s.setInb i x).port j = s.port j) ∧ (∀ (j : Nat), (s.setInb i x).lane j = s.lane j) ∧
    (∀ (k j : Nat), (s.setInb i x).ring k j = s.ring k j) ∧ (∀ (j : Nat), (s.setInb i x).job j = s.job j) ∧
    (∀ (j : Nat), (s.setInb i x).stampUnit j = s.stampUnit j) ∧ (∀ (j : Nat), (s.setInb i x).intUnit j = s.intUnit j) ∧
    (∀ (j : Nat), (s.setInb i x).loop j = s.loop j) ∧ (∀ (j : Nat), (s.setInb i x).bent j = s.bent j) ∧
    (∀ (j : Nat), (s.setInb i x).zcore j = s.zcore j) ∧ (s.setInb i x).plumbNow = s.plumbNow ∧
    (s.setInb i x).journaling = s.journaling ∧ (s.setInb i x).otherDie = s.otherDie ∧
    (∀ (j : Nat), (s.setInb i x).boot j = s.boot j) := by
  repeat' apply And.intro
  all_goals intros; rfl

@[simp] theorem State.setBell_reads (i : Nat) (x : BellPage) :
    (∀ (g : Fld) (j : Nat), (s.setBell i x).rd g j = s.rd g j) ∧ (∀ (g : Fld) (j : Nat), (s.setBell i x).on g j = s.on g j) ∧
    (∀ (g : Fld) (j : Nat), (s.setBell i x).rdS g j = s.rdS g j) ∧ (s.setBell i x).mode = s.mode ∧
    (s.setBell i x).nodeId = s.nodeId ∧ (∀ (k : Nat), (s.setBell i x).present k = s.present k) ∧
    (∀ (k j : Nat), (s.setBell i x).isolated k j = s.isolated k j) ∧
    (∀ (k : Nat), (s.setBell i x).inService k = s.inService k) ∧ (∀ (k : Nat), (s.setBell i x).reachable k = s.reachable k) ∧
    (∀ (j : Nat), (s.setBell i x).tenon j = s.tenon j) ∧ (∀ (j : Nat), (s.setBell i x).chan j = s.chan j) ∧
    (∀ (j : Nat), (s.setBell i x).chain j = s.chain j) ∧ (∀ (j : Nat), (s.setBell i x).cap j = s.cap j) ∧
    (∀ (j : Nat), (s.setBell i x).stream j = s.stream j) ∧ (∀ (j : Nat), (s.setBell i x).queue j = s.queue j) ∧
    (∀ (j : Nat), (s.setBell i x).prod j = s.prod j) ∧ (∀ (k j : Nat), (s.setBell i x).loss k j = s.loss k j) ∧
    (∀ (j : Nat), (s.setBell i x).port j = s.port j) ∧ (∀ (j : Nat), (s.setBell i x).lane j = s.lane j) ∧
    (∀ (k j : Nat), (s.setBell i x).ring k j = s.ring k j) ∧ (∀ (j : Nat), (s.setBell i x).job j = s.job j) ∧
    (∀ (j : Nat), (s.setBell i x).stampUnit j = s.stampUnit j) ∧ (∀ (j : Nat), (s.setBell i x).intUnit j = s.intUnit j) ∧
    (∀ (j : Nat), (s.setBell i x).loop j = s.loop j) ∧ (∀ (j : Nat), (s.setBell i x).bent j = s.bent j) ∧
    (∀ (j : Nat), (s.setBell i x).zcore j = s.zcore j) ∧ (s.setBell i x).plumbNow = s.plumbNow ∧
    (s.setBell i x).journaling = s.journaling ∧ (s.setBell i x).otherDie = s.otherDie ∧
    (∀ (j : Nat), (s.setBell i x).boot j = s.boot j) := by
  repeat' apply And.intro
  all_goals intros; rfl

@[simp] theorem State.withDx_reads (f : Duplex → Duplex) :
    (∀ (g : Fld) (j : Nat), (s.withDx f).rd g j = s.rd g j) ∧ (∀ (g : Fld) (j : Nat), (s.withDx f).on g j = s.on g j) ∧
    (∀ (g : Fld) (j : Nat), (s.withDx f).rdS g j = s.rdS g j) ∧ (s.withDx f).mode = s.mode ∧ (s.withDx f).nodeId = s.nodeId ∧
    (∀ (k : Nat), (s.withDx f).present k = s.present k) ∧ (∀ (k j : Nat), (s.withDx f).isolated k j = s.isolated k j) ∧
    (∀ (k : Nat), (s.withDx f).inService k = s.inService k) ∧ (∀ (j : Nat), (s.withDx f).tenon j = s.tenon j) ∧
    (∀ (j : Nat), (s.withDx f).chan j = s.chan j) ∧ (∀ (j : Nat), (s.withDx f).chain j = s.chain j) ∧
    (∀ (j : Nat), (s.withDx f).cap j = s.cap j) ∧ (∀ (j : Nat), (s.withDx f).stream j = s.stream j) ∧
    (∀ (j : Nat), (s.withDx f).queue j = s.queue j) ∧ (∀ (j : Nat), (s.withDx f).prod j = s.prod j) ∧
    (∀ (k j : Nat), (s.withDx f).loss k j = s.loss k j) ∧ (∀ (j : Nat), (s.withDx f).port j = s.port j) ∧
    (∀ (j : Nat), (s.withDx f).lane j = s.lane j) ∧ (∀ (k j : Nat), (s.withDx f).ring k j = s.ring k j) ∧
    (∀ (j : Nat), (s.withDx f).job j = s.job j) ∧ (∀ (j : Nat), (s.withDx f).stampUnit j = s.stampUnit j) ∧
    (∀ (j : Nat), (s.withDx f).intUnit j = s.intUnit j) ∧ (∀ (j : Nat), (s.withDx f).loop j = s.loop j) ∧
    (∀ (j : Nat), (s.withDx f).bent j = s.bent j) ∧ (∀ (j : Nat), (s.withDx f).zcore j = s.zcore j) ∧
    (s.withDx f).plumbNow = s.plumbNow ∧ (∀ (j : Nat), (s.withDx f).boot j = s.boot j) := by
  repeat' apply And.intro
  all_goals intros; rfl

@[simp] theorem State.setBoot_reads (i : Nat) (x : Boot) :
    (∀ (g : Fld) (j : Nat), (s.setBoot i x).rd g j = s.rd g j) ∧ (∀ (g : Fld) (j : Nat), (s.setBoot i x).on g j = s.on g j) ∧
    (∀ (g : Fld) (j : Nat), (s.setBoot i x).rdS g j = s.rdS g j) ∧ (s.setBoot i x).mode = s.mode ∧
    (s.setBoot i x).nodeId = s.nodeId ∧ (∀ (k : Nat), (s.setBoot i x).present k = s.present k) ∧
    (∀ (k j : Nat), (s.setBoot i x).isolated k j = s.isolated k j) ∧
    (∀ (k : Nat), (s.setBoot i x).inService k = s.inService k) ∧ (∀ (k : Nat), (s.setBoot i x).reachable k = s.reachable k) ∧
    (∀ (j : Nat), (s.setBoot i x).tenon j = s.tenon j) ∧ (∀ (j : Nat), (s.setBoot i x).chan j = s.chan j) ∧
    (∀ (j : Nat), (s.setBoot i x).chain j = s.chain j) ∧ (∀ (j : Nat), (s.setBoot i x).cap j = s.cap j) ∧
    (∀ (j : Nat), (s.setBoot i x).stream j = s.stream j) ∧ (∀ (j : Nat), (s.setBoot i x).queue j = s.queue j) ∧
    (∀ (j : Nat), (s.setBoot i x).prod j = s.prod j) ∧ (∀ (k j : Nat), (s.setBoot i x).loss k j = s.loss k j) ∧
    (∀ (j : Nat), (s.setBoot i x).port j = s.port j) ∧ (∀ (j : Nat), (s.setBoot i x).lane j = s.lane j) ∧
    (∀ (k j : Nat), (s.setBoot i x).ring k j = s.ring k j) ∧ (∀ (j : Nat), (s.setBoot i x).job j = s.job j) ∧
    (∀ (j : Nat), (s.setBoot i x).stampUnit j = s.stampUnit j) ∧ (∀ (j : Nat), (s.setBoot i x).intUnit j = s.intUnit j) ∧
    (∀ (j : Nat), (s.setBoot i x).loop j = s.loop j) ∧ (∀ (j : Nat), (s.setBoot i x).bent j = s.bent j) ∧
    (∀ (j : Nat), (s.setBoot i x).zcore j = s.zcore j) ∧ (s.setBoot i x).plumbNow = s.plumbNow ∧
    (s.setBoot i x).journaling = s.journaling ∧ (s.setBoot i x).otherDie = s.otherDie := by
  repeat' apply And.intro
  all_goals intros; rfl

/-- A field as a Boolean and signed, and what was set in the tables of parts, read back. -/
theorem State.on_def (g : Fld) (j : Nat) : s.on g j = (s.rd g j == 1) := rfl

@[simp] theorem State.tenon_setTenon_same (i : Nat) (x : Tenon) : (s.setTenon i x).tenon i = x := by simp [State.tenon, State.setTenon]

theorem State.tenon_setTenon_other {i j : Nat} (x : Tenon) (h : j ≠ i) : (s.setTenon i x).tenon j = s.tenon j := by
  simp [State.tenon, State.setTenon, smapGet_set_other _ _ _ h]

@[simp] theorem State.chan_setChan_same (i : Nat) (x : Chan) : (s.setChan i x).chan i = x := by simp [State.chan, State.setChan]

theorem State.chan_setChan_other {i j : Nat} (x : Chan) (h : j ≠ i) : (s.setChan i x).chan j = s.chan j := by
  simp [State.chan, State.setChan, smapGet_set_other _ _ _ h]

@[simp] theorem State.chain_setChain_same (i : Nat) (x : Chain) : (s.setChain i x).chain i = x := by simp [State.chain, State.setChain]

theorem State.chain_setChain_other {i j : Nat} (x : Chain) (h : j ≠ i) : (s.setChain i x).chain j = s.chain j := by
  simp [State.chain, State.setChain, smapGet_set_other _ _ _ h]

@[simp] theorem State.cap_setCap_same (i : Nat) (x : Cap) : (s.setCap i x).cap i = x := by simp [State.cap, State.setCap]

theorem State.cap_setCap_other {i j : Nat} (x : Cap) (h : j ≠ i) : (s.setCap i x).cap j = s.cap j := by
  simp [State.cap, State.setCap, smapGet_set_other _ _ _ h]

@[simp] theorem State.stream_setStream_same (i : Nat) (x : StreamSt) : (s.setStream i x).stream i = x := by simp [State.stream, State.setStream]

theorem State.stream_setStream_other {i j : Nat} (x : StreamSt) (h : j ≠ i) : (s.setStream i x).stream j = s.stream j := by
  simp [State.stream, State.setStream, smapGet_set_other _ _ _ h]

@[simp] theorem State.port_setPort_same (i : Nat) (x : Port) : (s.setPort i x).port i = x := by simp [State.port, State.setPort]

theorem State.port_setPort_other {i j : Nat} (x : Port) (h : j ≠ i) : (s.setPort i x).port j = s.port j := by
  simp [State.port, State.setPort, smapGet_set_other _ _ _ h]

@[simp] theorem State.lane_setLane_same (i : Nat) (x : Lane) : (s.setLane i x).lane i = x := by simp [State.lane, State.setLane]

theorem State.lane_setLane_other {i j : Nat} (x : Lane) (h : j ≠ i) : (s.setLane i x).lane j = s.lane j := by
  simp [State.lane, State.setLane, smapGet_set_other _ _ _ h]

@[simp] theorem State.loop_setLoop_same (i : Nat) (x : Loop) : (s.setLoop i x).loop i = x := by simp [State.loop, State.setLoop]

theorem State.loop_setLoop_other {i j : Nat} (x : Loop) (h : j ≠ i) : (s.setLoop i x).loop j = s.loop j := by
  simp [State.loop, State.setLoop, smapGet_set_other _ _ _ h]

@[simp] theorem State.bent_setBent_same (i : Nat) (x : Bent) : (s.setBent i x).bent i = x := by simp [State.bent, State.setBent]

theorem State.bent_setBent_other {i j : Nat} (x : Bent) (h : j ≠ i) : (s.setBent i x).bent j = s.bent j := by
  simp [State.bent, State.setBent, smapGet_set_other _ _ _ h]

@[simp] theorem State.stampUnit_setStampUnit_same (i : Nat) (x : StampUnit) : (s.setStampUnit i x).stampUnit i = x := by simp [State.stampUnit, State.setStampUnit]

theorem State.stampUnit_setStampUnit_other {i j : Nat} (x : StampUnit) (h : j ≠ i) : (s.setStampUnit i x).stampUnit j = s.stampUnit j := by
  simp [State.stampUnit, State.setStampUnit, smapGet_set_other _ _ _ h]

@[simp] theorem State.intUnit_setIntUnit_same (i : Nat) (x : IntUnit) : (s.setIntUnit i x).intUnit i = x := by simp [State.intUnit, State.setIntUnit]

theorem State.intUnit_setIntUnit_other {i j : Nat} (x : IntUnit) (h : j ≠ i) : (s.setIntUnit i x).intUnit j = s.intUnit j := by
  simp [State.intUnit, State.setIntUnit, smapGet_set_other _ _ _ h]

@[simp] theorem State.zcore_setZcore_same (i : Nat) (x : ZCore) : (s.setZcore i x).zcore i = x := by simp [State.zcore, State.setZcore]

theorem State.zcore_setZcore_other {i j : Nat} (x : ZCore) (h : j ≠ i) : (s.setZcore i x).zcore j = s.zcore j := by
  simp [State.zcore, State.setZcore, smapGet_set_other _ _ _ h]

@[simp] theorem State.boot_setBoot_same (i : Nat) (x : Boot) : (s.setBoot i x).boot i = x := by simp [State.boot, State.setBoot]

theorem State.boot_setBoot_other {i j : Nat} (x : Boot) (h : j ≠ i) : (s.setBoot i x).boot j = s.boot j := by
  simp [State.boot, State.setBoot, smapGet_set_other _ _ _ h]

end Sys2Proof.Machine
end

