-- ==== Sys2Proof/Machine/Package.lean ====
section
/-! DEFINITION. The ball map of the packages (00_scope.md, R13; 21_electrical_and_package.md, R571 to R578): what each ball of
a part carries, and what it is called. -/

namespace Sys2Proof.Machine

open Sys2Proof

/-- Supplies and grounds, as balls that carry no die's prefix. -/
inductive Supply where
  | vss
  | agnd
  | vcore
  | vsram
  | vlane09
  | vlane12
  | vio
  | vpcie
  deriving DecidableEq, Repr

/-- The balls of a Tenon's service line (R575). -/
inductive Service where
  | refP
  | refN
  | refresP
  | refresN
  | agnd
  | vexp
  | vexn
  | va33
  | va
  | vdd
  | vss
  deriving DecidableEq, Repr

/-- What a ball carries: of Tenon t an input of channel c, a force or sense ball or SPX of bent b, or a service ball; of
Mortise m a lane, PCIe or clock ball; a ball that exists once per package; or a supply. neg is the N ball of a pair. -/
inductive Ball where
  | input (t c : Nat) (neg : Bool)
  | force (t b : Nat) (neg : Bool)
  | sense (t b : Nat) (neg : Bool)
  | spx (t b : Nat)
  | service (t : Nat) (x : Service)
  | lane (m n : Nat) (rx neg : Bool)
  | pcie (m n : Nat) (rx neg : Bool)
  | peref (m : Nat) (neg : Bool)
  | perst (m : Nat)
  | refclk (m : Nat) (neg : Bool)
  | ppsIn (m : Nat)
  | syncN
  | rstN
  | tck
  | tms
  | tdi
  | tdo
  | trstN
  | supply (x : Supply)
  deriving DecidableEq, Repr

/-- Rows of balls, and columns, of a part (R571). -/
def Part.side (p : Part) : Nat := match p with | .vt2 => 37 | .vt4 => 49 | .vt8 => 67

/-- The row alphabet of R13. -/
def rowAlphabet : List Char :=
  ['A', 'B', 'C', 'D', 'E', 'F', 'G', 'H', 'J', 'K', 'L', 'M', 'N', 'P', 'T', 'U', 'V', 'W', 'Y']

/-- The letters of row i, from 1 (R13, R572). -/
def rowName (i : Nat) : List Char :=
  if i ≤ 19 then [rowAlphabet.getD (i - 1) 'A']
  else [rowAlphabet.getD ((i - 20) / 19) 'A', rowAlphabet.getD ((i - 20) % 19) 'A']

/-! ### Tenons -/

/-- The ball at position (i, j) of the tile of bent b (R573). -/
def tileBall (t b i j : Nat) : Ball :=
  if i < 2 then .input t (8 * b + 4 * i + j / 2) (j % 2 == 1)
  else if i = 2 then
    (if j < 2 then .force t b (j == 1) else if j < 4 then .sense t b (j == 3) else if j = 4 then .spx t b else .supply .agnd)
  else .supply .agnd

/-- The ball at service position k (R575). -/
def serviceBall (k : Nat) : Service :=
  if k = 0 then .refP
  else if k = 1 then .refN
  else if k = 2 then .refresP
  else if k = 3 then .refresN
  else if k = 4 ∨ k = 13 then .agnd
  else if k < 9 then .vexp
  else if k < 13 then .vexn
  else if k < 17 then .va33
  else if k < 20 then .va
  else if k < 26 then .vdd
  else .vss

/-- Where a Tenon's balls lie (R574): the origin of its field, the tiles beside each other, and its service row, or column
where they are 2. -/
structure TenonField where
  r : Nat
  c : Nat
  w : Nat
  line : Nat
  deriving DecidableEq, Repr

/-- The Tenon fields of a part, Tenon 0 first (R574). -/
def Part.fields (p : Part) : List TenonField :=
  match p with
  | .vt2 => [{ r := 1, c := 3, w := 4, line := 17 }]
  | .vt4 => [{ r := 1, c := 9, w := 4, line := 17 }, { r := 18, c := 1, w := 2, line := 17 }, { r := 18, c := 34, w := 2, line := 33 }]
  | .vt8 => [
      { r := 1, c := 2, w := 4, line := 17 }, { r := 1, c := 35, w := 4, line := 17 }, { r := 52, c := 2, w := 4, line := 51 },
      { r := 52, c := 35, w := 4, line := 51 }, { r := 18, c := 1, w := 2, line := 17 }, { r := 18, c := 52, w := 2, line := 51 }]

/-- The ball of Tenon t with field f at a row and column, where it has one there. -/
def TenonField.ball (f : TenonField) (t row col : Nat) : Option Ball :=
  let di := row - f.r
  let dj := col - f.c
  if f.r ≤ row && f.c ≤ col && decide (di < 64 / f.w) && decide (dj < 8 * f.w) then
    some (tileBall t (di / 4 * f.w + dj / 8) (di % 4) (dj % 8))
  else if f.w = 4 then
    (if row = f.line && f.c ≤ col && dj < 32 then some (.service t (serviceBall dj)) else none)
  else if col = f.line && f.r ≤ row && di < 32 then some (.service t (serviceBall di))
  else none

/-! ### Mortises -/

/-- The region of Mortise m and the origins of its blocks (R576). -/
structure MortiseRegion where
  m : Nat
  rows : Nat × Nat
  cols : Nat × Nat
  lane : Nat × Nat
  pcie : Nat × Nat
  control : Nat × Nat
  deriving DecidableEq, Repr

def Part.regions (p : Part) : List MortiseRegion :=
  match p with
  | .vt2 => [{ m := 0, rows := (18, 37), cols := (1, 37), lane := (30, 15), pcie := (18, 27), control := (18, 4) }]
  | .vt4 => [{ m := 0, rows := (18, 49), cols := (18, 32), lane := (42, 18), pcie := (18, 25), control := (18, 18) }]
  | .vt8 => [
      { m := 0, rows := (18, 50), cols := (18, 33), lane := (43, 18), pcie := (18, 26), control := (18, 18) },
      { m := 1, rows := (18, 50), cols := (35, 50), lane := (43, 43), pcie := (18, 35), control := (18, 45) }]

/-- The ball at (i, j) of Mortise m's lane block. -/
def laneBall (m i j : Nat) : Ball :=
  if i % 2 = 1 then .supply .vss else .lane m (4 * (i / 4) + j / 2) (i % 4 == 2) (j % 2 == 1)

/-- The ball at (i, j) of Mortise m's PCIe block. -/
def pcieBall (m i j : Nat) : Ball :=
  if i = 0 ∨ i = 2 then .pcie m (j / 2) (i == 2) (j % 2 == 1)
  else if i = 4 then
    (if j < 2 then .peref m (j == 1) else if j = 2 then .perst m else if j = 3 then .supply .vss else .supply .vpcie)
  else .supply .vss

/-- The ball at (i, j) of Mortise m's control block; what exists once per package is on Mortise A. -/
def controlBall (m i j : Nat) : Ball :=
  if j = 5 then .supply .vio
  else if i = 0 && j < 2 then .refclk m (j == 1)
  else if i = 0 && j = 2 then .ppsIn m
  else if m ≠ 0 then .supply .vss
  else if i = 0 then (if j = 3 then .syncN else .rstN)
  else [Ball.tck, .tms, .tdi, .tdo, .trstN].getD j .tck

/-- The supply that a ball of a Mortise region carries outside its blocks, with j columns of the region before it (R577). -/
def fillBall (row col j : Nat) : Supply :=
  if (row + col) % 2 = 0 then .vss
  else if j % 2 = 0 then .vcore
  else if j % 8 = 1 then .vsram
  else if j % 8 = 3 then .vlane09
  else if j % 8 = 5 then .vlane12
  else .vio

/-- Whether a row and column lie in a block of h rows and w columns with its origin at o. -/
def inBlock (o : Nat × Nat) (h w row col : Nat) : Bool :=
  o.1 ≤ row && o.2 ≤ col && decide (row < o.1 + h) && decide (col < o.2 + w)

/-- The ball of a Mortise region at a row and column, where they lie in it. -/
def MortiseRegion.ball (g : MortiseRegion) (row col : Nat) : Option Ball :=
  let at_ (o : Nat × Nat) (f : Nat → Nat → Nat → Ball) : Option Ball := some (f g.m (row - o.1) (col - o.2))
  if inBlock g.lane 8 8 row col then at_ g.lane laneBall
  else if inBlock g.pcie 5 8 row col then at_ g.pcie pcieBall
  else if inBlock g.control 2 6 row col then at_ g.control controlBall
  else if g.rows.1 ≤ row && row ≤ g.rows.2 && g.cols.1 ≤ col && col ≤ g.cols.2 then
    some (.supply (fillBall row col (col - g.cols.1)))
  else none

/-- The ball of a part at row index row and column index col, both from 1, where the array has one (R571, R573 to R578). -/
def Part.ball (p : Part) (row col : Nat) : Option Ball :=
  if row = 0 ∨ col = 0 ∨ p.side < row ∨ p.side < col then none
  else
    some (((p.fields.zipIdx.filterMap (fun x => x.1.ball x.2 row col))
      ++ p.regions.filterMap (fun g => g.ball row col)).headD (.supply .vss))

end Sys2Proof.Machine
end

