-- ==== Sys2Proof/Tests/Slice0.lean ====
section
/-! SUPPORT. The model's own tests: ill-formed commands that the check refuses, words of the Zillo cores written out from the
manual's encoding, single steps on small states, and for every statement with hypotheses a concrete state and operands that
meet them (the theorems named witness). -/

set_option maxRecDepth 20000

namespace Sys2Proof.Tests

open Sys2Proof Sys2Proof.Machine

/-! ### Small states -/

/-- Register fields written one after the other. -/
def setRegs (l : List (Fld × Nat × Nat)) (s : State) : State := l.foldl (fun s x => s.wr x.1 x.2.1 x.2.2) s

/-- Tenon 0 in service and acquiring, at a node that holds PEG and whose memories are filled. -/
def tenonUp : State :=
  { State.reset with
    tenons := [(0, { clocked := true, locked := true, loaded := true, filled := true, tested := true })]
    dx := { held := true }, pool := { ready := true } }

/-- The node in RUN with Tenon 0 acquiring and channel 0 of it enabled. -/
def running : State := setRegs [(F.MODE_STATUS_MODE, 0, 3), (F.CH_CTRL_ENABLE, 0, 1)] tenonUp

/-- A channel record put in place of channel 0's. -/
def withChan (x : Chan) : State := running.setChan 0 x

/-- A bent record put in place of bent 0's. -/
def withBent (x : Bent) : State := running.setBent 0 x

/-- An entry of a scanner in progress, in resistance mode under a DC profile. -/
def anEntry : EntryRun :=
  { idx := 0, urgent := false, input := 0, mode := 0, sub := 0, gain := 0, prof := {}, leadPol := 0, sampleTime := 100
    regUnit := 0, listen := 0, dischEnd := 0 }

/-- A node with one descriptor of ring 0 waiting. -/
def withDesc (words : List Nat) : State :=
  { running with jobs := [{ id := 0, sq := 0, slot := 0, words := words }], nextJob := 1 }

/-- The descriptor of withDesc once it is started at instant t. -/
def started (words : List Nat) (t : Nat) : Job := { id := 0, sq := 0, slot := 0, words := words, started := true, since := t }

/-- A node with ID 5 whose port 0 is UP. -/
def linkUp : State := setRegs [(F.FAB_NODE_ID, 0, 5), (F.FAB_PORT_EN, 0, 1), (F.FAB_PORT_WIDTH, 0, 1)]
  ({ State.reset with dx := { held := true } }.setPort 0 { state := poUp })

/-- Core 0 running with an instruction word at address 0 and another at 4. -/
def coreWith (w w2 : Nat) (c : ZCore) : State :=
  setRegs [(F.ZC_STATUS_STATE, 0, 1)]
    { State.reset with pool := { ready := true }, zcores := [(0, c)], zmem := [(0, w + w2 * 2 ^ 32), (1, 5 + 7 * 2 ^ 32)] }

/-- The state of core 0 once the word at its pc is fetched. -/
def fetchedOf (s : State) : State := (s.zfetch 0 (s.zcore 0).pc.toNat).2.2

/-- Whether core 0 runs at an instruction (ZAt). -/
def atInstr (s : State) (i : ZOp) : Bool :=
  s.zRuns 0 && (s.zfetch 0 (s.zcore 0).pc.toNat).2.1 && zDecode (s.zfetch 0 (s.zcore 0).pc.toNat).1 == some i

/-! ### Witnesses: channels, scanner, decimation, capture -/

theorem witness_overRange :
    (running.converting 0 0 = true ∧ (running.chan 0).ovr = false ∧ (running.chan 0).cm = false) ∧
    (let u := (withChan { ovr := true }).at_ (2 * msF)
     (u.chan 0).ovr = true ∧ (u.chan 0).ovrAt + u.rd F.CH_OPEN_OPEN_DWELL 0 * msF ≤ u.now + 100 * msF) := by decide

theorem witness_openDwell :
    let u := (withChan { ovr := true }).at_ (1000 * msF)
    (u.chan 0).ovr = true ∧ (u.chan 0).ovrAt + u.rd F.CH_OPEN_OPEN_DWELL 0 * msF ≤ u.now := by decide

theorem witness_channelSettings :
    running.reachable 0 = true ∧ legalValue F.CH_CTRL_RANGE 0 1 ≠ running.rd F.CH_CTRL_RANGE 0 ∧
      legalValue F.CH_CTRL_RANGE 0 (running.rd F.CH_CTRL_RANGE 0) = running.rd F.CH_CTRL_RANGE 0 ∧
      (7 : Nat) ≠ running.rd F.CH_DISC_THRESH 0 := by decide

theorem witness_continuity :
    (setRegs [(F.CH_CONT_CONT_EN, 0, 1)] running).contReady 0 0 = true ∧
      (let u := (withChan { contPhase := 1, contAt := 5 }).at_ (5 + 51 * usF)
       (u.chan 0).contPhase = 1 ∧ u.now = (u.chan 0).contAt + 51 * usF) ∧
      (let u := (withChan { contPhase := 1, contAt := 5 }).at_ (5 + 51 * usF + 1)
       ¬ ((u.chan 0).contPhase = 1 ∧ u.now = (u.chan 0).contAt + 51 * usF) ∧ u.now < (u.chan 0).contAt + 101 * usF) ∧
      (let u := (withChan { contPhase := 2, contAt := 5 }).at_ (5 + 101 * usF)
       (u.chan 0).contAt + 101 * usF ≤ u.now) ∧
      (let u := setRegs [(F.CH_CTRL_IEPE_EN, 0, 1)] running
       u.converting 0 0 = true ∧ u.on F.CH_CTRL_IEPE_EN 0 = true ∧ u.railsUp 0 = true) := by decide

theorem witness_sample :
    (let u := running.at_ 5000000
     u.converting 0 0 = true ∧ 0 ≤ u.apInstant 0 0 (u.now : Int) (u.apIndex 0 0 (u.now : Int)) ∧ (u.chan 0).lastAp = none) ∧
    (let u := (withChan { lastAp := some 4999999 }).at_ 5000000
     0 ≤ u.apInstant 0 0 (u.now : Int) (u.apIndex 0 0 (u.now : Int)) ∧ (u.chan 0).lastAp = some 4999999 ∧
       u.apInstant 0 0 (u.now : Int) (u.apIndex 0 0 (u.now : Int)) ≤ 4999999) := by decide

theorem witness_pulser :
    (let u := (setRegs [(F.CH_PULSER_MODE, 0, 1)] running)
     u.bentOn 0 0 = true ∧ u.railsUp 0 = true ∧ (u.chan 0).lastFire = none ∧ u.reachable 0 = true ∧
       u.rd F.CH_PULSER_MODE 0 = 1 ∧
       u.plumbOfTenon 0 (u.now : Int) % ((u.rd F.CH_PULSER_PERIOD 0 * msF : Nat) : Int) = 0) ∧
    (let u := (withChan { lastFire := some 0 }).at_ (15 * usF - 1)
     u.bentOn 0 0 = true ∧ u.railsUp 0 = true ∧ u.reachable 0 = true ∧ (u.chan 0).lastFire = some 0 ∧
       u.now < 0 + 15 * usF) ∧
    (let u := running.setTenon 0 { running.tenon 0 with pulses := [(0, 0)] }
     (u.tenon 0).pulses.any (fun p => p.1 == 0 && decide (p.2 ≤ u.plumbOfTenon 0 (u.now : Int))) = true) := by decide

theorem witness_passes :
    (running.reachable 0 = true ∧ running.on F.BENT_CTRL_SEQ_RUN 0 = false ∧
      (running.wr F.BENT_CTRL_SEQ_RUN 0 1).seqMay 0 = false) ∧
    (let u := withBent { user := 1 }
     u.reachable 0 = true ∧ u.on F.BENT_CTRL_SEQ_RUN 0 = false ∧
      (setRegs [(F.BENT_CTRL_SEQ_RUN, 0, 1), (F.BENT_CTRL_USE, 0, 1)] u).seqMay 0 = true) ∧
    (setRegs [(F.BENT_CTRL_SEQ_RUN, 0, 1)] running).on F.BENT_CTRL_SEQ_RUN 0 = true ∧
    (let u := withBent { seqOn := true }
     (u.bent 0).seqOn = true ∧ u.startInstant 0 0 = true ∧ u.bentOn 0 0 = true ∧ (u.tenon 0).vexLow = false ∧
       (u.bent 0).passOn = false ∧ (u.bent 0).entry = none ∧ (u.bent 0).urgent = none) ∧
    ((withBent { seqOn := true, urgent := some 3 }).bent 0).urgent.isSome = true ∧
    (let u := setRegs [(F.BENT_PASS_PASS_PERIOD, 0, 0)] (withBent { seqOn := true, passOn := true })
     (u.bent 0).passOn = true ∧ u.rd F.BENT_PASS_PASS_PERIOD 0 = 0) ∧
    (let u := setRegs [(F.BENT_PASS_PASS_PERIOD, 0, 1)] (withBent { seqOn := true, passOn := true })
     (u.bent 0).passOn = true ∧ u.startInstant 0 0 = true ∧ u.rd F.BENT_PASS_PASS_PERIOD 0 ≠ 0) ∧
    (let x := (withBent { user := 1 }).bent 0
     x.user = 1 ∧ x.entry = none ∧ x.urgent = none ∧ x.passOn = false) ∧ (running.bent 0).user ≠ 1 := by decide

theorem witness_entries :
    (let u := withBent { user := 1, urgent := some 2 }
     let x := u.bent 0
     u.bentOn 0 0 = true ∧ x.user = 1 ∧ x.entry = none ∧ (u.stream (scanSid 0 0)).cur = none ∧
       u.on F.BENT_CAL_SRC_EN 0 = false ∧ x.guard = false ∧ x.useRamp = none ∧ x.urgent = some 2) ∧
    (let u := withBent { user := 1, seqOn := true, passOn := true }
     let x := u.bent 0
     x.urgent = none ∧ x.seqOn = true ∧ x.passOn = true ∧ x.next ≤ u.rd F.BENT_CTRL_SEQ_LEN_M1 0) ∧
    (let u := withBent { entry := some { anEntry with mode := 1 } }
     ∃ e, (u.bent 0).entry = some e ∧ e.phase = .connect ∧ e.connectAt ≤ u.now ∧ u.bentOn 0 0 = true ∧ e.prof.wave = 0 ∧
       e.mode ≠ 5 ∧ ¬ (e.mode = 0 ∧ e.input = 12)) ∧
    (let u := withBent { entry := some { anEntry with mode := 5 } }
     ∃ e, (u.bent 0).entry = some e ∧ e.phase = .connect ∧ e.connectAt ≤ u.now ∧ u.bentOn 0 0 = true ∧ e.prof.wave = 0 ∧
       e.mode = 5) :=
  ⟨by decide, by decide, ⟨_, rfl, by decide, by decide, by decide, by decide, by decide, by decide⟩,
    ⟨_, rfl, by decide, by decide, by decide, by decide, by decide⟩⟩

theorem witness_entryEnds :
    (∃ e, ((withBent { entry := some { anEntry with phase := .sample, prof := { wave := 2 } } }).bent 0).entry = some e ∧
      e.phase = .sample ∧ e.prof.wave = 2 ∧ e.sampTo ≤ 0) ∧
    (∃ e, ((withBent { entry := some { anEntry with phase := .sample, sampTo := 10 } }).bent 0).entry = some e ∧
      e.phase = .sample ∧ e.mode = 0 ∧ e.prof.wave = 0 ∧ e.stages = [] ∧ e.fillFrom < 10 ∧ e.sampFrom < 10 ∧ 10 ≤ e.sampTo ∧
      e.sampTo < 11) ∧
    (let u := withBent { entry := some { anEntry with phase := .sample, acc := { n := 1 } } }
     ∃ e v, (u.bent 0).entry = some e ∧ e.phase = .sample ∧ e.prof.wave ≠ 2 ∧ e.sampTo ≤ u.now ∧ u.entryValue 0 e = some v ∧
       ¬ (e.mode = 0 ∧ e.input = 12) ∧ e.mode ≠ 6 ∧ (u.chan (chIx 0 (8 * 0 + e.input))).openNow = false ∧
       u.leadHigh 0 e = false) ∧
    (let u := (withBent { entry := some { anEntry with phase := .listen } }).at_ msF
     ∃ e, (u.bent 0).entry = some e ∧ e.phase = .listen ∧ e.excEnd + e.listen * msF ≤ u.now) :=
  ⟨⟨_, rfl, by decide, by decide, by decide⟩,
    ⟨_, rfl, by decide, by decide, by decide, by decide, by decide, by decide, by decide, by decide⟩,
    ⟨_, _, rfl, by decide, by decide, by decide, rfl, by decide, by decide, by decide, by decide⟩, ⟨_, rfl, by decide, by decide⟩⟩

theorem witness_excitation :
    (∃ e, ((withBent { entry := some { anEntry with leadEnd := some 0 } }).bent 0).entry = some e ∧ e.leadEnd = some 0 ∧
      e.phase = .connect ∧ e.flags &&& sfLeadMeas = 0 ∧ e.sixWire = false) ∧
    (∃ e, ((withBent { user := 1, entry := some { anEntry with phase := .sample } }).bent 0).entry = some e ∧
      e.phase = .sample ∧ e.sampFrom ≤ 0 ∧ 0 ≤ e.sampTo) ∧
    (running.bentOn 0 0 = true ∧ running.on F.BENT_STATUS_EXC_SHORT_NOW 0 = false) ∧
    (let u := (setRegs [(F.BENT_STATUS_EXC_SHORT_NOW, 0, 1)] running).at_ secF
     u.on F.BENT_STATUS_EXC_SHORT_NOW 0 = true ∧ (u.bent 0).shutAt + secF ≤ u.now) ∧
    (let u := (withBent { useRamp := some (0, some 9) }).at_ 9
     (u.bent 0).useRamp = some (0, some 9) ∧ 9 ≤ u.now ∧ (withBent { useRamp := some (0, some 9) }).now < 9) ∧
    ((withBent { useRamp := some (0, none) }).bent 0).useRamp = some (0, none) ∧
    (let u := (setRegs [(F.BENT_PAIR_EN, 0, 1), (F.BENT_PASS_PASS_PERIOD, 0, 1), (F.BENT_PAIR_GUARD, 0, 10)] running).at_ (msF - 1)
     let per : Int := ((u.rd F.BENT_PASS_PASS_PERIOD 0 * msF : Nat) : Int)
     let now := u.plumbOfTenon 0 (u.now : Int)
     u.on F.BENT_PAIR_EN 0 = true ∧ u.on F.BENT_PAIR_SOLO 0 = false ∧ per ≠ 0 ∧
       now / per % 2 = (u.rd F.BENT_PAIR_SLOT 0 : Int) ∧ per - now % per ≤ ((u.rd F.BENT_PAIR_GUARD 0 * usF : Nat) : Int)) :=
  ⟨⟨_, rfl, by decide, by decide, by decide, by decide⟩, ⟨_, rfl, by decide, by decide, by decide⟩, by decide, by decide,
    by decide, by decide, by decide⟩

theorem witness_chains :
    running.reachable 0 = true ∧ running.on F.DEC_CTRL_DCB_EN 0 = false ∧
      (setRegs [(F.DEC_CTRL_DEC_EN, 0, 1), (F.DEC_CTRL_DCB_EN, 0, 1)] running).on F.DEC_CTRL_DEC_EN 0 = true ∧
      (setRegs [(F.DEC_CTRL_DCB_EN, 0, 1)] running).on F.DEC_CTRL_DCB_EN 0 = true ∧
      running.on F.DEC_CTRL_DCB_FREEZE 0 = false ∧
      (setRegs [(F.DEC_CTRL_DCB_FREEZE, 0, 1)] running).on F.DEC_CTRL_DCB_FREEZE 0 = true ∧
      (setRegs [(F.DEC_CTRL_DEC_EN, 0, 1)] running).rd F.DEC_CTRL_DEC_EN 0 ≠ 0 ∧
      (∀ k : Fin 128, running.rd F.DEC_CTRL_FIR_SET (chIx 0 k.val) ≠ 16 + 0) := by decide

theorem witness_alignment :
    (running.mode ≠ mBoot ∧ running.mode ≠ 0) ∧ running.plumbNow + (msF : Int) ≤ (1 : Int) * (secF : Int) ∧
      running.acquiring 0 = true := by decide

theorem witness_triggers :
    ((running.cap 0).xtPend = [] ∧ ((running.setCap 0 { xtPend := [7] }).cap 0).xtPend = [7] ∧
      running.on F.CAP_CTRL_SRC_BENT 0 = false ∧
      (setRegs [(F.CAP_CTRL_SRC_BENT, 0, 1)] running).on F.CAP_CTRL_SRC_BENT 0 = true ∧ running.reachable 0 = true) ∧
    (let u := (setRegs [(F.CAP_STATE_STATE, 0, csCapturing)] running).at_ 1000
     u.capState 0 = csCapturing ∧ (u.cap 0).cur = none ∧ (u.cap 0).rearm ≤ u.plumbOfTenon 0 (u.now : Int)) ∧
    (setRegs [(F.MODE_STATUS_MODE, 0, 2)] tenonUp).mode = mSetup ∧ running.mode ≠ mSetup := by decide

/-! ### Witnesses: stamping, gates, loops, Plumb time -/

/-- A stamp in flight. -/
def aStamp : Stamp :=
  { tick := 0, pol := 0, phase := 0, vern := true, code := none, off := 0, dly := 0, coarse := false, pileup := false
    stalePh := false, staleVn := false }

/-- A stamping unit put in place of channel 0's, its discriminator enabled. -/
def withStamps (x : StampUnit) : State := (setRegs [(F.CH_DISC_DISC_EN, 0, 1)] running).setStampUnit 0 x

/-- A histogram of a code-density run in which every one of n codes got as many hits. -/
def flatHist (n : Nat) : List Nat := List.replicate n (2 ^ 20 / n)

theorem witness_edges :
    (let u := (withStamps { lastEdge := some 0 }).at_ (5 * tickF - 1)
     u.edgeAllowed 0 0 0 = true ∧ ¬ (u.rd F.CH_DISC_DISC_EDGE 0 = 1 ∧ false = false) ∧
       (u.stampUnit 0).lastEdge = some 0 ∧ u.now < 0 + 5 * tickF) ∧
    (let u := withStamps {}
     u.edgeAllowed 0 0 0 = true ∧ (u.stampUnit 0).lastEdge = none) ∧
    (let x := (withStamps { flight := [aStamp] }).stampUnit 0
     x.flight = [aStamp] ∧ aStamp.vern = true ∧ aStamp.code = none) ∧
    (running.acquiring 0 = true ∧ running.plumbOfTenon 0 (running.now : Int) % (secF : Int) = 0 ∧
      (running.at_ 1).plumbOfTenon 0 ((running.at_ 1).now : Int) % (secF : Int) ≠ 0 ∧
      ((withStamps { phCal := true }).stampUnit 0).phCal = true ∧ (flatHist 32).length = 32 ∧
      (flatHist 32).sum = 2 ^ 20 ∧ (tableOf 32 (flatHist 32)).2 = true) ∧
    (((withStamps { vnCal := true }).stampUnit 0).vnCal = true ∧ (flatHist 512).length = 512 ∧
      (flatHist 512).sum = 2 ^ 20 ∧ (tableOf 512 (flatHist 512)).2 = true) := by decide

theorem witness_stampsLeave :
    (let u := (withStamps { flight := [aStamp] }).at_ (stampLatency * tickF)
     (u.stampUnit 0).flight = [aStamp] ∧ (aStamp.tick + stampLatency) * tickF ≤ u.now ∧
       u.stampNext 0 0 aStamp = true ∧ ((u.stampUnit 0).queued.filter (fun m => decide (u.now < m))).length < 16) ∧
    (let u := (withStamps { flight := [aStamp], queued := List.replicate 16 (2 ^ 40) }).at_ (stampLatency * tickF)
     u.stampNext 0 0 aStamp = true ∧ 16 ≤ ((u.stampUnit 0).queued.filter (fun m => decide (u.now < m))).length) ∧
    (let u := (running.setIntUnit 0 { win := some { start := 0, flags := 0, vern := false } }).at_ (2 * secF)
     (u.intUnit 0).win = some { start := 0, flags := 0, vern := false } ∧ (u.intUnit 0).held = [] ∧
       u.orderPassed 0 (0 + ((u.rd F.INT_CFG_WINDOW 0 * tickF : Nat) : Int)) = true) := by decide

theorem witness_pulseEcho :
    (running.reachable 0 = true ∧ running.on F.CH_CTRL_IEPE_EN 0 = false ∧ running.on F.CH_CTRL_ENABLE 0 = true ∧
      (running.stampUnit 0).pe = none) ∧ tenonUp.on F.CH_CTRL_ENABLE 0 = false ∧
    (let p : PulseEcho := { left := 1, lastFire := 0 }
     ((withStamps { pe := some p }).stampUnit 0).pe = some p ∧ p.left ≠ 0 ∧ p.lastFire = 0) ∧
    (let p : PulseEcho := { left := 0, lastFire := 0 }
     ((withStamps { pe := some p }).stampUnit 0).pe = some p ∧ p.left = 0 ∧
       p.lastFire + 14 * usF ≤ ((withStamps { pe := some p }).at_ (14 * usF)).now) := by decide

theorem witness_gates :
    (running.acquiring 0 = true ∧ running.streaming = true ∧ running.reachable 0 = true ∧ running.gate 0 0 = none) ∧
    (let g : Gate := { unit := 0, ch := 0, pol := 0, p := 0, opens := 0, closes := 0 }
     let u := running.setGate 0 0 (some g)
     u.gate 0 0 = some g ∧ g.isOpen = false ∧ g.opens ≤ u.plumbOfTenon 0 (u.now : Int)) ∧
    (let g : Gate := { unit := 0, ch := 0, pol := 0, p := 0, opens := 0, closes := 0, isOpen := true, full := true }
     let u := running.setGate 0 0 (some g)
     u.gate 0 0 = some g ∧ g.isOpen = true ∧ g.closes ≤ u.plumbOfTenon 0 (u.now : Int) ∧ g.full = true) ∧
    (setRegs [(F.REG_CFG_MODE, 0, 2)] running).rd F.REG_CFG_MODE 0 = 2 ∧
    (setRegs [(F.REG_CFG_MODE, 0, 3)] running).rd F.REG_CFG_MODE 0 = 3 ∧
    (let x : StatIn := { loss := false, x := 0, never := false, bad := false, epoch := 0, time := 0 }
     let u := running.setAcc 0 { input := [x] }
     (u.acc 0).input = [x] ∧ x.loss = false) := by decide

/-- The aperture instant of sample 100 of channel 0: a period boundary of its slice. -/
def aBoundary : Nat := 815153152

theorem witness_loops :
    (let u := (setRegs [(F.LOOP_CTRL_RUN, 0, 1), (F.BENT_CTRL_USE, 0, 2)] (withBent { user := 2 })).at_ aBoundary
     u.on F.LOOP_CTRL_RUN 0 = true ∧ u.rd F.BENT_CTRL_USE 0 = 2 ∧ (u.bent 0).user = 2 ∧ (u.loop 0).running = false ∧
       (u.loop 0).tripped = false ∧ u.bentOn 0 0 = true ∧ u.loopBoundary 0 0 u.now = true ∧ u.reachable 0 = true ∧
       (u.loop 0).ready = none) ∧
    (let u := (setRegs [(F.BENT_CTRL_USE, 0, 2)] (running.setLoop 0
       { running := true, tripped := true, spxRise := some 0, dacDue := some aBoundary
         ready := some { y := 0, q := 0, time := 0, at_ := aBoundary } })).at_ aBoundary
     (u.loop 0).running = true ∧ (u.loop 0).tripped = true ∧ u.on F.LOOP_CTRL_RUN 0 = false ∧
       (u.loop 0).ready = some { y := 0, q := 0, time := 0, at_ := aBoundary } ∧ (u.loop 0).spxRise = some 0 ∧
       u.rd F.BENT_CTRL_USE 0 = 2 ∧ u.bentOn 0 0 = true ∧ u.loopBoundary 0 0 u.now = true ∧ (u.bent 0).useRamp = none ∧
       (u.loop 0).dacDue = some u.now ∧ (u.loop 0).dacDue ≠ some (u.at_ (aBoundary + 1)).now ∧
       (u.at_ (aBoundary + 256 * tickF)).now = aBoundary + 256 * tickF ∧ u.now ≠ aBoundary + 256 * tickF) := by decide

theorem witness_timeouts :
    let r : Rec := { ty := 1, stream := fsSid 0 0, die := 0, time := 0 }
    let u := ((((((running.setStream (fsSid 0 0) { cur := some r }).setStream (decSid 0 0) { cur := some r }).setStream
      (scanSid 0 0) { cur := some r }).setStream (telSid 0 0) { cur := some r }).setStream (stampSid 0 0)
      { cur := some r }).setStream (intSid 0 0) { cur := some r }).setStream (freqSid 0) { cur := some r }
    (∀ sid ∈ [fsSid 0 0, decSid 0 0, scanSid 0 0, telSid 0 0, stampSid 0 0, intSid 0 0, freqSid 0],
      (u.at_ (100 * secF)).dueAfter sid (60 * secF) = true) ∧ running.dueAfter (decSid 0 0) 0 = false := by decide

theorem witness_plumb :
    (running.poAsserted = false ∧ running.mode ≠ mBoot ∧ running.on F.PLUMB_CTRL_ROLE 0 = false ∧
      running.rd F.PLUMB_CTRL_PARENT 0 = 0 ∧ running.plumbNow % (100000000 * (tickF : Int)) = 0 ∧
      true ≠ running.on F.PLUMB_CTRL_PPS_POL 0) ∧
    (let u := ({ running with plumb := { req := [(0, some (3, 0, 0))] } }).at_ msF
     smapGet none u.plumb.req 0 = some (3, 0, 0) ∧ 0 + msF ≤ u.now ∧ (4 : BitVec 16).toNat ≠ 3) ∧
    (let u := (setRegs [(F.PLUMB_CTRL_ROLE, 0, 1), (F.PLUMB_STATUS_STATE, 0, psGm)]
        { running with plumb := { gmFirst := true, ppsWatch := true } }).at_ (1100 * msF)
     u.on F.PLUMB_CTRL_ROLE 0 = true ∧ u.plumb.gmFirst = true ∧ u.plumb.ppsWatch = true ∧ u.plumb.lastPps + 1100 * msF ≤ u.now ∧
       u.poAsserted = false ∧ u.mode ≠ mBoot ∧ u.on F.PLUMB_CTRL_PPS_POL 0 = false ∧ u.plumbState ≠ psHoldover) ∧
    (let u := setRegs [(F.PLUMB_CTRL_GM_ID, 0, 9)] { running with plumb := { req := [(0, some (3, 0, 0))] } }
     smapGet none u.plumb.req 0 = some ((3 : BitVec 16).toNat, 0, 0) ∧ u.now ≤ 0 + msF ∧
       (9 : BitVec 16).toNat = u.rd F.PLUMB_CTRL_GM_ID 0 ∧ u.on F.PLUMB_CTRL_ROLE 0 = false ∧
       0 = (({ u with plumb := { u.plumb with
         req := smapSet none u.plumb.req 0 none
         valid := smapSet 0 u.plumb.valid 0 2
         run := smapSet 0 u.plumb.run 0 (u.portRun 0 + 1) } } : State).followPort).rd F.PLUMB_STATUS_PORT_NOW 0) ∧
    (let u := { running with plumb := { step := some (4, 0, none) } }
     u.plumb.step = some (4, 0, none) ∧ u.now = 0 ∧ (u.at_ 1).now ≠ 0) ∧
    (let u := running.setTenon 0 { running.tenon 0 with reloadFrom := some 0 }
     u.reachable 0 = true ∧ (u.tenon 0).loaded = true ∧ u.plumbNow % (secF : Int) = 0 ∧ (u.tenon 0).reloadFrom = some 0 ∧
       u.now = 0 ∧ (u.at_ secF).plumbNow % (secF : Int) = 0 ∧ 0 < (u.at_ secF).now ∧ (u.at_ secF).now ≤ 0 + secF) := by
  decide

/-! ### Witnesses: memories, compression, rings -/

/-- A packet of one cell, of stream 0. -/
def aPkt : Pkt := { rec_ := { ty := 1, stream := 0, die := 0, time := 0, body := [1, 2] }, cells := [0] }

/-- A node whose queue 0 holds a packet for the reader of the given kind and number. -/
def withPkt (kind ix : Nat) : State :=
  setRegs [(F.QCFG_READER_KIND, 0, kind), (F.QCFG_READER_IDX, 0, ix), (F.FAB_NODE_ID, 0, 5)]
    { running with dx := { held := true }, pool := { ready := true, owner := [(0, 1)], queues := [(0, { pkts := [aPkt] })] } }

theorem witness_started :
    ∀ op ∈ [0x00, 0x01, 0x02, 0x03, 0x10, 0x11, 0x12, 0x13, 0x14, 0x15, 0x20, 0x21, 0x30, 0x31, 0x40, 0x50, 0x51, 0x60, 0x61],
      ((withDesc [op]).nextDesc 0).map (fun d => d.op) = some op := by decide

theorem witness_startedJob : Started ((withDesc [0x10]).at_ 7) 0 0x10 (started [0x10] 7) := ⟨_, rfl, rfl, rfl⟩

theorem witness_memories :
    running.memHas 17 65535 = true ∧ running.memHas 17 65536 = false ∧
      (let u := { running with pool := { wb := [flipKey 17 3] } }
       u.pool.wb.contains (flipKey 17 3) = true) ∧
      running.on F.QSTAT_HALTED 4095 = false ∧
      (let u := setRegs [(F.QSTAT_HALTED, 4095, 1)] running
       u.on F.QSTAT_HALTED 4095 = true ∧ (u.queue 4095).pkts[(u.queue 4095).taken]? = none) ∧
      (255 : Nat) ≠ 0 := by decide

/-- A queue halted at a packet of one cell, with upsets in the cell's memories. -/
def haltedAt (flips : List (Nat × Nat)) : State :=
  let s := withPkt 0 0
  setRegs [(F.QSTAT_HALTED, 0, 1)] { s with pool := { s.pool with flips := flips } }

/-- A halted queue whose packet's link entry and header can be read, and one whose header cannot (three flips). -/
theorem witness_halted :
    (let u := haltedAt []
     let w := u.wr F.QSTAT_HALTED 0 0
     u.on F.QSTAT_HALTED 0 = true ∧ (u.queue 0).pkts[(u.queue 0).taken]? = some aPkt ∧
       (∀ c ∈ aPkt.cells, (w.memLook memLink c 0).2 = true) ∧
       (w.cellWords 0 0 ((aPkt.rec_.words (u.rd F.FAB_NODE_ID 0)).take 4)).2.1 = true) ∧
    (let u := haltedAt [(flipKey 0 0, 7)]
     let w := u.wr F.QSTAT_HALTED 0 0
     u.on F.QSTAT_HALTED 0 = true ∧ (∀ c ∈ aPkt.cells, (w.memLook memLink c 0).2 = true) ∧
       (w.cellWords 0 0 ((aPkt.rec_.words (u.rd F.FAB_NODE_ID 0)).take 4)).2.1 = false) := by decide

theorem witness_scrubs :
    ((withDesc [0x20, 17]).setJob (started [0x20, 17] 0)).memReach 17 = true ∧
      ((withDesc [0x20, 40]).setJob (started [0x20, 40] 0)).memReach 40 = false ∧
      (let j := started [0x20, 17, 0, 4, 0] 0
       let u := { withDesc [] with jobs := [j], pool := { scrubs := [{ job := 0, mem := 17, first := 0, count := 4 }] } }
       u.pool.scrubs.find? (fun x => (u.job x.job).any (fun j => j.sq == 0)) =
           some { job := 0, mem := 17, first := 0, count := 4 } ∧ u.job 0 = some j) := by decide

theorem witness_repairs :
    let v := { (withDesc [0x21, 0]).setJob (started [0x21, 0] 0) with pool := { ready := true } }
    (v.repairStart 0 0 0 0).1 = true ∧ (v.repairStart 0 0 2 0).1 = true ∧
      ({ v with pool := { ready := true, repair := some { job := 9, bank := 1, action := 0, row := 0 } } }.repairStart 0 0 0 0).1
        = false ∧
      (let u := { v with pool := { ready := true, repair := some { job := 0, bank := 1, action := 0, row := 0, testing := true } } }
       ((u.repairDone true).1).isSome = true ∧ (((u.repairDone true).2).job 0).isSome = true) := by decide

theorem witness_compression :
    (let u := setRegs [(F.SEIF_CTRL_EN, 0, 1)] (withPkt 3 0)
     u.on F.SEIF_CTRL_EN 0 = true ∧ (u.seifEng 0).work = none ∧ u.seifReady 0 = false ∧ u.readerPick 3 0 = some 0 ∧
       ((u.takePkt 0).1).isSome = true) ∧
    (let u := running.setSeif 1 { work := some { queue := 0, rec_ := aPkt.rec_ } }
     (u.seifEng 1).work = some { queue := 0, rec_ := aPkt.rec_ }) ∧
    (let j := { started [0x31] 0 with stage := sjReady }
     let u := { running with jobs := [j] }.setSeif 2 { jobs := [0] }
     u.seifJob 2 = some j ∧ j.stage = sjReady) := by decide

theorem witness_descriptors :
    (let u := { setRegs [(F.RING_CFG_EN, ringIx rkSub 0, 1), (F.RING_CFG_EN, ringIx rkComp 0, 1), (F.RING_CFG_SIZE, ringIx rkSub 0, 4),
        (F.RING_CFG_SIZE, ringIx rkComp 0, 4)] running with rings := [(0, { tail := 1 })] }
     u.poAsserted = false ∧ u.fetchPick = some 0) ∧
    ((withDesc [0x99]).nextDesc 0).isSome = true ∧ opcodes.contains 0x99 = false ∧
    ((withDesc [0x10]).setJob (started [0x10] 0)).journaling = false ∧
    (({ withDesc [0x10] with dx := { held := true, sbState := 2 } }).setJob (started [0x10] 0)).journaling = true ∧
    (withDesc [0x01]).jobs.find? (fun j => j.sq == 0 && j.started && j.op == 0x01) = none ∧
    ((running.readSettle (chIx 0 0)).segStep 0 0).1 = none := by decide

theorem witness_rings :
    (let u := { running with dx := { held := true } }
     u.hostIfOn = true ∧ u.journaling = false) ∧ (14 : BitVec 4) ≠ 15 ∧ ringExists rkSub 255 = true ∧
      running.on F.RING_CFG_EN (ringIx rkSub 255) = false ∧
      (setRegs [(F.RING_CFG_EN, ringIx rkComp 7, 1)] running).on F.RING_CFG_EN (ringIx rkComp 7) = true ∧ rkComp ≠ rkRec ∧
      (let u := ((setRegs [(F.RING_COAL_IRQ_EN, ringIx rkComp 7, 1)] running).setRing rkComp 7 { firstAt := some 0 }).at_ secF
       (u.ring rkComp 7).firstAt = some 0 ∧ u.on F.RING_COAL_IRQ_EN (ringIx rkComp 7) = true ∧
         0 + u.rd F.RING_COAL_TIME (ringIx rkComp 7) * usF ≤ u.now) ∧
      (let u := ((setRegs [(F.RING_CFG_EN, ringIx rkRec 3, 1), (F.RING_CFG_EN, ringIx rkComp 0, 1),
          (F.RING_CFG_SIZE, ringIx rkComp 0, 4)] running).setRing rkRec 3 { buf := some { slot := 0, addr := 0 } }).at_ secF
       (u.ring rkRec 3).buf = some { slot := 0, addr := 0 } ∧ u.ringOn rkRec 3 = true ∧
         u.compBlocked (u.boundTo rkRec 3) = false ∧ 0 + u.rd F.RING_FLUSH_FLUSH (ringIx rkRec 3) * usF ≤ u.now) := by decide

theorem witness_gateway :
    (let u := { running with pba := [(3, 1)] }
     smapGet 0 (u.setMsix 3 3 (u.msixWord 3 3 - u.msixWord 3 3 % 2)).pba 3 = 1) ∧ smapGet 0 running.pba 3 ≠ 1 ∧
    (let r : PcieRead := { own := some (0, 0), addr := 0, words := 1, tag := some 5 }
     let u := { running with pcieReads := [r] }
     u.pcieReads.find? (fun r => r.tag == some (5 : BitVec 10).toNat) = some r ∧ r.own = some (0, 0) ∧ r.asked < r.words ∧
       { r with asked := 1 }.words ≤ { r with asked := 1 }.asked) ∧
    (let u := (running.setBell 9 { flight := some (1, 2, 1, 0) }).at_ (100 * secF)
     (u.bell 9).flight = some (1, 2, 1, 0) ∧ 0 + u.rd F.HR_GW_PROXY_TIMEOUT 0 * usF ≤ u.now ∧ 1 < 2) ∧
    b2n false = running.dx.die ∧ b2n true ≠ running.dx.die := by decide

theorem witness_clears :
    running.reachable 0 = true ∧ (running.setIso kTenon 5 (some icHost)).reachable 5 = false ∧ b2n false = running.dx.die ∧
      b2n true ≠ running.dx.die := by decide

/-! ### Witnesses: the fabric -/

/-- A link frame that waits or is unacknowledged. -/
def aFrame : Frame := { dest := 7, vc := 1, ty := frDoorbell }

/-- Port 0 in use at WIDTH 1 with its lane ACTIVE. -/
def portReady (x : Port) : State :=
  ((setRegs [(F.FAB_PORT_EN, 0, 1), (F.FAB_PORT_WIDTH, 0, 1)] running).setPort 0 x).setLane 0 { state := laActive }

/-- A lane record put in place of lane 0's. -/
def withLane (x : Lane) : State := running.setLane 0 x

theorem witness_ports :
    (let u := portReady { state := poDown }
     u.portUsed 0 = true ∧ u.lanesGood 0 = true ∧ (u.port 0).state = poDown ∧ (u.port 0).state ≠ poInit ∧
       (u.port 0).state ≠ poUp) ∧
    (let u := portReady { state := poInit, gotInit := true, sentAfter := true }
     (u.port 0).state = poInit ∧ (u.port 0).gotInit = true ∧ (u.port 0).sentAfter = true ∧
       (1 : BitVec 2).toNat = u.rd F.FAB_PORT_WIDTH 0 ∧ (2 : BitVec 2).toNat ≠ u.rd F.FAB_PORT_WIDTH 0) ∧
    (let u := portReady { state := poUp, unacked := [aFrame] }
     (u.port 0).state = poUp ∧ (u.port 0).waiting = [] ∧ (u.port 0).unacked ≠ []) := by decide

theorem witness_linkRetry :
    (running.port 0).state ≠ poUp ∧
    (let u := (portReady { state := poUp, unacked := [aFrame] }).at_ (2 * usF)
     (u.port 0).state = poUp ∧ (u.port 0).unacked ≠ [] ∧ (u.port 0).since + 2 * (u.port 0).rtt + 2 * usF ≤ u.now ∧
       (u.port 0).nak = false) ∧
    (let u := (portReady { state := poUp, unacked := [aFrame] }).at_ (2 * usF - 1)
     u.now < (u.port 0).since + 2 * (u.port 0).rtt + 2 * usF) ∧ (linkUp.rxTake 0 0).1 = true := by decide

theorem witness_frameOrder :
    (linkUp.port 0).state = poUp ∧ (0 : Nat) = (linkUp.port 0).rxSeq ∧
      (∀ n ∈ linkUp.portLanes 0, (linkUp.lane n).frozen = false) ∧ (2047 + 4096 - (linkUp.port 0).rxSeq) % 4096 < 2048 ∧
      2048 ≤ (2048 + 4096 - (linkUp.port 0).rxSeq) % 4096 ∧ (linkUp.port 0).nak = false ∧
      ((linkUp.setPort 0 { state := poUp, nak := true }).port 0).nak = true ∧ (linkUp.port 1).state ≠ poUp := by decide

theorem witness_arrives : Arrives (linkUp.at_ 9) 0 0 ((linkUp.at_ 9).rxTake 0 0).2 := by
  refine ⟨by decide, by decide, Prod.ext ?_ rfl⟩
  decide

theorem witness_forward :
    linkUp.nodeId ≠ 7 ∧ (7 : Nat) ≠ 0xFFFF ∧ (linkUp.rxTake 0 0).1 = true ∧ frVc frDoorbell = some 1 ∧
      frVc frDoorbell ≠ some 0 ∧ (5 : Nat) = linkUp.nodeId ∧
      (let w : Waiting := { frame := aFrame, since := 0, inPort := none }
       let u := (portReady { state := poUp, waiting := [w] }).at_ (100 * secF)
       (u.port 0).waiting = [w] ∧ w.since + u.rd F.FAB_CFG_DWELL_MAX 0 * usF ≤ u.now ∧
         (portReady {}).now < w.since + u.rd F.FAB_CFG_DWELL_MAX 0 * usF) := by decide

theorem witness_lanes :
    (running.lane 0).live = false ∧ ((withLane { state := laTraining }).lane 0).state = laTraining ∧
      ((withLane { state := laActive }).lane 0).state = laActive ∧
      (let x := (withLane { state := laTraining, signal := true }).lane 0
       x.live = true ∧ x.signal = true ∧ x.lock = false) ∧
      (let u := (withLane { state := laActive, hiBer := true }).at_ berSpan
       (u.lane 0).hiBer = true ∧ (u.lane 0).berAt + berSpan ≤ u.now ∧ running.now < (running.lane 0).berAt + berSpan) ∧
      (let u := setRegs [(F.LANE_CTRL_PSTATE, 0, 1)] (withLane { state := laTraining, signal := true, lock := true })
       (u.lane 0).state = laTraining ∧ (u.lane 0).signal = true ∧ (u.lane 0).lock = true ∧ (u.lane 0).hiBer = false ∧
         u.laneIso 0 = false ∧ u.rd F.LANE_CTRL_PSTATE 0 = 1) ∧
      (let u := { (withLane { state := laTraining, signal := true, lock := true }) with dx := { held := true } }
       u.rd F.LANE_CTRL_PSTATE 0 ≠ 1 ∧ u.standbyPort 0 = false ∧ (u.lane 0).state ≠ laDeep) ∧
      (running.setIso kLane 0 (some icHost)).laneIso 0 = true := by decide

theorem witness_laneSleep :
    (running.wrLegal F.LANE_CTRL_PSTATE 0 1).laneTesting 0 = false ∧
      ((setRegs [(F.LANE_TEST_GEN_EN, 0, 1)] running).wrLegal F.LANE_CTRL_PSTATE 0 1).laneTesting 0 = true ∧
      (running.lane 0).state ≠ laQuiet ∧ (running.lane 0).state ≠ laDeep ∧
      (let w : Waiting := { frame := aFrame, since := 0, inPort := none }
       let u := { setRegs [(F.LANE_CTRL_AUTO_WAKE, 0, 1)]
         ((portReady { state := poUp, waiting := [w] }).setLane 0 { state := laQuiet }) with dx := { held := true } }
       u.standbyPort 0 = false ∧ running.standbyPort 8 = true ∧ (u.lane 0).state = laQuiet ∧ u.on F.LANE_CTRL_AUTO_WAKE 0 = true ∧ (u.port (u.portOfLane 0)).waiting ≠ [] ∧
         u.portLanes (u.portOfLane 0) = [0]) ∧
      (let u := (setRegs [(F.LANE_CTRL_WAKE_DET, 0, 1)] (withLane { state := laDeep, signal := true })).at_ (10 * usF)
       (u.lane 0).state = laDeep ∧ u.on F.LANE_CTRL_WAKE_DET 0 = true ∧ (u.lane 0).signal = true ∧
         (u.lane 0).sigSince + 10 * usF ≤ u.now) ∧
      (let u := setRegs [(F.LANE_CTRL_TI_EN, 0, 1)] (withLane { state := laActive, lock := true })
       (u.lane 0).state = laActive ∧ u.on F.LANE_CTRL_TI_EN 0 = true ∧ (u.lane 0).live = true ∧ (u.lane 0).lock = true ∧
         (u.lane 0).prbs = none ∧ (u.lane 0).frozen = false) ∧
      prbs31 0 56 = trainBits 0 ∧ prbs31 0 56 ≠ trainBits 1 ∧
      (let u := setRegs [(F.MODE_STATUS_MODE, 0, 6), (F.LANE_INJ_KIND, 0, 1)] running
       u.mode = mService ∧ u.rd F.LANE_INJ_KIND 0 = 1) ∧ running.laneIso 0 = false ∧ running.mode ≠ mService ∧
      bitAt 16 4 = true ∧
      (let u := running.setIso kLane 0 (some icHost)
       u.laneIso 0 = true ∧ u.checking 0 = false ∧ bitAt 32 5 = true) ∧
      running.on F.LANE_CTRL_KEEP_COEF 0 = false ∧
      (setRegs [(F.LANE_CTRL_KEEP_COEF, 0, 1)] running).on F.LANE_CTRL_KEEP_COEF 0 = true := by decide

theorem witness_hostFrames :
    (let w := (linkUp.rxTake 0 0).2
     w.proxied < proxyMax) ∧
    (let r : FabRead := { grp := 0, part := 0, addr := 0, words := 1, tag := 5, since := 0 }
     let w := credited { (linkUp.rxTake 0 0).2 with fabReads := [r] } 0 2 1
     w.fabReads.find? (fun r => r.tag == (5 : BitVec 14).toNat) = some r) ∧
    (let x : FabWrite := { frame := { aFrame with tag := 5 }, addr := 0, kind := 0, ring := 0, since := 0 }
     let w := credited { (linkUp.rxTake 0 0).2 with fabWrites := [x] } 0 2 0
     w.fabWrites.find? (fun y => y.sent && y.frame.tag == (5 : BitVec 14).toNat) = some x ∧ x.entry = none ∧
       w.fabReads.find? (fun r => r.tag == (5 : BitVec 14).toNat) = none) ∧
    (let w := credited { (linkUp.rxTake 0 0).2 with bells := [(3, { flight := some (1, 5, 0, 0) })] } 0 2 0
     w.fabWrites.find? (fun y => y.sent && y.frame.tag == (5 : BitVec 14).toNat) = none ∧
       w.bells.find? (fun b => (b.2.flight.map (fun f => f.2.1)) == some (5 : BitVec 14).toNat) =
         some (3, { flight := some (1, 5, 0, 0) })) := by decide

/-- 16,384 proxied reads in flight: the credits of the next are withheld. -/
theorem witness_proxyFull (r : PcieRead) (h : r.own = none) :
    proxyMax ≤ { linkUp with pcieReads := List.replicate proxyMax r }.proxied := by
  have h' : r.own.isNone = true := by rw [h]; rfl
  simp [State.proxied, h']

theorem witness_bells :
    (credited (linkUp.rxTake 0 0).2 0 1 1).journaling = false ∧
      (credited { (linkUp.rxTake 0 0).2 with dx := { held := true, sbState := 2 } } 0 1 1).journaling = true ∧
      linkUp.ownDie 0 = true ∧
      ([({ src := 3, tag := 4, at_ := 0 } : Seen)].any (fun y => y.src == 3 && y.tag == 4)) = true ∧
      linkUp.on F.FAB_ASSIGN_ARM 0 = false ∧ linkUp.nodeId ≠ 0xFFFF ∧ (linkUp.port (linkUp.portBase + routeDigit 0 0)).state = poUp ∧
      (linkUp.port (0 / 8 * 8 + routeDigit 1 0)).state ≠ poUp ∧ (linkUp.rxTake 0 0).2.nodeId ≠ 0xFFFF ∧
      linkUp.jobs.find? (fun j => j.op == 0x60 && j.tag == 1) = none ∧
      ({ withDesc [] with jobs := [{ started [0x60] 0 with tag := 1 }] }).jobs.find? (fun j => j.op == 0x60 && j.tag == 1) =
        some { started [0x60] 0 with tag := 1 } := by decide

theorem witness_fabricResets :
    min 256 (ceilDiv (bitsAt ((started [0x61, 0, 0, 0] 0).w 3) 0 16) 8) = 0 ∧
      min 256 (ceilDiv (bitsAt ((started [0x61, 0, 0, 136] 0).w 3) 0 16) 8) ≠ 0 ∧ running.secq = [] ∧
      running.faPending = none ∧ { running with faPending := some (1, 2) }.faPending = some (1, 2) ∧
      running.ports.any (fun p => p.2.waiting.any (fun w => w.frame.ty == frFaRsp && w.frame.src == running.nodeId)) = false ∧
      (let w : Waiting := { frame := { aFrame with ty := frFaRsp, src := 5 }, since := 0, inPort := none }
       let u := setRegs [(F.FAB_NODE_ID, 0, 5)] (portReady { state := poUp, waiting := [w] })
       u.ports.any (fun p => p.2.waiting.any (fun w => w.frame.ty == frFaRsp && w.frame.src == u.nodeId)) = true) := by decide

theorem witness_forwarders :
    (let x : Fwd := { unacked := List.replicate 16 { fseq := 0, queue := 0, words := [] } }
     16 ≤ ((running.setFwd 63 x).fwd 63).unacked.length) ∧
    (let u := setRegs [(F.FAB_FWD_EN, 63, 1), (F.FAB_FWD_DEST_NODE, 63, 9)] (withPkt 4 63)
     u.on F.FAB_FWD_EN 63 = true ∧ u.rd F.FAB_FWD_DEST_NODE 63 ≠ 0xFFFF ∧ u.nodeId ≠ 0xFFFF ∧ (u.fwd 63).unacked.length < 16 ∧
       (u.fwd 63).back = false ∧ u.readerPick 4 63 = some 0 ∧ ((u.takePkt 0).1).isSome = true) ∧
    running.readerPick 4 63 = none ∧
    (let u := (running.setFwd 63 { unacked := [{ fseq := 0, queue := 0, words := [] }] }).at_ (100 * secF)
     (u.fwd 63).unacked ≠ [] ∧ (u.fwd 63).since + u.rd F.HR_GW_PROXY_TIMEOUT 0 * usF ≤ u.now ∧
       running.now < (u.fwd 63).since + u.rd F.HR_GW_PROXY_TIMEOUT 0 * usF) ∧
    (((linkUp.rxTake 0 0).2.inFrame 2 3 4 5 true false [1] (some 0)).inb 2).pend = [] := by decide

/-! ### Witnesses: security, duplex, modes, boot, parts, registers, TAP -/

theorem witness_security :
    (let v := (setRegs [(F.ZC_STATUS_STATE, 1, zRunning)] (withDesc [0x40, 1])).setJob (started [0x40, 1] 0)
     v.isolated kCore 1 = false ∧ v.zState 1 ≠ zEmpty ∧ v.zState 1 ≠ zHalted ∧ v.zState 1 ≠ zTrapped) ∧
    (let v := (withDesc [0x40, 0, 8, 16]).setJob (started [0x40, 0, 8, 16] 0)
     v.zState 0 = zEmpty ∧ ceilDiv (bitsAt ((started [0x40, 0, 8, 16] 0).w 3) 0 32) 8 ≠ 0 ∧
       ceilDiv (bitsAt ((started [0x40, 0, 8, 0] 0).w 3) 0 32) 8 = 0 ∧
       (v.setIso kCore 0 (some icHost)).isolated kCore 0 = true) ∧
    { running with secq := [.bundle 3] }.secq = .bundle 3 :: [] ∧
    (started [0x51, 0] 0).secOp = 0 ∧ (started [0x51, 6] 0).secOp = 6 ∧ (started [0x51, 7] 0).secOp = 7 ∧
    bitsAt ((started [0x51, 1, 0, 208] 0).w 3) 0 16 = 208 ∧ bitsAt ((started [0x51, 1, 0, 209] 0).w 3) 0 16 ≠ 208 ∧
    { running with part := .vt4 }.part ≠ .vt8 ∧ running.part = .vt8 := by decide

theorem witness_identities :
    let u := ({ running with part := .vt8 }.setSec 0 { ids := [(0, some (1, 1))] }).setSec 1 { ids := [(0, some (1, 2))] }
    u.part = .vt8 ∧ (u.idSeed 0).isSome = true ∧ (u.idSeed 1).isSome = true := by decide

/-- The active of a VT8 whose other die has left BOOT. -/
def activePair (x : Duplex) : State := { running with dx := x }.setBoot 1 { doneAt := some 0 }

theorem witness_duplex :
    (let u := activePair { held := true }
     u.part = .vt8 ∧ u.dx.held = true ∧ u.plumbNow % ((16000 * tickF : Nat) : Int) = 0 ∧ u.standbyThere = true ∧
       (u.at_ (8000 * tickF)).plumbNow % ((16000 * tickF : Nat) : Int) = ((8000 * tickF : Nat) : Int)) ∧
    { running with part := .vt4 }.part ≠ .vt8 ∧
    (let c : Cycle := { num := 0 }
     let u := activePair { held := true, sbState := 2, cycles := [c, { num := 1 }, { num := 2 }] }
     u.dx.cycles.find? (fun c => !c.received) = some c ∧ u.dx.held = true ∧ u.dx.sbState = 2 ∧ 3 ≤ u.dx.cycles.length) ∧
    (activePair { held := true, sbState := 2 }).dx.cycles.length < 3 ∧
    (let u := (activePair { held := true, sbState := 2 }).at_ (6 * usF)
     u.standbyThere = true ∧ u.dx.keepAt + (6 + 5 * u.dx.missed) * usF ≤ u.now ∧ u.dx.req = none ∧ u.dx.sbState = 2) ∧
    (let u := activePair { held := true, sbState := 1 }
     u.dx.held = true ∧ u.dx.sbState = 1 ∧ u.dx.bulk = false ∧ u.standbyThere = true) ∧
    (let u := setRegs [(F.DX_CTRL_F_SUPPLY, 0, 1)] (activePair { held := true, sbState := 2 })
     u.dx.held = true ∧ u.on F.DX_CTRL_F_SUPPLY u.dx.die = true) ∧
    (let u := (activePair {}).at_ (100 * msF)
     (u.boot (b2n true)).doneAt = some 0 ∧ u.dx.held = false ∧ u.dx.released = false ∧ u.dx.req = none ∧ smapGet 0 u.dieRails (b2n true) = 0 ∧
       0 + 100 * msF ≤ u.now ∧ (u.boot 0).doneAt = none ∧ (u.boot (b2n false)).doneAt = none) ∧
    (let u := activePair { held := false, req := some (1, 0) }
     u.dx.req = some (1, 0) ∧ u.dx.held = false) ∧
    (let u := (activePair { held := true, req := some (1, 1) }).at_ (10 * usF - 1)
     u.dx.held = true ∧ u.now < u.dx.keepAt + 10 * usF) := by decide

theorem witness_modes :
    (running.poAsserted = false ∧ running.dorm.stage ≠ 1 ∧ running.dorm.stage ≠ 3) ∧
    { running with dorm := { stage := 3 } }.dorm.stage = 3 ∧
    (let u := { running with dorm := { stage := 1 } }.at_ (100 * secF)
     u.dorm.stage = 1 ∧ u.dorm.since + u.rd F.DORM_CFG_DRAIN 0 * msF ≤ u.now) ∧
    (let u := setRegs [(F.DORM_WAKE_WAKE_EN, 0, 1), (F.DORM_CFG_HOST_WAKE, 0, 1)] running
     u.on F.DORM_WAKE_WAKE_EN 0 = true ∧ plumbSec (u.rd F.DORM_WAKE_WAKE_SEC 0) * (secF : Int) ≤ u.plumbNow ∧
       u.on F.DORM_CFG_HOST_WAKE 0 = true) ∧
    (let u := { running with dorm := { stage := 2, duty := [bentIx 5 15] }, bentOff := [(bentIx 5 15, 1)] }
     u.dorm.stage = 2 ∧ u.dorm.duty.contains (bentIx 5 15) = true ∧ smapGet 0 u.bentOff (bentIx 5 15) = 1 ∧
       (u.bent (bentIx 5 15)).passOn = false ∧ (u.bent (bentIx 5 15)).entry = none) ∧
    smapGet 0 running.bentOff (bentIx 5 15) = 0 ∧
    (let u := { running with dorm := { stage := 3, off := [(5, 0)] } }
     u.dorm.stage = 3 ∧ u.dorm.off.contains (5, 0) = true ∧ u.dxReaches 5 0 = true) ∧ running.present 5 = true := by decide

theorem witness_resets :
    running.poAsserted = false ∧ { running with poAsserted := true }.mortisesFed = true ∧
      { running with poAsserted := true, dieRails := [(1, 1)] }.mortisesFed = false ∧
      ({ running with poAsserted := true }.setBoot 0 { fedAt := some running.now }).mortisesFed = false ∧
      { running with part := .vt2 }.present 5 = false ∧ running.present 5 = true ∧ { running with part := .vt4 }.part ≠ .vt8 ∧
      b2n false = 0 ∧ b2n false = running.dx.die ∧ b2n true ≠ running.dx.die ∧ { running with dx := { held := true } }.dx.held = true := by
  decide

/-- A die part of the way through its boot. -/
def booting (b : Boot) : State := (setRegs [(F.MODE_STATUS_MODE, 0, 1)] tenonUp).setBoot 0 b

theorem witness_boot :
    ((booting {}).boot 0).refclk = false ∧ ((booting { refclk := true }).boot 0).s1 = false ∧
      (let b := (booting { refclk := true, s1 := true }).boot 0
       b.refclk = true ∧ b.s1 = true ∧ b.pll = false ∧ b.fill = false) ∧
      { booting { s1 := true } with pool := { ready := true } }.pool.ready = true ∧
      (let b := (booting { fill := true, pll := true }).boot 0
       b.fill = true ∧ b.pll = true ∧ b.test = false ∧ b.failTest = false) ∧
      (let u := (booting {}).setTenon 0 { filled := true }
       u.present 0 = true ∧ (u.tenon 0).filled = true ∧ (u.tenon 0).tested = false ∧ u.mode = mBoot) ∧
      (let u := running.setBoot 1 { test := true }
       (u.boot (b2n true)).test = true ∧ (u.boot (b2n true)).bundles = false ∧ (u.boot (b2n true)).failBundle = false ∧
         b2n true ≠ u.dx.die ∧ u.bootEntries (b2n true) = []) ∧
      (let e : BootEntry := { core := 2, autorun := true, svn := 0, offset := 0, len := 0, digest := [] }
       let u := ((List.range 6).foldl (fun s k => s.setTenon k { tested := true }) (booting { test := true })).setSec 0
         { boot := [e] }
       (u.boot (b2n false)).test = true ∧ (u.boot (b2n false)).bundles = false ∧ (u.boot (b2n false)).failBundle = false ∧
         b2n false = u.dx.die ∧ u.mode = mBoot ∧ u.tenonsTested = true ∧ u.bootEntries (b2n false) = [(2, e)]) ∧
      (let e : BootEntry := { core := 3, autorun := false, svn := 0, offset := 0, len := 0, digest := [] }
       let u := (running.setBoot 1 { test := true }).setSec 1 { boot := [e] }
       (u.boot (b2n true)).test = true ∧ b2n true ≠ u.dx.die ∧ u.bootEntries (b2n true) = [(3, e)]) ∧
      (let u := { booting { bundles := true } with part := .vt4 }
       (u.boot 0).bundles = true ∧ (u.boot 0).doneAt = none ∧ u.poAsserted = false ∧ u.part ≠ .vt8) ∧
      (let u := { setRegs [(F.HEALTH_CFG_EN, 0, 1)] running with dx := { held := true } }
       u.hostIfOn = true ∧ u.mode ≠ mBoot ∧ u.on F.HEALTH_CFG_EN 0 = true ∧
         u.plumbNow % ((u.rd F.HEALTH_CFG_PERIOD 0 * secF : Nat) : Int) = 0) ∧
      (setRegs [(F.HEALTH_CFG_EN, 0, 0)] running).on F.HEALTH_CFG_EN 0 = false := by
  refine ⟨by decide, by decide, by decide, by decide, by decide, by decide, by decide, by decide, by decide, by decide, by decide,
    by decide⟩

theorem witness_tenons :
    (running.present 0 = true ∧ (running.tenon 0).clocked = true ∧ (running.tenon 1).clocked = false ∧
      (running.tenon 0).locked = true ∧ (running.tenon 1).locked = false ∧ (running.tenon 0).downA = false ∧
      (running.tenon 0).down false = false ∧ ((running.tenon 0).link false true).fails < 7 ∧
      (3 : Nat) ≠ ((running.tenon 0).link false true).next) ∧
    (let x := { running.tenon 0 with links := [(1, { fails := 7 })] }
     ((running.setTenon 0 x).tenon 0).down false = false ∧ 7 ≤ (((running.setTenon 0 x).tenon 0).link false true).fails) ∧
    (let u := (running.setTenon 0 { running.tenon 0 with downB := true })
     (u.tenon 0).down (true && u.part == .vt8) = true) ∧
    (running.isolated kTenon 0 = false ∧ (running.setIso kTenon 0 (some icFault)).isolated kTenon 0 = true ∧
      ((running.setIso kTenon 0 (some icFault)).tenon 0).locked = true) ∧
    (let u := running.at_ (10 * usF)
     (running.plumbNow % ((16 * tickF : Nat) : Int) = 0 ∧ ¬ (running.tenon 0).lockAt + 10 * usF ≤ running.now) ∧
       (u.tenon 0).lockAt + 10 * usF ≤ u.now ∧
       (running.at_ (16 * tickF * 8000)).plumbNow % ((16 * tickF : Nat) : Int) = 0 ∧
       ((running.at_ (16 * tickF * 8000)).tenon 0).lockAt + 10 * usF ≤ (running.at_ (16 * tickF * 8000)).now) ∧
    (let u := { running with part := .vt4 }.setTenon 0 { (running.tenon 0) with txA := [aPkt.rec_] }
     u.part ≠ .vt8 ∧ (u.tenon 0).tx false = aPkt.rec_ :: [] ∧ u.isolated kTenon 0 = false ∧ (u.tenon 0).downA = false ∧
       ((u.tenon 0).link false false).replay = false ∧
       (u.tenon 0).tx (u.part == .vt8 && u.dx.die == 1) = aPkt.rec_ :: []) ∧
    (let u := { running with part := .vt4 }.setTenon 0 { (running.tenon 0) with links := [(0, { replay := true })] }
     u.present 0 = true ∧ (u.tenon 0).downA = false ∧ ((u.tenon 0).link false false).replay = true) ∧
    (running.tenon 0).tx (running.part == .vt8 && running.dx.die == 1) = [] ∧ running.loss 1 0 = none ∧
    (let l : LossPend := { count := 1, flags := 0, seq := 0, time := 0, bent := 0, channel := 0, epoch := 0, cause := 1, lastTime := 0 }
     let u := running.setLoss (b2n true) 0 (some l)
     u.loss (b2n true) 0 = some l ∧ fifoBytes ((u.tenon 0).tx true) + (lossRec 0 0 l).len * 8 ≤ fifoSize) ∧
    (let u := (running.setIso kTenon 0 (some icFault)).setTenon 0 { portLoss := true, downA := true, downB := true }
     u.isolated kTenon 0 = true ∧ (u.tenon 0).portLoss = true ∧ (u.tenon 0).downA = true ∧ (u.tenon 0).downB = true) ∧
    (let u := setRegs [(F.PART_SEL_KIND, 0, kLane), (F.PART_SEL_INDEX, 0, 3)] running
     u.partSel = (kLane, 3) ∧ u.partThere kLane 3 = true ∧ u.mode ≠ mBoot ∧ kLane ≠ kTenon ∧ kLane ≠ kStandby ∧
       kLane ≠ kBent ∧ u.poAsserted = false) ∧ (booting {}).mode = mBoot := by decide

theorem witness_registers :
    (8 : BitVec 13) ≠ 0 ∧ { running with part := .vt2 }.present 5 = false ∧ running.present 0 = true ∧
      running.tenonTakes 0 = true ∧ running.poAsserted = false ∧ false = (running.part == .vt8 && running.dx.die == 1) ∧
      true ≠ (running.part == .vt8 && running.dx.die == 1) ∧ ((running.tenon 0).link false true).replay = false ∧
      ((withDesc [0x02, 0]).setJob (started [0x02, 0] 0)).localNode (started [0x02, 0] 0) = true ∧
      ((withDesc [0x02, 7 * 2 ^ 48]).setJob (started [0x02, 7 * 2 ^ 48] 0)).localNode (started [0x02, 7 * 2 ^ 48] 0) = false ∧
      ((withDesc [0x03, 0]).setJob (started [0x03, 0] 0)).journaling = false ∧
      (({ withDesc [0x03, 0] with dx := { held := true, sbState := 2 } }).setJob (started [0x03, 0] 0)).journaling = true ∧
      running.writesWait = false ∧ { running with dx := { acts := [.w0 0 15 0] } }.writesWait = true ∧
      running.jobs.find? (fun j => (j.op == 0x02 || j.op == 0x03) && j.tag == 1) = none ∧
      ({ withDesc [] with jobs := [{ started [0x02] 0 with tag := 1 }] }).jobs.find?
        (fun j => (j.op == 0x02 || j.op == 0x03) && j.tag == 1) = some { started [0x02] 0 with tag := 1 } := by decide

theorem witness_tap :
    (booting {}).mode = mBoot ∧ running.mode ≠ mBoot ∧ running.mode ≠ mSetup ∧ running.debugOpen = false ∧
      (setRegs [(F.SEC_STATUS_DEBUG, 0, 1)] running).debugOpen = true := by decide

/-! ### Zillo words and instructions -/

/-- Words written out from the fields of R386, opcode first: register arithmetic, immediates, memory, addresses. -/
theorem test_words_compute :
    zDecode 0b00000000000000000000000000000000 = some .nop ∧
      zDecode 0b00000100110001001000000000000000 = some (.add 3 1 2) ∧
      zDecode 0b00101010101011110100000000000000 = some (.clt 10 11 13) ∧
      zDecode 0b01000001010110000000000000000101 = some (.addi 5 6 5) ∧
      zDecode 0b01010000110000000000000000000111 = some (.movi 3 7) ∧
      zDecode 0b01010101100000001000000000000000 = some (.movh 6 0x8000) ∧
      zDecode 0b01100000010100010000000000000011 = some (.ldw 1 2 1 3) ∧
      zDecode 0b01101000100110100000000000000000 = some (.ldd 2 3 2 0) ∧
      zDecode 0b01110001100100010000000000000001 = some (.maxm 6 2 1 1) ∧
      zDecode 0b10000000100011000000000000000000 = some (.seta 2 3) ∧
      zDecode 0b10000100100011010000000000000000 = some (.setc 2 3 4) ∧
      zDecode 0b10001000010110000000000000000000 = some (.geta 1 3) ∧
      zDecode 0b10001101010000000000000000010000 = some (.adda 5 16) := by decide

/-- Words of the complex, branch, repeat, control and queue instructions. -/
theorem test_words_control :
    zDecode 0b10010001010111110000000000000000 = some (.cmac 1 2 7 true true false false) ∧
      zDecode 0b10010110000101001111000000000000 = some (.cmacr 2 5 3 true true) ∧
      zDecode 0b10011011000000000000000000000000 = some (.clra 3) ∧
      zDecode 0b10011100111000000000000000001110 = some (.extc 3 2 14) ∧
      zDecode 0b10100000111000000000000000101110 = some (.extr 3 2 true 14) ∧
      zDecode 0b10100100000000000000000000000101 = some (.b 5) ∧
      zDecode 0b10101101001111111111111111111100 = some (.bnz 4 (BitVec.ofInt 22 (-4))) ∧
      zDecode 0b10110000010010000000000000000011 = some (.blt 1 2 3) ∧
      zDecode 0b10111100000000000000011111111111 = some (.rpt 2047) ∧
      zDecode 0b11001100010000000000000000001110 = some (.mfc 1 14) ∧
      zDecode 0b11010000000001000000000000000101 = some (.mtc 1 5) ∧
      zDecode 0b11010100000000000000000000000010 = some (.sig 2) ∧
      zDecode 0b11100000110000000000000000000000 = some (.qopen 3) ∧
      zDecode 0b11101000110100000000000000000000 = some (.qblk 3 2) ∧
      zDecode 0b11111100000000000000000000000001 = some (.qclose true) := by decide

/-- What R380 calls undefined spells nothing: an unlisted opcode, a stray bit, AM 4, an odd pair, a creg above 22. -/
theorem test_words_refused :
    zDecode 0b00101100000000000000000000000000 = none ∧ zDecode 0b00000000000000000000000000000001 = none ∧
      zDecode 0b01100000010101000000000000000000 = none ∧ zDecode 0b01101000010110100000000000000000 = none ∧
      zDecode 0b11001100010000000000000000010111 = none ∧ zDecode 0b11100100010000000000000000000000 = none := by decide

/-- The 8-point table of R367: eight post-modifications visit offsets 0, 16, 8, 24, 4, 20, 12, 28. -/
theorem test_post_bit_reversed :
    ((List.range 8).foldl (fun (l : List Nat × ZCore) _ =>
      (l.1 ++ [(l.2.a 0).toNat], l.2.setA 0 (l.2.post 0 16)))
      (([] : List Nat), (({} : ZCore).setCur { ({} : ZCore).cur with c := [(0, 0x80020)] }))).1 =
        [0, 16, 8, 24, 4, 20, 12, 28] := by decide

/-- A core that runs at an instruction has it as ZAt demands. -/
theorem zAt_of_atInstr {s : State} {i : ZOp} (h : atInstr s i = true) : ZAt s 0 i (fetchedOf s) := by
  simp only [atInstr, Bool.and_eq_true, beq_iff_eq] at h
  exact ⟨h.1.1, _, Prod.ext rfl (Prod.ext h.1.2 rfl), h.2⟩

theorem witness_zillo : ZAt (coreWith 0x04C48000 0 {}) 0 (.add 3 1 2) (fetchedOf (coreWith 0x04C48000 0 {})) :=
  zAt_of_atInstr (by decide)

/-- Each instruction can stand where core 0 runs. -/
theorem witness_zilloEach :
    [ZOp.nop, .add 3 1 2, .sub 3 1 2, .and 3 1 2, .or 3 1 2, .xor 3 1 2, .shl 3 1 2, .shr 3 1 2, .sar 3 1 2, .mul 3 1 2,
      .clt 3 1 2, .addi 3 1 2, .andi 3 1 2, .shli 3 1 2, .shri 3 1 2, .movi 3 7, .movh 3 7, .seta 2 1, .geta 3 2, .adda 2 8,
      .setc 2 1 3, .cmacr 1 2 3 true false, .clra 1, .extc 3 1 4, .extr 3 1 true 4].all
      (fun i => i.wf && atInstr (coreWith (zEncode i) 0 {}) i) = true := by decide

/-- What a core does between repetitions: none in progress, one to come, the last. -/
theorem witness_zNext :
    ({} : ZCore).haltAt = none ∧ ({} : ZCore).rpt = none ∧ (1 : Nat) < 2 ∧ ({ rpt := some (2, 0) } : ZCore).rpt = some (2, 0) ∧
      ({ rpt := some (1, 3) } : ZCore).rpt = some (1, 3) := by decide

/-- Loads, stores and searches at an aligned address, and CMAC in its three forms. -/
theorem witness_zilloMemory :
    (∀ i ∈ [ZOp.ldw 2 0 0 3, .stw 2 0 0 3, .maxm 2 0 0 3, .minm 2 0 0 3],
      (atInstr (coreWith (zEncode i) 0 {}) i && ((((fetchedOf (coreWith (zEncode i) 0 {})).zcore 0).ea 0 0 3 4).1 == 12) &&
        ((fetchedOf (coreWith (zEncode i) 0 {})).zread 0 12).2.1) = true) ∧
    (∀ i ∈ [ZOp.ldd 2 0 0 1, .std 2 0 0 1],
      (atInstr (coreWith (zEncode i) 0 {}) i && ((((fetchedOf (coreWith (zEncode i) 0 {})).zcore 0).ea 0 0 1 8).1 == 8) &&
        ((fetchedOf (coreWith (zEncode i) 0 {})).zread 0 8).2.1) = true) ∧
    (∀ i ∈ [ZOp.cmac 1 0 2 true false false false, .cmac 1 0 2 true true false false, .cmac 1 0 2 true true true false],
      (atInstr (coreWith (zEncode i) 0 {}) i && (((fetchedOf (coreWith (zEncode i) 0 {})).zcore 0).a 0 == 0) &&
        ((fetchedOf (coreWith (zEncode i) 0 {})).zread 0 0).2.1) = true) := by decide

/-- A core whose a_0 is 6: every memory instruction off its alignment. -/
def oddCore (i : ZOp) (c : ZCore) : State := coreWith (zEncode i) 0 ((c.setA 0 6).setG 1 3)

theorem witness_misaligned :
    (∀ i ∈ [ZOp.ldw 2 0 1 0, .stw 2 0 1 0, .maxm 2 0 1 0, .minm 2 0 1 0],
      (atInstr (oddCore i {}) i && ((((fetchedOf (oddCore i {})).zcore 0).ea 0 1 0 4).1 % 4 != 0)) = true) ∧
    (∀ i ∈ [ZOp.ldd 2 0 1 0, .std 2 0 1 0],
      (atInstr (oddCore i {}) i && ((((fetchedOf (oddCore i {})).zcore 0).ea 0 1 0 8).1 % 8 != 0)) = true) ∧
    (let i := ZOp.cmac 1 0 2 false false false false
     (atInstr (oddCore i {}) i && (((fetchedOf (oddCore i {})).zcore 0).a 0).toNat % 4 != 0) = true) ∧
    (let i := ZOp.cmac 1 2 0 false false false false
     (atInstr (oddCore i {}) i && (((fetchedOf (oddCore i {})).zcore 0).a 2).toNat % 4 == 0 &&
       ((fetchedOf (oddCore i {})).zread 0 0).2.1 && (((fetchedOf (oddCore i {})).zcore 0).a 0).toNat % 4 != 0) = true) := by
  decide

/-- A core with a packet of a waiting queue open, and one with a record open. -/
def reading (i : ZOp) : State :=
  let s := coreWith (zEncode i) 0 { ({} : ZCore).setA 0 6 with inp := some (3, 0) }
  let s := s.setQueue 3 { taken := 1, pkts := [aPkt] }
  s.setZcore 0 ((s.zcore 0).setG 1 2)

def writing (i : ZOp) (n : Nat) : State :=
  let s := coreWith (zEncode i) 0 { ({} : ZCore).setA 0 6 with outp := some { stream := 7, queue := 3, words := List.replicate n 1 } }
  s.setZcore 0 ((s.zcore 0).setG 1 2)

theorem witness_misalignedBlocks :
    (let i := ZOp.qblk 1 0
     let u := fetchedOf (reading i)
     atInstr (reading i) i = true ∧ ((u.zcore 0).a 0).toNat % 8 ≠ 0 ∧ (u.zcore 0).g 1 ≠ 0 ∧ (u.zcore 0).inp.isSome = true ∧
       u.zLeft 0 ≠ 0) ∧
    (let i := ZOp.qpblk 1 0
     let u := fetchedOf (writing i 4)
     atInstr (writing i 4) i = true ∧ ((u.zcore 0).a 0).toNat % 8 ≠ 0 ∧ (u.zcore 0).g 1 ≠ 0 ∧
       (u.zcore 0).outp.isSome = true) := by decide

/-- Branches, jumps on and off a word, repeats of a marked and of an unmarked instruction, and the control instructions. -/
theorem witness_zilloControl :
    ([ZOp.b 5, .call 5, .bz 1 5, .bnz 1 5, .blt 1 2 5, .wait, .reti, .mfc 1 0, .mtc 1 1, .sig 2, .halt, .jr 1].all
      (fun i => atInstr (coreWith (zEncode i) 0 {}) i)) = true ∧
    ((({} : ZCore).g 1).setWidth 19 : BitVec 19).toNat % 4 = 0 ∧
    (((({} : ZCore).setG 1 6).g 1).setWidth 19 : BitVec 19).toNat % 4 ≠ 0 ∧
    (∀ i ∈ [ZOp.rpt 3, .rptr 1],
      (let u := coreWith (zEncode i) (zEncode (.clra 1)) {}
       atInstr u i && ((fetchedOf u).zread 0 4).2.1 &&
         zDecode (halfAt ((fetchedOf u).zread 0 4).1 4) == some (.clra 1) && (ZOp.clra 1).repeatable) = true ∧
      (let u := coreWith (zEncode i) (zEncode .halt) {}
       atInstr u i && ((fetchedOf u).zread 0 4).2.1 &&
         zDecode (halfAt ((fetchedOf u).zread 0 4).1 4) == some .halt && !ZOp.halt.repeatable) = true) ∧
    (let u := fetchedOf (coreWith (zEncode .wait) 0 { ien := 2, latched := 2 })
     u.zIrq 0 = true) ∧
    (let u := fetchedOf (coreWith (zEncode .wait) 0 {})
     u.zIrq 0 = false ∧ u.zState 0 = zRunning) := by decide

theorem witness_zilloQueues :
    ([ZOp.qopen 2, .qrdd 2, .qblk 1 0, .qdone, .qnew 1, .qwrd 2, .qpblk 1 0, .qclose true, .qclose false].all
      (fun i => atInstr (reading i) i && atInstr (writing i 4) i && atInstr (coreWith (zEncode i) 0 {}) i)) = true ∧
    ((fetchedOf (reading .qdone)).zcore 0).inp = some (3, 0) ∧ ((fetchedOf (writing .qdone 4)).zcore 0).inp = none ∧
    ((fetchedOf (reading .qdone)).zcore 0).outp = none ∧ ((fetchedOf (writing .qdone 4)).zcore 0).outp.isSome = true ∧
    (fetchedOf (coreWith (zEncode (.qopen 2)) 0 {})).readerPick 2 0 = none := by decide

/-- A core that runs at an instruction with a packet waiting in queue 0, which the core reads. -/
def offered (i : ZOp) : State :=
  setRegs [(F.ZC_STATUS_STATE, 0, 1)] { withPkt 2 0 with zcores := [(0, {})], zmem := [(0, zEncode i)] }

/-- The cases of the queue instructions: a packet to open, a word to read, words to move, room or none in the record. -/
theorem witness_zilloQueueCases :
    (let u := fetchedOf (offered (.qopen 2))
     atInstr (offered (.qopen 2)) (.qopen 2) = true ∧ (u.zcore 0).inp = none ∧ u.readerPick 2 0 = some 0 ∧
       u.nextPkt 0 = some aPkt) ∧
    (((fetchedOf (reading (.qrdd 2))).zWord 0).1).isSome = true ∧
    (match zBlkIn 0 2 1 (fetchedOf (reading (.qblk 2 1))) ((fetchedOf (reading (.qblk 2 1))).zLeft 0) with
      | .done _ => true
      | _ => false) = true ∧
    (match zBlkOut 0 2 1 (fetchedOf (writing (.qpblk 2 1) 4)) 1026 with
      | .done _ => true
      | _ => false) = true ∧
    ((((fetchedOf (writing (.qwrd 2) 4)).zcore 0).outp).map (fun o => (o.words.length, o.words.length % 8))) = some (4, 4) ∧
    ((((fetchedOf (writing (.qwrd 2) 3)).zcore 0).outp).map (fun o => o.words.length)) = some 3 := by decide

/-- A record of 1,024 words, the longest (R277). -/
theorem witness_zilloFull : (List.replicate 1024 (1 : Nat)).length = 1024 := by simp

/-- Interrupts from running and from waiting, a timer, an illegal word, the watchdog, starting and halting. -/
theorem witness_cores :
    (let u := coreWith 0x2C000000 0 {}
     u.zRuns 0 = true ∧ (u.zfetch 0 (u.zcore 0).pc.toNat).2.1 = true ∧ zDecode (u.zfetch 0 (u.zcore 0).pc.toNat).1 = none) ∧
    (let u := coreWith 0 0 { ien := 2, latched := 2 }
     u.zPowered 0 = true ∧ u.zState 0 = zRunning ∧ (u.zcore 0).rpt = none ∧ (u.zcore 0).bank = false ∧ u.zIrq 0 = true ∧
       (u.zSetState 0 zWaiting).zState 0 = zWaiting) ∧
    (coreWith 0 0 {}).zIrq 0 = false ∧
    (let u := coreWith 0 0 { timerAt := some 0 }
     (u.zcore 0).timerAt = some 0 ∧ 0 ≤ u.now) ∧
    (let u := coreWith 0 0 { timerAt := some 1 }
     (u.zcore 0).timerAt = some 1 ∧ u.now < 1) ∧
    (let u := (setRegs [(F.ZC_CTRL_WD_EN, 0, 1)] (coreWith 0 0 {})).at_ (10000 * usF)
     u.zRuns 0 = true ∧ u.on F.ZC_CTRL_WD_EN 0 = true ∧ (u.zcore 0).wdFrom + u.rd F.ZC_WDOG_PERIOD 0 * usF ≤ u.now) ∧
    (let v := (setRegs [(F.ZC_STATUS_STATE, 0, 4)] (coreWith 0 0 {})).wr F.ZC_CTRL_RUN 0 1
     v.zPowered 0 = true ∧ v.zState 0 = zHalted) ∧
    (let v := (setRegs [(F.ZC_STATUS_STATE, 0, 5)] (coreWith 0 0 {})).wr F.ZC_CTRL_RUN 0 1
     v.zState 0 = zTrapped) ∧
    ((coreWith 0 0 {}).wr F.ZC_CTRL_RUN 0 1).zState 0 = zRunning ∧
    (let u := coreWith 0 0 { haltAt := some 0 }
     (u.zcore 0).haltAt = some 0 ∧ (u.zcore 0).rpt = none ∧ u.now < 0 + msF ∧ 0 + msF ≤ (u.at_ msF).now) := by decide

/-! ### The queue of commands, the pool's queues, Tenon commands, the invariant -/

theorem witness_step : State.reset.pending = [] := rfl

theorem witness_mayTake :
    let u := setRegs [(F.QCFG_EN, 3, 1)] { State.reset with pool := { ready := true } }
    u.pool.ready = true ∧ u.on F.QCFG_EN 3 = true ∧ 0 < 1 ∧ 1 ≤ u.freeCells := by decide

theorem witness_tenonCommand :
    (1 = ((running.tenon 0).lastCmd + 1) % 2 ^ 32 ∧ (running.tenon 0).replies.length ≤ 64 ∧
      ∀ p ∈ (running.tenon 0).replies, p.1 ≠ 1) ∧
    (let u := running.setTenon 0 { lastCmd := 4, replies := [(4, 9)] }
     4 ≠ ((u.tenon 0).lastCmd + 1) % 2 ^ 32 ∧ (u.tenon 0).replies.find? (fun p => p.1 == 4) = some (4, 9) ∧
       (u.tenon 0).replies.find? (fun p => p.1 == 3) = none) := by decide

theorem witness_aligned : ∀ z, (State.reset.zcore z).pc.toNat % 4 = 0 ∧ (State.reset.zcore z).epc.toNat % 4 = 0 :=
  fun _ => ⟨rfl, rfl⟩

theorem witness_alignedPending :
    let s := { State.reset with pending := [Instr.jr 0 0] }
    s.pending = Instr.jr 0 0 :: [] ∧ ∀ z, (s.zcore z).pc.toNat % 4 = 0 ∧ (s.zcore z).epc.toNat % 4 = 0 :=
  ⟨rfl, fun _ => ⟨rfl, rfl⟩⟩

/-! ### Ill-formed terms -/

/-- Each check of ZOp.wf refuses an ill-formed term. -/
theorem test_ill_formed_words :
    [ZOp.ldw 0 0 4 0, .stw 0 0 5 0, .ldd 1 0 0 0, .ldd 0 0 4 0, .std 3 0 0 0, .std 0 0 7 0, .maxm 1 0 0 0, .maxm 0 0 6 0,
      .minm 5 0 0 0, .minm 0 0 4 0, .mfc 0 23, .mtc 0 31, .qrdd 7, .qwrd 15].any ZOp.wf = false := by decide

/-- Each check of Instr.wf refuses an ill-formed command. -/
theorem test_ill_formed_commands :
    [Instr.bypass 0 [], .idcode 0 [], .clamp 0 [], .highz 0 [], .intscan 0 [], .zdebug 0 [],
      .samplePreload 0 [] [], .extest 0 [] []].any Instr.wf = false := by decide

/-! ### Single steps -/

/-- ADD wraps at 32 bits and moves the pc on (R386). -/
theorem test_add_wraps :
    (nextOf (exec (.add 9 0) (coreWith 0x04C48000 0 ((({} : ZCore).setG 1 0xFFFFFFFF).setG 2 2)))).map
      (fun s => ((s.zcore 0).g 3, (s.zcore 0).pc)) = some (1, 4) := by decide

/-- MOVH keeps the low half (R386). -/
theorem test_movh_keeps_low :
    (nextOf (exec (.movh 9 0) (coreWith 0x55808000 0 (({} : ZCore).setG 6 7)))).map (fun s => (s.zcore 0).g 6) =
      some 0x80000007 := by decide

/-- LDD takes the low half into the even register and the high half into the next (R386). -/
theorem test_ldd_pair :
    (nextOf (exec (.ldd 9 0) (coreWith 0x68800001 0 {}))).map (fun s => ((s.zcore 0).g 2, (s.zcore 0).g 3)) =
      some (5, 7) := by decide

/-- The balls that the worked example of 21_electrical_and_package.md locates on a VT4. -/
theorem test_balls_vt4 :
    Part.vt4.ball 27 4 = some (.input 1 37 true) ∧ Part.vt4.ball 28 1 = some (.force 1 4 false) ∧
      Part.vt4.ball 48 21 = some (.lane 0 5 true true) ∧ Part.vt4.ball 48 22 = some (.lane 0 6 true false) ∧
      Part.vt4.ball 47 21 = some (.supply .vss) ∧ rowName 27 = ['A', 'H'] ∧ rowName 28 = ['A', 'J'] ∧
      rowName 48 = ['B', 'K'] := by decide

/-- The last rows of R13. -/
theorem test_row_names :
    [Part.vt2, .vt4, .vt8].map (fun p => rowName p.side) = [['A', 'W'], ['B', 'L'], ['C', 'K']] := by decide

/-- A lane that PART_CMD takes out of service carries nothing, and its port does not start again (R449, R515). -/
theorem test_isolated_lane_down :
    let s := (withLane { state := laActive, signal := true, lock := true }).laneIdle 0 laDown
    (s.lane 0).state = laDown ∧ (s.lane 0).coef = s.free ∧ s.lanesGood 0 = false := by decide

/-- An empty queue idles. -/
theorem test_idle : step State.reset = .next State.reset := rfl

end Sys2Proof.Tests
end

