-- ==== Sys2Proof/Proofs/PoolReserves.lean ====
section
/-! PROOF. When a queue may take cells (R307): the model's truncated subtractions against the rule's integers. -/

namespace Sys2Proof.Machine

open Sys2Proof

/-- A sum of truncated differences is the integer sum of the differences cut at 0. -/
theorem natCast_sum_map_sub {α : Type} (f g : α → Nat) (l : List α) :
    ((l.map (fun x => f x - g x)).sum : Int) = (l.map (fun x => max 0 ((f x : Int) - (g x : Int)))).sum := by
  induction l with
  | nil => rfl
  | cons x l ih =>
    have cut : ((f x - g x : Nat) : Int) = max 0 ((f x : Int) - (g x : Int)) := by omega
    simp only [List.map_cons, List.sum_cons, Int.natCast_add, cut, ih]

/-- R307's F_s may be negative, where the model's count stops at 0: for a positive number of cells they agree. -/
theorem State.le_sharedFree_iff (s : State) (q : Nat) {n : Nat} (hn : 0 < n) :
    n ≤ s.sharedFree q ↔
      (n : Int) ≤ (s.freeCells : Int) -
        (((honoured s.reserveLimit s.reserves).filter (fun p => p.1 ≠ q)).map
          (fun p => max 0 ((p.2 : Int) - ((s.queue p.1).cells : Int)))).sum := by
  rw [← natCast_sum_map_sub (fun p : Nat × Nat => p.2) (fun p => (s.queue p.1).cells), State.sharedFree]
  omega

/-- The conditions of R307 and R312, for a queue that is enabled in a pool that is ready. -/
theorem State.mayTake_iff {s : State} {q n : Nat} (hready : s.pool.ready = true) (hen : s.on F.QCFG_EN q = true)
    (hfree : n ≤ s.freeCells) :
    s.mayTake q n = true ↔
      (s.queue q).cells + n ≤ s.rd F.QCFG_MAX_CELLS q ∧
        ((s.queue q).cells + n ≤ s.reserveOf q ∨ n ≤ s.sharedFree q) := by
  simp [State.mayTake, hready, hen, hfree]

/-- Settles O57: the model's conditions are those of R307, and its shared free count is the rule's F_s for every
positive number of cells. -/
theorem queuesTakeCellsByTheirReserves : Obligations.QueuesTakeCellsByTheirReserves := by
  intro s q n hready hen hn hfree others
  rw [State.mayTake_iff hready hen hfree, State.le_sharedFree_iff s q hn]

end Sys2Proof.Machine
end

