-- ==== Sys2Proof/Proofs/ZilloAlignment.lean ====
section
/-! PROOF. The alignment rule of core memory (R363): what each access of core memory comes to off its alignment, and the
trap that a running core takes for it. -/

namespace Sys2Proof.Machine

open Sys2Proof

/-- The rule of every trapping instruction: where the command takes instruction i of a running core by an execution that
comes to a trap, its outcome is the core trapped with that cause and address. -/
theorem exec_eq_zTrap {c : Instr} {s s1 : State} {t z cause addr : Nat} {i : ZOp} {h : ZOp → Option (State → ZRes)}
    {f : State → ZRes} (hexec : exec c s = .next (s.zillo t z h)) (hat : ZAt (s.at_ t) z i s1) (htake : h i = some f)
    (htrap : f s1 = .trap cause addr) : exec c s = .next (s1.zTrap z cause addr) := by
  obtain ⟨hruns, w, hfetch, hdecode⟩ := hat
  simp only [hexec, State.zillo, hruns, hfetch, hdecode, Option.bind_some, htake, htrap, Bool.not_true, Bool.false_eq_true,
    if_false]

/-! ### What an access of core memory comes to -/

theorem zLoad_misaligned {z b align : Nat} {s : State} {k : Nat → State → ZRes} (hb : b % align ≠ 0) :
    zLoad z b align s k = .trap 4 b := if_pos hb

theorem zLoad_aligned {z b align w : Nat} {s v : State} {k : Nat → State → ZRes} (hb : b % align = 0)
    (hread : s.zread z b = (w, true, v)) : zLoad z b align s k = k w v := by
  simp [zLoad, hb, hread]

theorem zSearch_misaligned {z : Nat} {d : Fin 16} {n am : Fin 8} {off : BitVec 16} {better : Int → Int → Bool} {s : State}
    (hb : ((s.zcore z).ea n am off 4).1 % 4 ≠ 0) :
    zSearch z d n am off better s = .trap 4 ((s.zcore z).ea n am off 4).1 := by
  rw [zSearch, zLoad_misaligned hb]

/-- QBLK traps at the first of its words, of which the packet and g_a leave at least one. -/
theorem zBlkIn_misaligned {z left : Nat} {a : Fin 16} {n : Fin 8} {s : State} (hleft : left ≠ 0)
    (ha : (s.zcore z).g a ≠ 0) (hb : ((s.zcore z).a n).toNat % 8 ≠ 0) :
    zBlkIn z a n s left = .trap 4 ((s.zcore z).a n).toNat := by
  obtain ⟨k, rfl⟩ := Nat.exists_eq_succ_of_ne_zero hleft
  rw [zBlkIn, if_neg ha, if_pos hb]

/-- QPBLK traps at the first of its words, of which g_a leaves at least one. -/
theorem zBlkOut_misaligned {z k : Nat} {a : Fin 16} {n : Fin 8} {s : State} (ha : (s.zcore z).g a ≠ 0)
    (hb : ((s.zcore z).a n).toNat % 8 ≠ 0) :
    zBlkOut z a n s (k + 1) = .trap 4 ((s.zcore z).a n).toNat := by
  rw [zBlkOut, if_neg ha, zLoad_misaligned hb]

/-! ### The memory instructions -/

section
variable {s s1 : State} {t : Nat} {z : Fin 4} {d : Fin 16} {n am : Fin 8} {off : BitVec 16}

theorem exec_stw_misaligned (hb : ((s1.zcore z.val).ea n am off 4).1 % 4 ≠ 0)
    (hat : ZAt (s.at_ t) z.val (.stw d n am off) s1) :
    exec (.stw t z) s = .next (s1.zTrap z.val 4 ((s1.zcore z.val).ea n am off 4).1) :=
  exec_eq_zTrap rfl hat rfl (if_pos hb)

theorem exec_std_misaligned (hb : ((s1.zcore z.val).ea n am off 8).1 % 8 ≠ 0)
    (hat : ZAt (s.at_ t) z.val (.std d n am off) s1) :
    exec (.std t z) s = .next (s1.zTrap z.val 4 ((s1.zcore z.val).ea n am off 8).1) :=
  exec_eq_zTrap rfl hat rfl (if_pos hb)

variable {k : Fin 4} {m : Fin 8} {cj px py sub : Bool}

/-- CMAC reads its first operand first. -/
theorem exec_cmac_misaligned_fst (hat : ZAt (s.at_ t) z.val (.cmac k n m cj px py sub) s1)
    (hx : ((s1.zcore z.val).a n).toNat % 4 ≠ 0) :
    exec (.cmac t z) s = .next (s1.zTrap z.val 4 ((s1.zcore z.val).a n).toNat) :=
  exec_eq_zTrap rfl hat rfl (zLoad_misaligned hx)

/-- The second operand's address is the one before the read of the first. -/
theorem exec_cmac_misaligned_snd {w : Nat} {v : State} (hat : ZAt (s.at_ t) z.val (.cmac k n m cj px py sub) s1)
    (hx : ((s1.zcore z.val).a n).toNat % 4 = 0) (hread : s1.zread z.val ((s1.zcore z.val).a n).toNat = (w, true, v))
    (hy : ((s1.zcore z.val).a m).toNat % 4 ≠ 0) :
    exec (.cmac t z) s = .next (s1.zTrap z.val 4 ((s1.zcore z.val).a m).toNat) :=
  exec_eq_zTrap rfl hat rfl ((zLoad_aligned hx hread).trans (zLoad_misaligned hy))

theorem exec_qblk_misaligned (hb : ((s1.zcore z.val).a n).toNat % 8 ≠ 0) (ha : (s1.zcore z.val).g d ≠ 0)
    (hat : ZAt (s.at_ t) z.val (.qblk d n) s1) (hopen : (s1.zcore z.val).inp.isSome = true) (hleft : s1.zLeft z.val ≠ 0) :
    exec (.qblk t z) s = .next (s1.zTrap z.val 4 ((s1.zcore z.val).a n).toNat) :=
  exec_eq_zTrap rfl hat rfl
    ((if_neg (ne_true_of_eq_false (Option.isNone_eq_false_iff.mpr hopen))).trans (zBlkIn_misaligned hleft ha hb))

theorem exec_qpblk_misaligned (hb : ((s1.zcore z.val).a n).toNat % 8 ≠ 0) (ha : (s1.zcore z.val).g d ≠ 0)
    (hat : ZAt (s.at_ t) z.val (.qpblk d n) s1) (hopen : (s1.zcore z.val).outp.isSome = true) :
    exec (.qpblk t z) s = .next (s1.zTrap z.val 4 ((s1.zcore z.val).a n).toNat) :=
  exec_eq_zTrap rfl hat rfl
    ((if_neg (ne_true_of_eq_false (Option.isNone_eq_false_iff.mpr hopen))).trans (zBlkOut_misaligned ha hb))

end

/-- Settles O50: each memory instruction comes to its access's alignment trap, clause by clause: the 32-bit accesses, the
64-bit ones, the two operands of CMAC, the block moves. -/
theorem misalignedAccessesTrap : Obligations.MisalignedAccessesTrap := by
  intro s t z d n am off s1 u c
  refine ⟨?word, ?double, ?operands, ?blocks⟩
  case word =>
    intro b hb
    exact ⟨fun hat => exec_eq_zTrap rfl hat rfl (zLoad_misaligned hb), exec_stw_misaligned hb,
      fun hat => exec_eq_zTrap rfl hat rfl (zSearch_misaligned hb),
      fun hat => exec_eq_zTrap rfl hat rfl (zSearch_misaligned hb)⟩
  case double =>
    intro b hb
    exact ⟨fun hat => exec_eq_zTrap rfl hat rfl (zLoad_misaligned hb), exec_std_misaligned hb⟩
  case operands =>
    intro k m cj px py sub hat
    exact ⟨exec_cmac_misaligned_fst hat, fun w v => exec_cmac_misaligned_snd hat⟩
  case blocks =>
    intro hb ha
    exact ⟨exec_qblk_misaligned hb ha, exec_qpblk_misaligned hb ha⟩

end Sys2Proof.Machine
end

