-- ==== Sys2Proof/Proofs/ZilloEncoding.lean ====
section
/-! PROOF. The words of the Zillo instructions decode to them (R386): a word is its opcode in [31:26] and fields below it,
and each field read back is the operand that was put there. -/

namespace Sys2Proof

/-! ### A field of a word, and when it is what was encoded -/

theorem b2n_lt (b : Bool) : b2n b < 2 := by cases b <;> decide

/-- The low part of a word as an operand: `Fin.ofNat` under a name of its own, so that no library lemma restates it. -/
def finLow (n w : Nat) [NeZero n] : Fin n := Fin.ofNat n w

theorem ofNat_eq_finLow (n w : Nat) [NeZero n] : Fin.ofNat n w = finLow n w := rfl

theorem finLow_iff {n w : Nat} [NeZero n] {d : Fin n} : finLow n w = d ↔ w % n = d.val := Fin.ext_iff

theorem bvLow_iff {n w : Nat} {v : BitVec n} : BitVec.ofNat n w = v ↔ w % 2 ^ n = v.toNat := by
  rw [← BitVec.toNat_inj, BitVec.toNat_ofNat]

theorem bitAt_iff {w lo : Nat} {b : Bool} : bitAt w lo = b ↔ w / 2 ^ lo % 2 = b2n b := by
  rw [bitAt, Nat.testBit_eq_decide_div_mod_eq]
  cases b <;> simp [b2n]

theorem opcode_of_word {op r w : Nat} (hw : fieldAt op 26 + r = w) (hr : r < 2 ^ 26) (hop : op < 2 ^ 6) :
    bitsAt w 26 6 = op := by
  simp only [fieldAt] at hw
  simp only [bitsAt]
  omega

/-! ### Every instruction -/

theorem zEncode_lt (i : ZOp) : zEncode i < 2 ^ 32 := by
  cases i
  case' cmac k n m cj px py sub => have := b2n_lt cj; have := b2n_lt px; have := b2n_lt py; have := b2n_lt sub
  case' cmacr k a b cj sub => have := b2n_lt cj; have := b2n_lt sub
  case' extr d k im s => have := b2n_lt im
  case' qclose x => have := b2n_lt x
  all_goals simp only [zEncode, fieldAt]; omega

/-- With the opcode known, one arm of zFields is left; its tests of zero bits and its fields are arithmetic of the word. -/
theorem zFields_zEncode (i : ZOp) : zFields (zEncode i) = some i := by
  generalize hw : zEncode i = w
  cases i
  case nop | wait | reti | halt | qdone => subst hw; decide
  case' cmac k n m cj px py sub => have := b2n_lt cj; have := b2n_lt px; have := b2n_lt py; have := b2n_lt sub
  case' cmacr k a b cj sub => have := b2n_lt cj; have := b2n_lt sub
  case' extr d k im s => have := b2n_lt im
  case' qclose x => have := b2n_lt x
  all_goals
    simp only [zEncode, Nat.add_assoc] at hw
    have hop := opcode_of_word hw (by simp -failIfUnchanged only [fieldAt]; omega) (by decide)
    simp only [fieldAt] at hw
    simp only [zFields, hop, ofNat_eq_finLow]
    simp [finLow_iff, bvLow_iff, bitAt_iff]
    simp -failIfUnchanged only [bitsAt, fieldsFrom]
    omega

/-- Settles O59: the fields of the word are the instruction's, and its operands are admitted. -/
theorem zilloWordsRoundTrip : Obligations.ZilloWordsRoundTrip := by
  intro i hwf
  refine ⟨zEncode_lt i, ?_⟩
  simp only [zDecode, zFields_zEncode, hwf, if_true]

end Sys2Proof
end

