-- ==== Sys2Proof/Proofs/ZilloAddresses.lean ====
section
/-! PROOF. The pc and EPC of every core stay on a word boundary (chapter 13): what the shared operations do to the cores is
at most to latch interrupt lines, and what an instruction comes to keeps the boundary. -/

namespace Sys2Proof.Machine

open Sys2Proof

/-! ### Operations that leave the cores as they are -/

variable (s : State)

@[simp] theorem State.zcores_noteHigh (q : Nat) : (s.noteHigh q).zcores = s.zcores := rfl
@[simp] theorem State.zcores_closePacket (q : Nat) (r : Rec) (cells : List Nat) :
    (s.closePacket q r cells).zcores = s.zcores := rfl
@[simp] theorem State.zcores_freeCellsOf (cells : List Nat) : (s.freeCellsOf cells).zcores = s.zcores := rfl
@[simp] theorem State.zcores_journal (a : Act) : (s.journal a).zcores = s.zcores := rfl
@[simp] theorem State.zcores_countUp (f : Fld) (i n top : Nat) : (s.countUp f i n top).zcores = s.zcores := rfl
@[simp] theorem State.zcores_tallyUp (k : Nat) : (s.tallyUp k).zcores = s.zcores := rfl
@[simp] theorem State.zcores_giveCredits (p vc n : Nat) : (s.giveCredits p vc n).zcores = s.zcores := rfl

@[simp] theorem State.zcores_mirrorPut (p n : Nat) : (s.mirrorPut p n).zcores = s.zcores := by
  simp only [State.mirrorPut]; split <;> rfl

@[simp] theorem State.zcores_takeCells (p q n : Nat) : (s.takeCells p q n).2.zcores = s.zcores := by
  induction n generalizing s with
  | zero => rfl
  | succ n ih => exact (ih _).trans rfl

@[simp] theorem State.zcores_poolPut (p q : Nat) (r : Rec) : (s.poolPut p q r).zcores = s.zcores := by
  simp [State.poolPut]

@[simp] theorem State.zcores_pumpEvents (n : Nat) : (s.pumpEvents n).zcores = s.zcores := by
  induction n generalizing s with
  | zero => rfl
  | succ n ih =>
    simp only [State.pumpEvents]
    split
    · rfl
    · split
      · rw [ih]; simp [State.number]
      · rfl

@[simp] theorem State.zcores_memBad (m a : Nat) : (s.memBad m a).zcores = s.zcores := by
  simp only [State.memBad]; split <;> rfl

@[simp] theorem State.zcores_deliver (q n : Nat) : (s.deliver q n).zcores = s.zcores := by
  simp only [State.deliver]; split <;> rfl

@[simp] theorem State.zcores_issue (o : Out) : (s.issue o).zcores = s.zcores := rfl

@[simp] theorem State.zcores_hostOut (o : Out) : (s.hostOut o).zcores = s.zcores := by
  simp only [State.hostOut]; split
  · split <;> rfl
  · rfl

@[simp] theorem State.zcores_send (o : Out) : (s.send o).zcores = s.zcores := by
  unfold State.send
  split <;> (repeat' split) <;> simp

@[simp] theorem State.zcores_writeVector (v : Nat) : (s.writeVector v).zcores = s.zcores := by
  simp only [State.writeVector]; split <;> simp

@[simp] theorem State.zcores_leftBuffer (w : Waiting) : (s.leftBuffer w).zcores = s.zcores := by
  simp only [State.leftBuffer]; split <;> simp

@[simp] theorem State.zcores_notIdle (p : Nat) : (s.notIdle p).zcores = s.zcores := by
  simp only [State.notIdle]
  generalize s.portLanes p = l
  induction l generalizing s with
  | nil => rfl
  | cons n l ih => rw [List.foldl_cons, ih]; split <;> rfl

@[simp] theorem State.zcores_portPump (p n : Nat) : (s.portPump p n).zcores = s.zcores := by
  induction n generalizing s with
  | zero => rfl
  | succ n ih =>
    simp only [State.portPump]
    repeat' split
    all_goals simp [ih]

@[simp] theorem State.zcores_portPut (p : Nat) (f : Frame) (from_ : Option Nat) : (s.portPut p f from_).zcores = s.zcores := by
  simp [State.portPut]

/-! ### The boundary -/

/-- A core whose pc and EPC are multiples of 4. -/
structure ZCore.Aligned (c : ZCore) : Prop where
  pc : c.pc.toNat % 4 = 0
  epc : c.epc.toNat % 4 = 0

/-- The pc and EPC of every core are multiples of 4. -/
structure ZAligned (s : State) : Prop where
  core : ∀ z, (s.zcore z).Aligned

variable {s}

theorem ZAligned.of_zcores {t : State} (h : ZAligned s) (e : t.zcores = s.zcores) : ZAligned t := by
  constructor
  intro z
  simp only [State.zcore, e]
  exact h.core z

theorem ZAligned.setZcore (h : ZAligned s) {i : Nat} {x : ZCore} (hx : x.Aligned) : ZAligned (s.setZcore i x) := by
  constructor
  intro z
  by_cases e : z = i
  · rw [e, State.zcore_setZcore_same]; exact hx
  · rw [State.zcore_setZcore_other _ _ e]; exact h.core z

theorem ZAligned.foldl {α : Type} {f : State → α → State} (h : ZAligned s) (hf : ∀ t x, ZAligned t → ZAligned (f t x))
    (l : List α) : ZAligned (l.foldl f s) := by
  induction l generalizing s with
  | nil => exact h
  | cons x l ih => exact ih (hf s x h)

theorem ZAligned.ite {t : State} {p : Prop} [Decidable p] (hs : ZAligned s) (ht : ZAligned t) :
    ZAligned (if p then s else t) := by
  split
  · exact hs
  · exact ht

/-- A core's record changed in anything but its addresses. -/
theorem ZAligned.withCore (h : ZAligned s) {i : Nat} {x : ZCore} (hpc : x.pc = (s.zcore i).pc := by rfl)
    (hepc : x.epc = (s.zcore i).epc := by rfl) : ZAligned (s.setZcore i x) :=
  h.setZcore ⟨hpc ▸ (h.core i).pc, hepc ▸ (h.core i).epc⟩

theorem ZAligned.wr (h : ZAligned s) (f : Fld) (i v : Nat) : ZAligned (s.wr f i v) := h.of_zcores rfl

/-- What a map of the cores that leaves a part of each core as it is leaves of every core. -/
theorem smapGet_map_eq {α : Type} {f : ZCore → ZCore} {part : ZCore → α} (hf : ∀ c, part (f c) = part c)
    (m : SMap ZCore)
    (z : Nat) : part (smapGet {} (m.map (fun p => (p.1, f p.2))) z) = part (smapGet {} m z) := by
  induction m with
  | nil => rfl
  | cons p m ih =>
    simp only [List.map_cons, smapGet]
    split
    · exact hf _
    · exact ih

/-- What an event does to a core: it latches lines named by ESEL. -/
def ZCore.latchEvent (src : Nat) (c : ZCore) : ZCore :=
  (List.range 4).foldl (fun (c : ZCore) k =>
    if smapGet 0 c.esel k = src then { c with latched := c.latched ||| BitVec.ofNat 8 (2 ^ (4 + k)) } else c) c

theorem ZCore.latchEvent_addresses (src : Nat) (c : ZCore) :
    (c.latchEvent src).pc = c.pc ∧ (c.latchEvent src).epc = c.epc := by
  unfold ZCore.latchEvent
  generalize List.range 4 = l
  induction l generalizing c with
  | nil => exact ⟨rfl, rfl⟩
  | cons k l ih => rw [List.foldl_cons, (ih _).1, (ih _).2]; split <;> exact ⟨rfl, rfl⟩

theorem ZAligned.zilloLines (h : ZAligned s) (src : Nat) : ZAligned (s.zilloLines src) := by
  have hpc := fun z => smapGet_map_eq (part := ZCore.pc) (fun c => (c.latchEvent_addresses src).1) s.zcores z
  have hepc := fun z => smapGet_map_eq (part := ZCore.epc) (fun c => (c.latchEvent_addresses src).2) s.zcores z
  exact ⟨fun z => ⟨(congrArg (fun v => v.toNat % 4) (hpc z)).trans (h.core z).pc,
    (congrArg (fun v => v.toNat % 4) (hepc z)).trans (h.core z).epc⟩⟩

/-- A raiser that keeps the boundary. -/
def RaisesAligned (rs : Raiser) : Prop := ∀ s src detail, ZAligned s → ZAligned (rs s src detail)

section
variable {rs : Raiser} (hrs : RaisesAligned rs)
include hrs

theorem ZAligned.stickW (h : ZAligned s) (f : Fld) (i : Nat) (en : Bool) (src detail : Nat) :
    ZAligned (stickW rs s f i en src detail) := by
  simp only [Machine.stickW]
  split
  · exact h
  · split
    · exact hrs _ _ _ (h.wr f i 1)
    · exact h.wr f i 1

theorem ZAligned.memStickW (h : ZAligned s) (f : Fld) (bit m : Nat) : ZAligned (memStickW rs s f bit m) :=
  h.stickW hrs ..

theorem ZAligned.memCorrectedW (h : ZAligned s) (f : Fld) (m : Nat) : ZAligned (memCorrectedW rs s f m) := by
  have h' : ZAligned ((s.countUp f m 1 (2 ^ 32 - 1)).tallyUp m) := h.of_zcores rfl
  simp only [Machine.memCorrectedW]
  split
  · exact h'.memStickW hrs ..
  · exact h'

theorem ZAligned.memUncorrW (h : ZAligned s) (m a : Nat) : ZAligned (memUncorrW rs s m a) :=
  (h.of_zcores (by simp)).memStickW hrs ..

theorem ZAligned.memCountW (h : ZAligned s) (m a : Nat) (o : EccOut) : ZAligned (memCountW rs s m a o) := by
  cases o with
  | clean => exact h
  | single => exact (h.memCorrectedW hrs ..).of_zcores rfl
  | double => exact (h.memCorrectedW hrs ..).of_zcores rfl
  | addrFault => exact ((h.of_zcores (by simp)).memUncorrW hrs ..).memStickW hrs ..
  | uncorr => exact h.memUncorrW hrs ..

theorem ZAligned.routeW (h : ZAligned s) (f : Frame) (from_ : Option Nat) : ZAligned (routeW rs s f from_) := by
  have h' := h.memCountW hrs memRoute (f.dest / 8) (s.routeEntry f.dest).2
  simp only [Machine.routeW]
  split
  · refine ZAligned.stickW hrs (ZAligned.of_zcores h' ?_) ..
    split <;> simp
  · exact h'.of_zcores (by simp)

theorem ZAligned.originateW (h : ZAligned s) (f : Frame) : ZAligned (originateW rs s f) := by
  simp only [Machine.originateW]
  repeat' split
  · exact h
  · exact h.of_zcores rfl
  · exact h
  · exact h.routeW hrs ..

end

theorem raisesAligned_raiseN (n : Nat) : RaisesAligned (State.raiseN n) := by
  induction n with
  | zero => exact fun s src detail h => (h.of_zcores (by simp [State.raiseRecord])).zilloLines src
  | succ n ih =>
    intro s src detail h
    have h' : ZAligned ((s.raiseRecord src detail).zilloLines src) :=
      (h.of_zcores (by simp [State.raiseRecord])).zilloLines src
    simp only [State.raiseN]
    repeat' split
    · exact h'.of_zcores (by simp)
    · exact h'.originateW ih _
    · exact h'

theorem ZAligned.stick (h : ZAligned s) (f : Fld) (i : Nat) (en : Bool) (src detail : Nat) :
    ZAligned (s.stick f i en src detail) := h.stickW (raisesAligned_raiseN 8) ..

theorem ZAligned.memCount (h : ZAligned s) (m a : Nat) (o : EccOut) : ZAligned (s.memCount m a o) :=
  h.memCountW (raisesAligned_raiseN 8) ..

/-- A read of a protected memory at most counts its outcome. -/
theorem State.memRead_state (s : State) (m a d : Nat) :
    (s.memRead m a d).2.2 = s ∨ ∃ o, (s.memRead m a d).2.2 = s.memCount m a o := by
  unfold State.memRead
  split
  · exact .inl rfl
  · split
    exact .inr ⟨_, rfl⟩

theorem ZAligned.memRead (h : ZAligned s) (m a d : Nat) : ZAligned (s.memRead m a d).2.2 := by
  obtain e | ⟨o, e⟩ := s.memRead_state m a d
  · rw [e]; exact h
  · rw [e]; exact h.memCount ..

theorem ZAligned.cellWord (h : ZAligned s) (cell j d : Nat) : ZAligned (s.cellWord cell j d).2.2.2 := by
  simp only [State.cellWord]
  generalize (if s.pool.zeroed.contains (cell * 8 + j) then 0 else d) = d'
  split
  · exact h.memRead ..
  · simp only [apply_ite Prod.snd]
    exact .ite h (.ite ((h.memCount ..).memStickW (raisesAligned_raiseN 8) ..) h)

theorem ZAligned.haltQueue (h : ZAligned s) (q : Nat) : ZAligned (s.haltQueue q) := (h.wr ..).stick ..

/-! ### Updates of one core -/

section
variable {c : ZCore} (hc : c.Aligned)
include hc

theorem ZCore.Aligned.setCur (b : ZBank) : (c.setCur b).Aligned := by
  simp only [ZCore.setCur]
  split <;> exact ⟨hc.pc, hc.epc⟩

theorem ZCore.Aligned.setG (i : Fin 16) (v : BitVec 32) : (c.setG i v).Aligned := hc.setCur _

theorem ZCore.Aligned.setA (n : Fin 8) (v : BitVec 19) : (c.setA n v).Aligned := hc.setCur _

theorem ZCore.Aligned.setAcc (k : Fin 4) (v : Int × Int) : (c.setAcc k v).Aligned := hc.setCur _

theorem ZCore.Aligned.mac (k : Fin 4) (x y : BitVec 32) (cj sub : Bool) : (c.mac k x y cj sub).Aligned :=
  ⟨(hc.setAcc k _).pc, (hc.setAcc k _).epc⟩

theorem ZCore.Aligned.ea (n am : Fin 8) (off : BitVec 16) (z : Nat) : (c.ea n am off z).2.Aligned := by
  simp only [ZCore.ea]
  split
  · exact hc
  · exact hc.setA ..
  · exact hc.setA ..
  · exact hc

theorem ZCore.Aligned.stepped (p : Prop) [Decidable p] (n : Fin 8) (d : Int) :
    (if p then c.setA n (c.post n d) else c).Aligned := by
  split
  · exact hc.setA ..
  · exact hc

theorem ZCore.Aligned.pc_next : (c.pc + 4).toNat % 4 = 0 := by
  have := hc.pc
  simp only [BitVec.toNat_add, BitVec.reduceToNat]
  omega

theorem ZCore.Aligned.pc_branch (d : Int) : (BitVec.ofInt 19 ((c.pc.toNat : Int) + 4 * d)).toNat % 4 = 0 := by
  have := hc.pc
  simp only [BitVec.toNat_ofInt]
  omega

end

theorem epc_masked (v : BitVec 19) : (v &&& 0x7FFFC).toNat % 4 = 0 := by
  rw [BitVec.toNat_and, show 4 = 2 ^ 2 from rfl, Nat.and_mod_two_pow]
  exact Nat.and_zero _

/-! ### Operations of the cores -/

theorem ZAligned.zSetState (h : ZAligned s) (z st : Nat) : ZAligned (s.zSetState z st) := by
  unfold State.zSetState
  exact ((h.wr ..).withCore).wr ..

theorem ZAligned.zStick (h : ZAligned s) (f : Fld) (bit z : Nat) : ZAligned (s.zStick f bit z) := h.stick ..

theorem ZAligned.zDiscard (h : ZAligned s) (z : Nat) : ZAligned (s.zDiscard z) := by
  have h' : ZAligned (s.setZcore z { s.zcore z with outp := none }) := h.withCore
  unfold State.zDiscard
  split
  · exact h
  · exact h'.of_zcores rfl

theorem ZAligned.zUnopen (h : ZAligned s) (z : Nat) : ZAligned (s.zUnopen z) := by
  have h' : ZAligned (s.setZcore z { s.zcore z with inp := none }) := h.withCore
  unfold State.zUnopen
  split
  · exact h
  · exact h'.of_zcores rfl

theorem ZAligned.zTrap (h : ZAligned s) (z cause addr : Nat) : ZAligned (s.zTrap z cause addr) := by
  unfold State.zTrap
  exact ((((((h.zDiscard z).zUnopen z).withCore.wr ..).wr ..).wr ..).zSetState ..).zStick ..

theorem ZAligned.zHalt (h : ZAligned s) (z : Nat) : ZAligned (s.zHalt z) := by
  unfold State.zHalt
  exact ((h.zDiscard z).zUnopen z).withCore.zSetState ..

theorem ZAligned.zBoundary (h : ZAligned s) (z : Nat) : ZAligned (s.zBoundary z) := by
  unfold State.zBoundary
  dsimp only
  split
  · exact h.zHalt z
  · exact h

theorem ZAligned.zHaltReq (h : ZAligned s) (z : Nat) : ZAligned (s.zHaltReq z) := by
  unfold State.zHaltReq
  split
  · exact h.zHalt z
  · split
    · exact (h.withCore.zSetState ..).zBoundary ..
    · exact h

theorem zFresh_aligned (now : Nat) : (zFresh now).Aligned := ⟨rfl, rfl⟩

theorem ZAligned.zStart (h : ZAligned s) (z : Nat) : ZAligned (s.zStart z) := (h.setZcore (zFresh_aligned _)).zSetState ..

theorem ZAligned.zLatch (h : ZAligned s) (z line : Nat) : ZAligned (s.zLatch z line) := by
  unfold State.zLatch
  exact h.withCore

theorem ZAligned.zNext (h : ZAligned s) (z : Nat) : ZAligned (s.zNext z) := by
  unfold State.zNext
  have hc := h.core z
  refine (h.setZcore ?_).zBoundary z
  split
  · split
    · exact ⟨hc.pc, hc.epc⟩
    · exact ⟨hc.pc_next, hc.epc⟩
  · exact ⟨hc.pc_next, hc.epc⟩

theorem ZAligned.zread (h : ZAligned s) (z b : Nat) : ZAligned (s.zread z b).2.2 := h.memRead ..

theorem ZAligned.zput (h : ZAligned s) (z a v : Nat) : ZAligned (s.zput z a v) := h.of_zcores rfl

theorem ZAligned.zputHalf (h : ZAligned s) (z b v : Nat) : ZAligned (s.zputHalf z b v) := by
  have h' := h.zread z b
  unfold State.zputHalf
  generalize s.zread z b = r at h'
  dsimp only
  split
  · exact h'.zput ..
  · exact h'.of_zcores rfl

theorem ZAligned.zfetch (h : ZAligned s) (z b : Nat) : ZAligned (s.zfetch z b).2.2 := by
  have h' := h.zread z b
  unfold State.zfetch
  split
  · exact h
  · generalize s.zread z b = r at h'
    exact h'.withCore

theorem ZAligned.zMfc (h : ZAligned s) (z creg : Nat) : ZAligned (s.zMfc z creg).2 := by
  by_cases h14 : creg = 14
  · rw [h14]; exact h.withCore
  · simp only [State.zMfc, h14, if_false, apply_ite Prod.snd, ite_self]
    exact h

theorem ZAligned.zMtc (h : ZAligned s) (z creg : Nat) (v : BitVec 32) : ZAligned (s.zMtc z creg v) := by
  have hc := h.core z
  unfold State.zMtc
  dsimp only
  split; · exact h.withCore
  split; · exact h.withCore
  split; · exact h.withCore
  split; · exact h.setZcore ⟨hc.pc, epc_masked _⟩
  split; · exact h.withCore
  split; · exact h.withCore
  split
  · split
    · exact (h.wr ..).zStick ..
    · exact h.wr ..
  split; · exact h.withCore
  exact h

theorem ZAligned.zWord (h : ZAligned s) (z : Nat) : ZAligned (s.zWord z).2 := by
  unfold State.zWord
  split
  · exact h
  · next q pos p _ =>
    dsimp -iota only
    split
    · exact h
    · have hlink : ZAligned (if pos % 8 = 0 then
          s.memRead memLink (p.cells.getD (pos / 8) 0) (s.linkEntry (p.cells.getD (pos / 8) 0)) else (0, true, s)).2.2 := by
        split
        · exact h.memRead ..
        · exact h
      split
      next t elink =>
      rw [elink] at hlink
      have hword := hlink.cellWord (p.cells.getD (pos / 8) 0) (pos % 8) ((p.rec_.words (s.rd F.FAB_NODE_ID 0)).getD pos 0)
      split
      next u eword =>
      rw [eword] at hword
      replace hword : ZAligned u := hword
      split
      · exact hword.withCore
      · exact (hword.zUnopen z).withCore.haltQueue q

theorem ZAligned.zClose (h : ZAligned s) (z : Nat) (o : ZOut) : ZAligned (s.zClose z o) := by
  have h' : ZAligned (s.setZcore z { s.zcore z with outp := none }) := h.withCore
  exact h'.of_zcores rfl

theorem ZAligned.zWdReset (h : ZAligned s) (z : Nat) : ZAligned (s.zWdReset z) := by
  unfold State.zWdReset
  exact ((((((((h.zDiscard z).zUnopen z).wr ..).setZcore (zFresh_aligned _)).foldl (fun _ _ ht => ht.wr ..) _).wr
    ..).wr ..).wr ..).wr .. |>.zStick ..

/-! ### What an instruction comes to -/

/-- A result whose state, and whose pc where it has one, stay on the boundary. -/
def ZRes.Aligned : ZRes → Prop
  | .done s => ZAligned s
  | .jump pc s => pc.toNat % 4 = 0 ∧ ZAligned s
  | .wait s => ZAligned s
  | .trap _ _ => True
  | .bad _ s => ZAligned s

theorem ZRes.Aligned.ite {r r' : ZRes} {p : Prop} [Decidable p] (hr : r.Aligned) (hr' : r'.Aligned) :
    (if p then r else r').Aligned := by
  split
  · exact hr
  · exact hr'

/-- An instruction that keeps the boundary. -/
def KeepsAligned (f : State → ZRes) : Prop := ∀ s, ZAligned s → (f s).Aligned

theorem zReg_aligned (z : Nat) {f : ZCore → ZCore} (hf : ∀ c, c.Aligned → (f c).Aligned) : KeepsAligned (zReg z f) :=
  fun _ h => h.setZcore (hf _ (h.core z))

theorem zAlu_aligned (z : Nat) (d a b : Fin 16) (f : BitVec 32 → BitVec 32 → BitVec 32) : KeepsAligned (zAlu z d a b f) :=
  zReg_aligned z fun _ hc => hc.setG ..

theorem zImm_aligned (z : Nat) (d a : Fin 16) (f : BitVec 32 → BitVec 32) : KeepsAligned (zImm z d a f) :=
  zReg_aligned z fun _ hc => hc.setG ..

theorem zLoad_aligned_of (h : ZAligned s) {z b align : Nat} {k : Nat → State → ZRes}
    (hk : ∀ w t, ZAligned t → (k w t).Aligned) : (zLoad z b align s k).Aligned := by
  have hread := h.zread z b
  unfold zLoad
  split
  · trivial
  · split
    next w ok t e =>
    rw [e] at hread
    split
    · exact hk _ _ hread
    · exact hread

theorem zSearch_aligned (z : Nat) (d : Fin 16) (n am : Fin 8) (off : BitVec 16) (better : Int → Int → Bool) :
    KeepsAligned (zSearch z d n am off better) := by
  intro s h
  unfold zSearch
  refine zLoad_aligned_of h fun w t ht => ZAligned.setZcore ht ?_
  have hc := (ht.core z).ea n am off 4
  split
  · exact (hc.setG ..).setG ..
  · exact hc

theorem zBranch_aligned (z : Nat) (disp : Int) : KeepsAligned (zBranch z disp) :=
  fun _ h => ⟨(h.core z).pc_branch disp, h⟩

theorem zRepeat_aligned (z n : Nat) : KeepsAligned (zRepeat z n) := by
  intro s h
  unfold zRepeat
  dsimp -iota only
  split
  exact .ite trivial ⟨(h.core z).pc_next, h.withCore⟩

theorem zBlkIn_aligned (z : Nat) (a : Fin 16) (n : Fin 8) (k : Nat) : KeepsAligned (fun s => zBlkIn z a n s k) := by
  induction k with
  | zero => exact fun _ h => h
  | succ k ih =>
    intro s h
    have hword := h.zWord z
    unfold zBlkIn
    dsimp -iota only
    split
    · exact h
    · split
      · trivial
      · split
        next t e => rw [e] at hword; exact hword
        next v t e =>
          rw [e] at hword
          replace hword := ZAligned.zput hword z (((s.zcore z).a n).toNat / 8) v
          exact ih _ (hword.setZcore (((hword.core z).setA ..).setG ..))

theorem zAppend_aligned (z v : Nat) : KeepsAligned (zAppend z v) := by
  intro s h
  unfold zAppend
  dsimp -iota only
  split
  · trivial
  · next o _ =>
    refine .ite trivial (.ite h.withCore (.ite ?_ h))
    have htake : ZAligned (s.takeCells (zProd z) o.queue 1).2 := h.of_zcores (State.zcores_takeCells ..)
    split
    next cs t e =>
    rw [e] at htake
    replace htake : ZAligned ((t.noteHigh o.queue).setProd (zProd z)
      { t.prod (zProd z) with cells := (t.prod (zProd z)).cells ++ cs }) := ZAligned.of_zcores (s := t) htake rfl
    exact htake.withCore

theorem zBlkOut_aligned (z : Nat) (a : Fin 16) (n : Fin 8) (k : Nat) : KeepsAligned (fun s => zBlkOut z a n s k) := by
  induction k with
  | zero => exact fun _ h => h
  | succ k ih =>
    intro s h
    unfold zBlkOut
    dsimp -iota only
    split
    · exact h
    · refine zLoad_aligned_of h fun w t ht => ?_
      have happ := zAppend_aligned z w t ht
      split
      next u e => 
        rw [e] at happ
        replace happ : ZAligned u := happ
        exact ih _ (happ.setZcore (((happ.core z).setA ..).setG ..))
      · exact happ

/-- The rule of every instruction command: where what it takes keeps the boundary, the command does. -/
theorem ZAligned.zillo (h : ZAligned s) (t z : Nat) {take : ZOp → Option (State → ZRes)}
    (htake : ∀ i f, take i = some f → KeepsAligned f) : ZAligned (s.zillo t z take) := by
  have h' : ZAligned (s.at_ t) := h.of_zcores rfl
  have hfetch := h'.zfetch z ((s.at_ t).zcore z).pc.toNat
  unfold State.zillo
  dsimp -iota only
  split
  · exact h'
  · split
    next w ok s1 e =>
    rw [e] at hfetch
    replace hfetch : ZAligned s1 := hfetch
    split
    · exact hfetch.zTrap ..
    · split
      · exact h'
      next f ef =>
        obtain ⟨i, -, hi⟩ := Option.bind_eq_some_iff.mp ef
        have hres := htake i f hi s1 hfetch
        split
        next e => rw [e] at hres; exact ZAligned.zNext hres z
        next e => 
          rw [e] at hres
          refine ZAligned.zBoundary (hres.2.setZcore ?_) z
          exact ⟨hres.1, (hres.2.core z).epc⟩
        next e => rw [e] at hres; exact ZAligned.zBoundary hres z
        · exact hfetch.zTrap ..
        next e => rw [e] at hres; exact ZAligned.zTrap hres ..

/-! ### The commands -/

theorem ZAligned.zInterrupt (h : ZAligned s) (z : Nat) : ZAligned (s.zInterrupt z) := by
  unfold State.zInterrupt
  dsimp -iota only
  have h' : ZAligned (if (s.zState z == zWaiting) = true then s.zSetState z zRunning else s) := .ite (h.zSetState ..) h
  generalize (if (s.zState z == zWaiting) = true then s.zSetState z zRunning else s) = s' at h'
  refine .ite h (.ite h' (h'.setZcore ?_))
  exact ⟨(by decide : (0x20 : BitVec 19).toNat % 4 = 0), (h.core z).pc⟩

theorem ZAligned.zRun (h : ZAligned s) (z : Nat) : ZAligned (s.zRun z) := by
  unfold State.zRun
  exact .ite ((h.wr ..).zStart z) (h.wr ..)

/-- A command that keeps the boundary. -/
def CommandKeepsAligned (c : Instr) : Prop := ∀ s, ZAligned s → ∃ s', exec c s = .next s' ∧ ZAligned s'

theorem keepsAligned_of_take {c : Instr} {t z : Nat} {take : ZOp → Option (State → ZRes)}
    (hexec : ∀ s, exec c s = .next (s.zillo t z take)) (htake : ∀ i f, take i = some f → KeepsAligned f) :
    CommandKeepsAligned c :=
  fun s h => ⟨_, hexec s, h.zillo t z htake⟩

/-- The commands of the instructions that only change registers. -/
def registerCommands (t : Nat) (z : Fin 4) : List Instr :=
  [.nop t z, .add t z, .sub t z, .and t z, .or t z, .xor t z, .shl t z, .shr t z, .sar t z, .mul t z, .clt t z, .addi t z,
    .andi t z, .shli t z, .shri t z, .movi t z, .movh t z, .seta t z, .setc t z, .geta t z, .adda t z, .cmacr t z, .clra t z,
    .extc t z, .extr t z]

/-- The commands of the instructions that access core memory. -/
def memoryCommands (t : Nat) (z : Fin 4) : List Instr :=
  [.ldw t z, .stw t z, .ldd t z, .std t z, .maxm t z, .minm t z, .cmac t z]

/-- The commands of the branches, repetitions and control instructions. -/
def controlCommands (t : Nat) (z : Fin 4) : List Instr :=
  [.b t z, .bz t z, .bnz t z, .blt t z, .call t z, .jr t z, .rpt t z, .rptr t z, .wait t z, .reti t z, .mfc t z, .mtc t z,
    .sig t z, .halt t z]

/-- The commands of the instructions on packets and records. -/
def queueCommands (t : Nat) (z : Fin 4) : List Instr :=
  [.qopen t z, .qrdd t z, .qblk t z, .qdone t z, .qnew t z, .qwrd t z, .qpblk t z, .qclose t z]

/-- The traps, events, starts and halts of a core. -/
def eventCommands (t : Nat) (z : Fin 4) (v : BitVec 32) : List Instr :=
  [.illegalOpcode t z, .interruptTake t z, .coreTimerExpiry t z, .watchdogExpiry t z, .coreRun t z, .coreHaltRequest t z,
    .coreHaltTimeout t z, .zcCyclesClr t z, .mboxInWrite z v]

/-- Each of them is a change of the core's banks and flags. -/
theorem registerCommands_aligned (t : Nat) (z : Fin 4) : ∀ c ∈ registerCommands t z, CommandKeepsAligned c := by
  simp only [registerCommands, List.forall_mem_cons, List.not_mem_nil, false_implies, implies_true, and_true]
  and_intros
  all_goals
    refine keepsAligned_of_take (fun _ => rfl) fun i f hi => ?_
    split at hi <;> cases hi
    refine zReg_aligned _ fun c hc => ?_
  · exact hc
  iterate 16 · exact hc.setG ..
  · exact hc.setA ..
  · exact hc.setCur ..
  · exact hc.setG ..
  · exact hc.setA ..
  · exact hc.mac ..
  · exact hc.setAcc ..
  · exact ⟨(hc.setG _ _).pc, (hc.setG _ _).epc⟩
  · exact ⟨(hc.setG _ _).pc, (hc.setG _ _).epc⟩

theorem memoryCommands_aligned (t : Nat) (z : Fin 4) : ∀ c ∈ memoryCommands t z, CommandKeepsAligned c := by
  simp only [memoryCommands, List.forall_mem_cons, List.not_mem_nil, false_implies, implies_true, and_true]
  and_intros
  all_goals
    refine keepsAligned_of_take (fun _ => rfl) fun i f hi => ?_
    split at hi <;> cases hi
    intro s h
  · exact zLoad_aligned_of h fun w t ht => ZAligned.setZcore ht (((ht.core _).ea ..).setG ..)
  · exact .ite trivial ((h.setZcore ((h.core _).ea ..)).zputHalf ..)
  · exact zLoad_aligned_of h fun w t ht => ZAligned.setZcore ht ((((ht.core _).ea ..).setG ..).setG ..)
  · exact .ite trivial ((h.setZcore ((h.core _).ea ..)).zput ..)
  · exact zSearch_aligned _ _ _ _ _ _ s h
  · exact zSearch_aligned _ _ _ _ _ _ s h
  · refine zLoad_aligned_of h fun w t ht => zLoad_aligned_of ht fun w' u hu => ZAligned.setZcore hu ?_
    exact .stepped (.stepped ((hu.core _).mac ..) ..) ..

theorem controlCommands_aligned (t : Nat) (z : Fin 4) : ∀ c ∈ controlCommands t z, CommandKeepsAligned c := by
  simp only [controlCommands, List.forall_mem_cons, List.not_mem_nil, false_implies, implies_true, and_true]
  and_intros
  all_goals
    refine keepsAligned_of_take (fun _ => rfl) fun i f hi => ?_
    split at hi <;> cases hi
    intro s h
  · exact zBranch_aligned _ _ s h
  · exact .ite (zBranch_aligned _ _ s h) h
  · exact .ite (zBranch_aligned _ _ s h) h
  · exact .ite (zBranch_aligned _ _ s h) h
  · exact zBranch_aligned _ _ _ (h.setZcore ((h.core _).setG ..))
  · dsimp only
    split
    · trivial
    · next hb => exact ⟨Classical.not_not.mp hb, h⟩
  · exact zRepeat_aligned _ _ s h
  · exact zRepeat_aligned _ _ s h
  · exact .ite h ⟨(h.core _).pc_next, .ite (h.zSetState ..) (h.zDiscard _)⟩
  · exact ⟨(h.core _).epc, h.withCore⟩
  · next d creg =>
    have hread := h.zMfc z.val creg.val
    exact ZAligned.setZcore hread ((hread.core _).setG ..)
  · exact h.zMtc ..
  · exact h.zLatch ..
  · have hreq : ZAligned (s.setZcore z.val
        { s.zcore z.val with haltAt := some ((s.zcore z.val).haltAt.getD s.now) }) := h.withCore
    exact (ZAligned.ite (hreq.zSetState ..) hreq).zStick ..

theorem queueCommands_aligned (t : Nat) (z : Fin 4) : ∀ c ∈ queueCommands t z, CommandKeepsAligned c := by
  simp only [queueCommands, List.forall_mem_cons, List.not_mem_nil, false_implies, implies_true, and_true]
  and_intros
  all_goals
    refine keepsAligned_of_take (fun _ => rfl) fun i f hi => ?_
    split at hi <;> cases hi
    intro s h
    dsimp -iota only
  · refine .ite trivial ?_
    split
    · exact h.setZcore ((h.core _).setG ..)
    · next q _ =>
      have htook : ZAligned ((s.readerTook 2 z.val q).setQueue q
        { s.queue q with taken := (s.queue q).taken + 1 }) := h.of_zcores rfl
      refine ZAligned.setZcore htook (ZCore.Aligned.setG ?_ ..)
      exact ⟨(htook.core _).pc, (htook.core _).epc⟩
  · refine .ite trivial ?_
    have hword := h.zWord z.val
    split
    · trivial
    · next v u e =>
      rw [e] at hword
      exact ZAligned.setZcore hword (((hword.core _).setG ..).setG ..)
  · exact .ite trivial (zBlkIn_aligned _ _ _ _ s h)
  · split
    · trivial
    · exact h.withCore.of_zcores (State.zcores_deliver ..)
  · exact .ite trivial h.withCore
  · exact zAppend_aligned _ _ s h
  · exact .ite trivial (zBlkOut_aligned _ _ _ _ s h)
  · split
    · trivial
    · exact .ite trivial (.ite (h.zDiscard _) (h.zClose ..))

theorem eventCommands_aligned (t : Nat) (z : Fin 4) (v : BitVec 32) :
    ∀ c ∈ eventCommands t z v, CommandKeepsAligned c := by
  simp only [eventCommands, List.forall_mem_cons, List.not_mem_nil, false_implies, implies_true, and_true]
  and_intros
  all_goals
    intro s h
    have h' : ZAligned (s.at_ t) := h.of_zcores rfl
    refine ⟨_, rfl, ?_⟩
  · refine .ite h' ?_
    have hfetch := h'.zfetch z.val ((s.at_ t).zcore z.val).pc.toNat
    split
    next w ok s1 e =>
    rw [e] at hfetch
    replace hfetch : ZAligned s1 := hfetch
    refine .ite (hfetch.zTrap ..) ?_
    split
    · exact hfetch.zTrap ..
    · exact h'
  · exact h'.zInterrupt _
  · split
    · exact h'
    · exact .ite (ZAligned.zLatch h'.withCore ..) h'
  · exact .ite (h'.zWdReset _) h'
  · exact h'.zRun _
  · exact (h'.wr ..).zHaltReq _
  · split
    · exact h'
    · exact .ite (h'.zHalt _) h'
  · exact ZAligned.wr h'.withCore ..
  · exact (h.wr ..).zLatch ..

/-- Settles O60: the commands fall into the five groups, each of which keeps the boundary. -/
theorem zilloAddressesStayAligned : Obligations.ZilloAddressesStayAligned := by
  intro s hs t z v c rest hpending hc
  have h : ZAligned { s with pending := rest } := ⟨fun y => ⟨(hs y).1, (hs y).2⟩⟩
  have hgroup : c ∈ registerCommands t z ++ memoryCommands t z ++ controlCommands t z ++ queueCommands t z ++
      eventCommands t z v := by
    clear hpending h
    revert c
    simp only [List.forall_mem_cons, List.not_mem_nil, false_implies, implies_true, and_true]
    and_intros
    all_goals simp [registerCommands, memoryCommands, controlCommands, queueCommands, eventCommands]
  have hkeeps : CommandKeepsAligned c := by
    simp only [List.mem_append] at hgroup
    obtain (((hc | hc) | hc) | hc) | hc := hgroup
    · exact registerCommands_aligned t z c hc
    · exact memoryCommands_aligned t z c hc
    · exact controlCommands_aligned t z c hc
    · exact queueCommands_aligned t z c hc
    · exact eventCommands_aligned t z v c hc
  obtain ⟨s', hexec, h'⟩ := hkeeps _ h
  refine ⟨s', ?_, fun y => ⟨(h'.core y).pc, (h'.core y).epc⟩⟩
  simp only [step, hpending, hexec]

end Sys2Proof.Machine
end

