-- ==== Sys2Proof/Proofs/TenonCommands.lean ====
section
/-! PROOF. A Tenon executes each command once (R488): the numbering and the stored replies. -/

namespace Sys2Proof.Machine

open Sys2Proof

variable {s : State} {t num : Nat} {f : State → Nat × State}

theorem State.tenon_send_reply (s : State) (t num v k : Nat) : (s.send (.reply t num v)).tenon k = s.tenon k := rfl

theorem State.tenonExec_next (h : num = ((s.tenon t).lastCmd + 1) % 2 ^ 32) :
    s.tenonExec t num f = ((f s).2.setTenon t { (f s).2.tenon t with
      lastCmd := num
      replies := (((f s).2.tenon t).replies ++ [(num, (f s).1)]).drop (((f s).2.tenon t).replies.length + 1 - 64) }).send
        (.reply t num (f s).1) := if_pos h

theorem State.tenonExec_stored {p : Nat × Nat} (h : num ≠ ((s.tenon t).lastCmd + 1) % 2 ^ 32)
    (hp : (s.tenon t).replies.find? (fun p => p.1 == num) = some p) : s.tenonExec t num f = s.send (.reply t num p.2) := by
  simp only [State.tenonExec, h, if_false, hp]

theorem State.tenonExec_unknown (h : num ≠ ((s.tenon t).lastCmd + 1) % 2 ^ 32)
    (hp : (s.tenon t).replies.find? (fun p => p.1 == num) = none) : s.tenonExec t num f = s := by
  simp only [State.tenonExec, h, if_false, hp]

/-- The newest of the stored replies is kept, and is found where no older one bears its number. -/
theorem find?_drop_append_last {l : List (Nat × Nat)} {n r k : Nat} (hk : k ≤ l.length) (hl : ∀ p ∈ l, p.1 ≠ n) :
    ((l ++ [(n, r)]).drop k).find? (fun p => p.1 == n) = some (n, r) := by
  rw [List.drop_append_of_le_length hk, List.find?_append]
  have hnone : (l.drop k).find? (fun p => p.1 == n) = none := by
    rw [List.find?_eq_none]
    intro p hp
    simpa using hl p (List.mem_of_mem_drop hp)
  simp [hnone]

/-- Settles O58: by whether the number is the next one, and whether a stored reply bears it. -/
theorem tenonCommandsRunOnce : Obligations.TenonCommandsRunOnce := by
  intro s t num f
  refine ⟨fun hnext => ?_, fun hother => ⟨fun p => State.tenonExec_stored hother, State.tenonExec_unknown hother⟩⟩
  intro v y x
  have hx : x = _ := State.tenonExec_next (f := f) hnext
  have htenon : x.tenon t = { y with
      lastCmd := num, replies := (y.replies ++ [(num, (f s).1)]).drop (y.replies.length + 1 - 64) } := by
    rw [hx, State.tenon_send_reply, State.tenon_setTenon_same]
  refine ⟨hx, by rw [htenon], ?length, ?again⟩
  case length =>
    intro hy
    simp only [htenon, List.length_drop, List.length_append, List.length_singleton]
    omega
  case again =>
    intro hfresh g
    have hnum : num ≠ ((x.tenon t).lastCmd + 1) % 2 ^ 32 := by
      rw [htenon]
      show num ≠ (num + 1) % 2 ^ 32
      omega
    refine State.tenonExec_stored (p := (num, (f s).1)) hnum ?_
    rw [htenon]
    exact find?_drop_append_last (by omega) hfresh

end Sys2Proof.Machine
end

