-- ==== Sys2Proof/Proofs/FrameOrder.lean ====
section
/-! PROOF. How a port takes frames (R453, R454): the cases of the receiver, and that none of them touches another port. -/

namespace Sys2Proof.Machine

open Sys2Proof

/-! ### What leaves the ports as they are -/

/-- A property of the state that each step of a fold keeps holds after the fold. -/
theorem foldl_keeps {α β σ : Type} {f : σ → α → σ} {get : σ → β} (hf : ∀ v x, get (f v x) = get v) (v : σ)
    (l : List α) :
    get (l.foldl f v) = get v := by
  induction l generalizing v with
  | nil => rfl
  | cons x l ih => rw [List.foldl_cons, ih, hf]

theorem State.ports_notIdle (s : State) (p : Nat) : (s.notIdle p).ports = s.ports :=
  foldl_keeps (fun v n => by split <;> rfl) s _

theorem State.ports_send_frame (s : State) (p : Nat) (f : Frame) : (s.send (.frame p f)).ports = s.ports := by
  simp only [State.send]
  split <;> rfl

theorem State.ports_sendLocal (s : State) (p ty : Nat) (words : List Nat) : (s.sendLocal p ty words).ports = s.ports := by
  simp only [State.sendLocal]
  split
  · rfl
  · rw [State.ports_send_frame, State.ports_notIdle]
    exact foldl_keeps (fun v n => by split <;> rfl) s _

/-- LINK_CTL takes what port p owes and touches no other port. -/
theorem State.port_sendCtl_other (s : State) {p q : Nat} (nak : Bool) (h : q ≠ p) : (s.sendCtl p nak).port q = s.port q := by
  simp only [State.sendCtl, State.port, State.ports_sendLocal]
  exact State.port_setPort_other s _ h

/-! ### The cases of the receiver -/

section
variable {s : State} {p l : Nat}

theorem State.rxTake_not_up (h : (s.port p).state ≠ poUp) : s.rxTake p l = (false, s) := if_pos h

theorem State.rxTake_expected (hup : (s.port p).state = poUp) (hl : l = (s.port p).rxSeq) :
    s.rxTake p l = (true, (s.portLanes p).foldl
      (fun s n => if (s.lane n).frozen then s.setLane n { s.lane n with frozen := false } else s)
      (s.setPort p { s.port p with rxSeq := ((s.port p).rxSeq + 1) % 4096, nak := false, news := true })) := by
  simp only [State.rxTake, hup, ne_eq, not_true_eq_false, if_false, hl, if_true]
  rfl

theorem State.rxTake_gap (hup : (s.port p).state = poUp) (hl : l ≠ (s.port p).rxSeq)
    (hgap : (l + 4096 - (s.port p).rxSeq) % 4096 < 2048) :
    s.rxTake p l = (false, if (s.port p).nak then s else (s.setPort p { s.port p with nak := true }).sendCtl p true) := by
  simp only [State.rxTake, hup, ne_eq, not_true_eq_false, if_false, hl, hgap, if_true]

theorem State.rxTake_duplicate (hup : (s.port p).state = poUp) (hl : l ≠ (s.port p).rxSeq)
    (hdup : 2048 ≤ (l + 4096 - (s.port p).rxSeq) % 4096) :
    s.rxTake p l = (false, s.setPort p { s.port p with news := true }) := by
  simp only [State.rxTake, hup, ne_eq, not_true_eq_false, if_false, hl, Nat.not_lt.mpr hdup]

/-- Lanes that are not frozen stay as they are as a frame is taken. -/
theorem foldl_unfreeze_eq {v : State} {lanes : List Nat} (h : ∀ n ∈ lanes, (v.lane n).frozen = false) :
    lanes.foldl (fun s n => if (s.lane n).frozen then s.setLane n { s.lane n with frozen := false } else s) v = v := by
  induction lanes with
  | nil => rfl
  | cons n lanes ih =>
    rw [List.foldl_cons, h n List.mem_cons_self]
    exact ih (fun m hm => h m (List.mem_cons_of_mem _ hm))

theorem State.port_rxTake_other {q : Nat} (h : q ≠ p) : (s.rxTake p l).2.port q = s.port q := by
  by_cases hup : (s.port p).state = poUp
  · by_cases hl : l = (s.port p).rxSeq
    · rw [State.rxTake_expected hup hl]
      refine (foldl_keeps (get := fun v : State => v.port q) (fun v n => ?_) _ _).trans (State.port_setPort_other s _ h)
      split <;> rfl
    · by_cases hgap : (l + 4096 - (s.port p).rxSeq) % 4096 < 2048
      · rw [State.rxTake_gap hup hl hgap]
        split
        · rfl
        · rw [State.port_sendCtl_other _ _ h, State.port_setPort_other _ _ h]
      · rw [State.rxTake_duplicate hup hl (Nat.not_lt.mp hgap), State.port_setPort_other _ _ h]
  · rw [State.rxTake_not_up hup]

end

/-- Settles O32: the receiver's cases, one clause each. -/
theorem framesArriveInOrder : Obligations.FramesArriveInOrder := by
  intro s p l x
  refine ⟨State.rxTake_not_up, fun hup hl hfrozen => ?_, fun hup hl hgap => ⟨fun hnak => ?_, fun hnak => ?_⟩,
    State.rxTake_duplicate, fun q => State.port_rxTake_other⟩
  · rw [State.rxTake_expected hup hl]
    exact congrArg (fun v => (true, v)) (foldl_unfreeze_eq hfrozen)
  · rw [State.rxTake_gap hup hl hgap, if_pos hnak]
  · rw [State.rxTake_gap hup hl hgap, if_neg (by rw [hnak]; exact Bool.false_ne_true)]

end Sys2Proof.Machine
end

