-- ==== Sys2Proof/Proofs/CountsClear.lean ====
section
/-! PROOF. The writes of 1 to a CLR field: each is a run of writes of 0, whose reads the laws of register fields give. -/

namespace Sys2Proof.Machine

open Sys2Proof

/-- The state in which the named copies of fields are written with 0, in the order given. -/
def State.wrZeros (s : State) (l : List (Fld × Nat)) : State := l.foldl (fun u x => u.wr x.1 x.2 0) s

theorem State.wrZeros_cons (s : State) (x : Fld × Nat) (l : List (Fld × Nat)) :
    s.wrZeros (x :: l) = (s.wr x.1 x.2 0).wrZeros l := rfl

/-- Copies that are not named read as before. -/
theorem State.rd_wrZeros_other {l : List (Fld × Nat)} {f : Fld} {i : Nat} (h : ∀ x ∈ l, fkey f i ≠ fkey x.1 x.2) :
    ∀ s : State, (s.wrZeros l).rd f i = s.rd f i := by
  induction l with
  | nil => exact fun _ => rfl
  | cons x l ih =>
    intro s
    rw [State.wrZeros_cons, ih (fun y hy => h y (List.mem_cons_of_mem _ hy)), rd_wr_other _ _ (h x List.mem_cons_self)]

/-- Copies of different keys that are named read 0. -/
theorem State.rd_wrZeros_same {l : List (Fld × Nat)} (h : l.Pairwise fun x y => fkey x.1 x.2 ≠ fkey y.1 y.2) :
    ∀ s : State, ∀ x ∈ l, (s.wrZeros l).rd x.1 x.2 = 0 := by
  induction l with
  | nil => exact fun _ _ hx => absurd hx List.not_mem_nil
  | cons y l ih =>
    obtain ⟨hy, hl⟩ := List.pairwise_cons.mp h
    intro s x hx
    rw [State.wrZeros_cons]
    rcases List.mem_cons.mp hx with rfl | hx
    · rw [State.rd_wrZeros_other hy, rd_wr_same, Nat.zero_mod]
    · exact ih hl _ x hx

theorem State.wrZeros_keeps (l : List (Fld × Nat)) (s : State) : { s.wrZeros l with regs := s.regs } = s := by
  induction l generalizing s with
  | nil => rfl
  | cons x l ih => exact congrArg (fun u : State => { u with regs := s.regs }) (ih (s.wr x.1 x.2 0))

/-- Writing 0 to copies of different keys sets exactly these. -/
theorem regsSet_wrZeros {l : List (Fld × Nat)} (h : l.Pairwise fun x y => fkey x.1 x.2 ≠ fkey y.1 y.2) (s : State) :
    RegsSet s (s.wrZeros l) (l.map fun x => (x.1, x.2, 0)) := by
  refine ⟨fun y hy => ?_, fun f i hf => ?_, State.wrZeros_keeps l s⟩
  · obtain ⟨x, hx, rfl⟩ := List.mem_map.mp hy
    exact State.rd_wrZeros_same h s x hx
  · exact State.rd_wrZeros_other (fun x hx => hf (x.1, x.2, 0) (List.mem_map.mpr ⟨x, hx, rfl⟩)) s

/-- The state in which the named fields of unit i are written with 0. -/
def State.clearUnit (s : State) (fs : List Fld) (i : Nat) : State := s.wrZeros (fs.map fun f => (f, i))

/-- Clearing different fields of one unit sets exactly these to 0. -/
theorem regsSet_clearUnit {fs : List Fld} (hfs : (fs.map Fld.id).Nodup) {i : Nat} (hi : i < 1048576) (s : State) :
    RegsSet s (s.clearUnit fs i) (fs.map fun f => (f, i, 0)) := by
  have hpw : (fs.map fun f => (f, i)).Pairwise fun x y => fkey x.1 x.2 ≠ fkey y.1 y.2 :=
    List.pairwise_map.mpr ((List.pairwise_map.mp hfs).imp fun h => fkey_ne h hi hi)
  have hl : fs.map (fun f => (f, i, 0)) = (fs.map fun f => (f, i)).map fun x => (x.1, x.2, 0) := by
    rw [List.map_map]
    rfl
  rw [hl]
  exact regsSet_wrZeros hpw s

/-! ### The Tenons' counts -/

/-- A command that clears fields of a Tenon's unit where the Tenon is reached. -/
theorem clearsTenonUnit {c : Instr} {s : State} {tn : Nat} {fs : List Fld} {i : Nat}
    (hc : exec c s = .next (if s.reachable tn then s.clearUnit fs i else s))
    (hfs : (fs.map Fld.id).Nodup) (hi : i < 1048576) :
    (s.reachable tn = true → ∃ t, exec c s = .next t ∧ RegsSet s t (fs.map fun f => (f, i, 0))) ∧
    (s.reachable tn = false → exec c s = .next s) := by
  refine ⟨fun h => ⟨_, hc.trans (by rw [if_pos h]), regsSet_clearUnit hfs hi s⟩, fun h => ?_⟩
  rw [hc, h]
  rfl

theorem chIx_lt (tn : Fin 6) (c : Fin 128) : chIx tn.val c.val < 1048576 := by
  unfold chIx
  omega

theorem bentIx_lt (tn : Fin 6) (b : Fin 16) : bentIx tn.val b.val < 1048576 := by
  unfold bentIx
  omega

theorem intIx_lt (tn : Fin 6) (b : Fin 16) : intIx tn.val b.val < 1048576 := by
  unfold intIx
  omega

theorem regIx_lt (tn : Fin 6) (r : Fin 32) : regIx tn.val r.val < 1048576 := by
  unfold regIx
  omega

section

variable (s : State) (tn : Fin 6)

theorem exec_orCountClr (c : Fin 128) : exec (.orCountClr tn c) s =
    .next (if s.reachable tn.val then s.clearUnit [F.CH_OR_COUNT_OR_COUNT] (chIx tn.val c.val) else s) := rfl

theorem exec_capCountClr (c : Fin 128) : exec (.capCountClr tn c) s =
    .next (if s.reachable tn.val then s.clearUnit [F.CAP_COUNT_BLIND, F.CAP_COUNT_BUSY] (chIx tn.val c.val) else s) := rfl

theorem exec_stCountClr (c : Fin 128) : exec (.stCountClr tn c) s =
    .next (if s.reachable tn.val then s.clearUnit [F.ST_COUNT_DEAD, F.ST_COUNT_FIFO_OVF] (chIx tn.val c.val) else s) := rfl

theorem exec_bentCountClr (b : Fin 16) : exec (.bentCountClr tn b) s =
    .next (if s.reachable tn.val then
      s.clearUnit [F.BENT_COUNT_URGENT_DROPS, F.BENT_COUNT_PASS_SKIPS] (bentIx tn.val b.val) else s) := rfl

theorem exec_loopCountClr (b : Fin 16) : exec (.loopCountClr tn b) s =
    .next (if s.reachable tn.val then
      s.clearUnit [F.LOOP_COUNT_HELD_PERIODS, F.LOOP_COUNT_TRIPS] (bentIx tn.val b.val) else s) := rfl

theorem exec_intCountClr (b : Fin 16) : exec (.intCountClr tn b) s =
    .next (if s.reachable tn.val then
      s.clearUnit [F.INT_CFG_EARLY_STOP, F.INT_CFG_OUT_WINDOW] (intIx tn.val b.val) else s) := rfl

theorem exec_regCountClr (r : Fin 32) : exec (.regCountClr tn r) s =
    .next (if s.reachable tn.val then s.clearUnit [F.REG_COUNT_BUSY, F.REG_COUNT_IGNORED] (regIx tn.val r.val) else s) := rfl

theorem exec_decSyncClr : exec (.decSyncClr tn) s =
    .next (if s.reachable tn.val then s.clearUnit [F.DEC_SYNC_STAT_LATE_COUNT] tn.val else s) := rfl

theorem exec_capFabClr : exec (.capFabClr tn) s =
    .next (if s.reachable tn.val then s.clearUnit [F.CAP_FAB_FAB_LATE] tn.val else s) := rfl

end

/-- Settles O28: every CLR write of a reached Tenon clears fields of one unit. -/
theorem tenonCountsClearAlone : Obligations.TenonCountsClearAlone := by
  intro s tn
  have ov (c : Fin 128) := clearsTenonUnit (exec_orCountClr s tn c) (by decide) (chIx_lt tn c)
  have cap (c : Fin 128) := clearsTenonUnit (exec_capCountClr s tn c) (by decide) (chIx_lt tn c)
  have st (c : Fin 128) := clearsTenonUnit (exec_stCountClr s tn c) (by decide) (chIx_lt tn c)
  have bent (b : Fin 16) := clearsTenonUnit (exec_bentCountClr s tn b) (by decide) (bentIx_lt tn b)
  have loop (b : Fin 16) := clearsTenonUnit (exec_loopCountClr s tn b) (by decide) (bentIx_lt tn b)
  have int (b : Fin 16) := clearsTenonUnit (exec_intCountClr s tn b) (by decide) (intIx_lt tn b)
  have reg (r : Fin 32) := clearsTenonUnit (exec_regCountClr s tn r) (by decide) (regIx_lt tn r)
  have dec := clearsTenonUnit (exec_decSyncClr s tn) (by decide) (by omega)
  have fab := clearsTenonUnit (exec_capFabClr s tn) (by decide) (by omega)
  exact ⟨fun h => ⟨fun c => ⟨(ov c).1 h, (cap c).1 h, (st c).1 h⟩, fun b => ⟨(bent b).1 h, (loop b).1 h, (int b).1 h⟩,
      fun r => (reg r).1 h, dec.1 h, fab.1 h⟩,
    fun h => ⟨fun c => ⟨(ov c).2 h, (cap c).2 h, (st c).2 h⟩, fun b => ⟨(bent b).2 h, (loop b).2 h, (int b).2 h⟩,
      fun r => (reg r).2 h, dec.2 h, fab.2 h⟩⟩

/-! ### The Mortise's counts -/

/-- A command that clears fields of one unit. -/
theorem clearsMortiseUnit {c : Instr} {s : State} (fs : List Fld) (i : Nat) (hc : exec c s = .next (s.clearUnit fs i))
    (hfs : (fs.map Fld.id).Nodup) (hi : i < 1048576) :
    ∃ t, exec c s = .next t ∧ RegsSet s t (fs.map fun f => (f, i, 0)) :=
  ⟨_, hc, regsSet_clearUnit hfs hi s⟩

theorem b2n_lt_two (d : Bool) : b2n d < 2 := by
  cases d <;> decide

/-- The fields of DX_COUNT in both dies' copies have different keys. -/
theorem dxCount_keys : [(F.DX_COUNT_SWITCHES, 0), (F.DX_COUNT_SWITCHES, 1), (F.DX_COUNT_UNPLANNED, 0),
    (F.DX_COUNT_UNPLANNED, 1)].Pairwise fun x y => fkey x.1 x.2 ≠ fkey y.1 y.2 := by
  simp only [List.pairwise_cons, List.mem_cons, List.not_mem_nil, or_false, forall_eq_or_imp, forall_eq, fkey,
    F.DX_COUNT_SWITCHES, F.DX_COUNT_UNPLANNED]
  simp

/-- The counts of switches of the die that acts are mirrored, so both dies' copies are cleared. -/
theorem dxCountClr_active {s : State} {d : Bool} (h : b2n d = s.dx.die) :
    ∃ t, exec (.dxCountClr d) s = .next t ∧
      RegsSet s t [(F.DX_COUNT_SWITCHES, 0, 0), (F.DX_COUNT_SWITCHES, 1, 0), (F.DX_COUNT_UNPLANNED, 0, 0),
        (F.DX_COUNT_UNPLANNED, 1, 0)] :=
  ⟨_, congrArg Host.Outcome.next (if_pos h), regsSet_wrZeros dxCount_keys s⟩

/-- The other die clears its own copies. -/
theorem dxCountClr_other {s : State} {d : Bool} (h : b2n d ≠ s.dx.die) :
    ∃ t, exec (.dxCountClr d) s = .next t ∧
      RegsSet s t [(F.DX_COUNT_SWITCHES, b2n d, 0), (F.DX_COUNT_UNPLANNED, b2n d, 0)] :=
  clearsMortiseUnit [F.DX_COUNT_SWITCHES, F.DX_COUNT_UNPLANNED] (b2n d) (congrArg Host.Outcome.next (if_neg h)) (by decide)
    (by have := b2n_lt_two d; omega)

/-- Settles O29: every CLR write of the Mortise clears fields of one unit, of DX_COUNT on the die that acts those of
both dies. -/
theorem mortiseCountsClearAlone : Obligations.MortiseCountsClearAlone := by
  intro s
  refine ⟨?_, fun q => ?_, fun m => ?_, fun e => ?_, ?_, fun l => ⟨?_, ?_, ?_⟩, ?_, ?_, fun d => ?_,
    fun d => ⟨dxCountClr_active, dxCountClr_other⟩, fun _ _ => rfl⟩
  · exact clearsMortiseUnit [F.PLUMB_STEPLOG_STEP_COUNT] 0 rfl (by decide) (by decide)
  · exact clearsMortiseUnit [F.QDROP_DROPS, F.QSTAT_HIGH_WATER] q.val rfl (by decide) (by omega)
  · exact clearsMortiseUnit [F.MEM_ECC_SINGLE, F.MEM_ECC_DOUBLE, F.MEM_ECC_UNCORR, F.MEM_ECC_ADDR, F.MEM_ECC_BAD_VALID]
      m.val rfl (by decide) (by omega)
  · exact clearsMortiseUnit [F.SEIF_CNT_IN_BYTES, F.SEIF_CNT_OUT_BYTES, F.SEIF_CNT_PACKED, F.SEIF_CNT_PASSED] e.val rfl
      (by decide) (by omega)
  · exact clearsMortiseUnit [F.SEIF_DFAULT_ILLEGAL, F.SEIF_DFAULT_DISTANCE, F.SEIF_DFAULT_OVERRUN, F.SEIF_DFAULT_BADCHK] 0
      rfl (by decide) (by decide)
  · exact clearsMortiseUnit [F.LANE_CNT_HDR_ERR, F.LANE_CNT_TI_ERRS, F.LANE_CNT_DOWNS] l.val rfl (by decide) (by omega)
  · exact clearsMortiseUnit [F.LANE_BERT_BITS, F.LANE_BERT_ERRORS] l.val rfl (by decide) (by omega)
  · exact clearsMortiseUnit [F.FAB_PORT_REPLAYS, F.FAB_PORT_DISCARDS, F.FAB_PORT_CRC_ERRS] l.val rfl (by decide) (by omega)
  · exact clearsMortiseUnit [F.FAB_DROP_NO_ROUTE, F.FAB_DROP_HOP, F.FAB_DROP_DWELL, F.FAB_DROP_BAD_TYPE] 0 rfl (by decide)
      (by decide)
  · exact clearsMortiseUnit [F.HR_PROXY_HIGH_WATER] 0 rfl (by decide) (by decide)
  · exact clearsMortiseUnit [F.DX_SCARF_HOLD_MAX] (b2n d) rfl (by decide) (by have := b2n_lt_two d; omega)

end Sys2Proof.Machine
end

