-- ==== Sys2Proof/Proofs/Stepping.lean ====
section
/-! PROOF. Steps and the state after reset: what a step takes from the queue, that every command answers a next state,
and what reset holds. -/

namespace Sys2Proof.Machine

open Sys2Proof

/-- Settles O54: both clauses are the two cases of the queue. -/
theorem stepTakesTheFrontCommand : Obligations.StepTakesTheFrontCommand := by
  refine ⟨fun c rest s => rfl, fun s h => ?_⟩
  unfold step
  rw [h]

/-- Every command's arm answers a next state, whatever its operands and the state. -/
theorem exec_runs (c : Instr) (s : State) : Runs c s := by
  cases c <;> exact ⟨_, rfl⟩

/-- Settles O55: a step idles or runs a command, and every command answers a next state. -/
theorem everyCommandRuns : Obligations.EveryCommandRuns := by
  refine ⟨exec_runs, fun s => ?_⟩
  unfold step
  split
  · exact ⟨s, rfl⟩
  · next c rest _ => exact exec_runs c { s with pending := rest }

/-- Settles O56: reset holds no register value of its own, so every field reads its reset value. -/
theorem resetLeavesTheResetColumn : Obligations.ResetLeavesTheResetColumn := by
  refine ⟨fun f i => rfl, rfl, ?_, rfl, rfl, rfl, rfl, rfl, rfl, rfl, rfl⟩
  show resetOf F.MODE_STATUS_MODE 0 = mBoot
  decide

end Sys2Proof.Machine
end

