-- ==== Sys2Proof/Proofs/Samples.lean ====
section
/-! PROOF. The conversions of a fast channel: what SAMPLE does with one. -/

namespace Sys2Proof.Machine

open Sys2Proof

section

variable {s : State} {t : Nat} {tn : Fin 6} {c : Fin 128} {code : BitVec 16}

/-- At an aperture instant after the last one used, SAMPLE feeds the channel and may start the urgent entry. -/
theorem exec_sample_new :
    let u := s.at_ t
    let n := u.apIndex tn.val c.val (u.now : Int)
    let a := u.apInstant tn.val c.val (u.now : Int) n
    let b := bentIx tn.val (c.val / 8)
    let v := u.channelSample tn.val c.val n a.toNat code.toInt
    u.converting tn.val c.val = true → 0 ≤ a →
    (∀ l, (u.chan (chIx tn.val c.val)).lastAp = some l → (l : Int) < a) →
    exec (.sample t tn c code) s = .next
      (if smapGet [] v.xtrig b ≠ smapGet [] u.xtrig b && v.on F.BENT_CTRL_URG_TRIG_EN b then v.urgentReq tn.val (c.val / 8)
        else v) := by
  intro u n a b v hconv ha hlast
  have hnew : (match (u.chan (chIx tn.val c.val)).lastAp with | none => false | some l => decide (a ≤ (l : Int))) = false := by
    split
    · rfl
    · next l hl => exact decide_eq_false (Int.not_le.mpr (hlast l hl))
  have hrun : (!u.converting tn.val c.val || decide (a < 0)
      || (match (u.chan (chIx tn.val c.val)).lastAp with | none => false | some l => decide (a ≤ (l : Int)))) = false := by
    rw [hnew, hconv, decide_eq_false (Int.not_lt.mpr ha)]
    rfl
  exact congrArg Host.Outcome.next (if_neg (ne_true_of_eq_false hrun))

/-- At an aperture instant that was used, SAMPLE changes nothing. -/
theorem exec_sample_used :
    let u := s.at_ t
    let n := u.apIndex tn.val c.val (u.now : Int)
    let a := u.apInstant tn.val c.val (u.now : Int) n
    ∀ l, (u.chan (chIx tn.val c.val)).lastAp = some l → a ≤ (l : Int) → exec (.sample t tn c code) s = .next u := by
  intro u n a l hl ha
  have hused : (match (u.chan (chIx tn.val c.val)).lastAp with | none => false | some l => decide (a ≤ (l : Int))) = true := by
    rw [hl]
    exact decide_eq_true ha
  have hstop : (!u.converting tn.val c.val || decide (a < 0)
      || (match (u.chan (chIx tn.val c.val)).lastAp with | none => false | some l => decide (a ≤ (l : Int)))) = true := by
    rw [hused, Bool.or_true]
  exact congrArg Host.Outcome.next (if_pos hstop)

end

/-- Settles O5: the aperture instant is new or used, and the cross-trigger has fired or not. -/
theorem sampleFeedsItsChannel : Obligations.SampleFeedsItsChannel := by
  intro s t tn c code u i n a b v hconv ha
  refine ⟨fun hlast => ⟨fun hquiet => ?_, fun ⟨hfired, hurg⟩ => ?_⟩, exec_sample_used⟩
  · rw [exec_sample_new hconv ha hlast]
    refine congrArg Host.Outcome.next (if_neg fun h => ?_)
    obtain ⟨hfired, hurg⟩ := Bool.and_eq_true_iff.mp h
    rcases hquiet with hsame | hoff
    · exact of_decide_eq_true hfired hsame
    · exact Bool.false_ne_true (hoff.symm.trans hurg)
  · rw [exec_sample_new hconv ha hlast]
    exact congrArg Host.Outcome.next (if_pos (Bool.and_eq_true_iff.mpr ⟨decide_eq_true hfired, hurg⟩))

end Sys2Proof.Machine
end

