-- ==== Sys2Proof/Proofs/ZilloExecution.lean ====
section
/-! PROOF. What an instruction of a running core comes to when it completes or jumps (chapter 13), and from that the
register instructions and the memory accesses. -/

namespace Sys2Proof.Machine

open Sys2Proof

/-! ### The rules of completing and jumping instructions -/

/-- The core at a new pc, with the buffered instruction kept only where the pc is the next one. -/
def State.zGo (s : State) (z : Nat) (pc : BitVec 19) : State :=
  (s.setZcore z { s.zcore z with
    pc := pc, fetched := if pc = (s.zcore z).pc + 4 then (s.zcore z).fetched else none }).zBoundary z

section

variable {c : Instr} {s s1 s2 : State} {t z : Nat} {i : ZOp} {h : ZOp → Option (State → ZRes)} {f : State → ZRes}

/-- The rule of every completing instruction: the core steps on from the state the execution comes to. -/
theorem exec_eq_zNext (hexec : exec c s = .next (s.zillo t z h)) (hat : ZAt (s.at_ t) z i s1) (htake : h i = some f)
    (hdone : f s1 = .done s2) : exec c s = .next (s2.zNext z) := by
  obtain ⟨hruns, w, hfetch, hdecode⟩ := hat
  simp only [hexec, State.zillo, hruns, hfetch, hdecode, Option.bind_some, htake, hdone, Bool.not_true, Bool.false_eq_true,
    if_false]

/-- The rule of every jump: the core goes on at the pc the execution comes to. -/
theorem exec_eq_zGo {pc : BitVec 19} (hexec : exec c s = .next (s.zillo t z h)) (hat : ZAt (s.at_ t) z i s1)
    (htake : h i = some f) (hjump : f s1 = .jump pc s2) : exec c s = .next (s2.zGo z pc) := by
  obtain ⟨hruns, w, hfetch, hdecode⟩ := hat
  simp only [hexec, State.zillo, hruns, hfetch, hdecode, Option.bind_some, htake, hjump, Bool.not_true, Bool.false_eq_true,
    if_false, State.zGo]

end

/-! ### Stepping on -/

section

variable {s : State} {z : Nat} {x : ZCore}

/-- Where no halt is requested, the boundary of an instruction changes nothing. -/
theorem State.zBoundary_no_halt (h : x.haltAt = none) : (s.setZcore z x).zBoundary z = s.setZcore z x := by
  simp [State.zBoundary, h]

/-- Outside an RPT the pc advances by 4. -/
theorem State.zNext_plain (hhalt : x.haltAt = none) (hrpt : x.rpt = none) :
    (s.setZcore z x).zNext z = (s.setZcore z x).setZcore z { x with pc := x.pc + 4 } := by
  simp only [State.zNext, State.zcore_setZcore_same, hrpt]
  exact State.zBoundary_no_halt hhalt

/-- Inside an RPT with repetitions left the count goes down. -/
theorem State.zNext_repeats (hhalt : x.haltAt = none) {left n : Nat} (hrpt : x.rpt = some (left, n)) (hleft : 1 < left) :
    (s.setZcore z x).zNext z = (s.setZcore z x).setZcore z { x with rpt := some (left - 1, n + 1) } := by
  simp only [State.zNext, State.zcore_setZcore_same, hrpt, hleft, if_true]
  exact State.zBoundary_no_halt hhalt

/-- With the last repetition the RPT ends and the pc advances. -/
theorem State.zNext_ends (hhalt : x.haltAt = none) {left n : Nat} (hrpt : x.rpt = some (left, n)) (hleft : left ≤ 1) :
    (s.setZcore z x).zNext z = (s.setZcore z x).setZcore z { x with rpt := none, pc := x.pc + 4 } := by
  simp only [State.zNext, State.zcore_setZcore_same, hrpt, Nat.not_lt.mpr hleft, if_false]
  exact State.zBoundary_no_halt hhalt

end

/-- Settles O48: each register instruction completes by its execution, and stepping on is one of three cases. -/
theorem zilloComputesInRegisters : Obligations.ZilloComputesInRegisters := by
  intro s t z d a b s1 u c put
  refine ⟨fun hat => exec_eq_zNext rfl hat rfl rfl, fun hat => exec_eq_zNext rfl hat rfl rfl,
    fun hat => exec_eq_zNext rfl hat rfl rfl, fun hat => exec_eq_zNext rfl hat rfl rfl,
    fun hat => exec_eq_zNext rfl hat rfl rfl, fun hat => exec_eq_zNext rfl hat rfl rfl,
    fun hat => exec_eq_zNext rfl hat rfl rfl, fun hat => exec_eq_zNext rfl hat rfl rfl,
    fun hat => exec_eq_zNext rfl hat rfl rfl, fun hat => exec_eq_zNext rfl hat rfl rfl,
    fun hat => exec_eq_zNext rfl hat rfl rfl, ?immediates, fun imm hat => exec_eq_zNext rfl hat rfl rfl,
    fun imm hat => exec_eq_zNext rfl hat rfl rfl, ?addresses, ?accumulators, ?stepping⟩
  case immediates =>
    exact fun imm => ⟨fun hat => exec_eq_zNext rfl hat rfl rfl, fun hat => exec_eq_zNext rfl hat rfl rfl,
      fun hat => exec_eq_zNext rfl hat rfl rfl, fun hat => exec_eq_zNext rfl hat rfl rfl⟩
  case addresses =>
    exact fun n => ⟨fun hat => exec_eq_zNext rfl hat rfl rfl, fun hat => exec_eq_zNext rfl hat rfl rfl,
      fun off hat => exec_eq_zNext rfl hat rfl rfl, fun hat => exec_eq_zNext rfl hat rfl rfl⟩
  case accumulators =>
    exact fun k => ⟨fun cj sub hat => exec_eq_zNext rfl hat rfl rfl, fun hat => exec_eq_zNext rfl hat rfl rfl,
      fun sh hat => exec_eq_zNext rfl hat rfl rfl, fun im sh hat => exec_eq_zNext rfl hat rfl rfl⟩
  case stepping =>
    exact fun x hhalt => ⟨State.zNext_plain hhalt, fun left n => State.zNext_repeats hhalt,
      fun left n => State.zNext_ends hhalt⟩

/-! ### Loads and stores -/

/-- A search writes g_d and the index to its partner only where the word read is better. -/
theorem zSearch_eq_done {z : Nat} {d : Fin 16} {n am : Fin 8} {off : BitVec 16} {better : Int → Int → Bool} {s v : State}
    {w : Nat} (hb : ((s.zcore z).ea n am off 4).1 % 4 = 0)
    (hread : s.zread z ((s.zcore z).ea n am off 4).1 = (w, true, v)) :
    zSearch z d n am off better s =
      (let x := v.zcore z
       let y := BitVec.ofNat 32 (halfAt w ((s.zcore z).ea n am off 4).1)
       .done (v.setZcore z (if better y.toInt (x.g d).toInt then
         ((x.ea n am off 4).2.setG d y).setG (pairOf d) (BitVec.ofNat 32 (match x.rpt with | some (_, k) => k | none => 0))
         else (x.ea n am off 4).2))) := by
  rw [zSearch]
  exact (zLoad_aligned hb hread).trans rfl

section

variable {s s1 v : State} {t w : Nat} {z : Fin 4} {d : Fin 16} {n am : Fin 8} {off : BitVec 16}

theorem exec_stw_aligned (hb : ((s1.zcore z.val).ea n am off 4).1 % 4 = 0)
    (hat : ZAt (s.at_ t) z.val (.stw d n am off) s1) :
    exec (.stw t z) s = .next (((s1.setZcore z.val ((s1.zcore z.val).ea n am off 4).2).zputHalf z.val
      ((s1.zcore z.val).ea n am off 4).1 ((s1.zcore z.val).g d).toNat).zNext z.val) :=
  exec_eq_zNext rfl hat rfl (if_neg (not_not_intro hb))

theorem exec_std_aligned (hb : ((s1.zcore z.val).ea n am off 8).1 % 8 = 0)
    (hat : ZAt (s.at_ t) z.val (.std d n am off) s1) :
    exec (.std t z) s = .next (((s1.setZcore z.val ((s1.zcore z.val).ea n am off 8).2).zput z.val
      (((s1.zcore z.val).ea n am off 8).1 / 8)
      (((s1.zcore z.val).g d).toNat + ((s1.zcore z.val).g (pairOf d)).toNat * 2 ^ 32)).zNext z.val) :=
  exec_eq_zNext rfl hat rfl (if_neg (not_not_intro hb))

theorem exec_maxm_aligned (hb : ((s1.zcore z.val).ea n am off 4).1 % 4 = 0)
    (hread : s1.zread z.val ((s1.zcore z.val).ea n am off 4).1 = (w, true, v))
    (hat : ZAt (s.at_ t) z.val (.maxm d n am off) s1) :
    let x := v.zcore z.val
    let y := BitVec.ofNat 32 (halfAt w ((s1.zcore z.val).ea n am off 4).1)
    exec (.maxm t z) s = .next ((v.setZcore z.val (if (x.g d).toInt < y.toInt then
      ((x.ea n am off 4).2.setG d y).setG (pairOf d) (BitVec.ofNat 32 (match x.rpt with | some (_, k) => k | none => 0))
      else (x.ea n am off 4).2)).zNext z.val) := by
  refine (exec_eq_zNext rfl hat rfl (zSearch_eq_done hb hread)).trans ?_
  simp only [decide_eq_true_eq]

theorem exec_minm_aligned (hb : ((s1.zcore z.val).ea n am off 4).1 % 4 = 0)
    (hread : s1.zread z.val ((s1.zcore z.val).ea n am off 4).1 = (w, true, v))
    (hat : ZAt (s.at_ t) z.val (.minm d n am off) s1) :
    let x := v.zcore z.val
    let y := BitVec.ofNat 32 (halfAt w ((s1.zcore z.val).ea n am off 4).1)
    exec (.minm t z) s = .next ((v.setZcore z.val (if y.toInt < (x.g d).toInt then
      ((x.ea n am off 4).2.setG d y).setG (pairOf d) (BitVec.ofNat 32 (match x.rpt with | some (_, k) => k | none => 0))
      else (x.ea n am off 4).2)).zNext z.val) := by
  refine (exec_eq_zNext rfl hat rfl (zSearch_eq_done hb hread)).trans ?_
  simp only [decide_eq_true_eq]

/-- CMAC reads both operands, adds their product and then steps the addresses its bits name. -/
theorem exec_cmac_aligned {k : Fin 4} {m : Fin 8} {cj px py sub : Bool} {wx wy : Nat} {v' : State}
    (hx : ((s1.zcore z.val).a n).toNat % 4 = 0) (hy : ((s1.zcore z.val).a m).toNat % 4 = 0)
    (hreadx : s1.zread z.val ((s1.zcore z.val).a n).toNat = (wx, true, v))
    (hready : v.zread z.val ((s1.zcore z.val).a m).toNat = (wy, true, v'))
    (hat : ZAt (s.at_ t) z.val (.cmac k n m cj px py sub) s1) :
    let x := (v'.zcore z.val).mac k (BitVec.ofNat 32 (halfAt wx ((s1.zcore z.val).a n).toNat))
      (BitVec.ofNat 32 (halfAt wy ((s1.zcore z.val).a m).toNat)) cj sub
    let y := if px then x.setA n (x.post n (x.st n).toInt) else x
    exec (.cmac t z) s =
      .next ((v'.setZcore z.val (if py then y.setA m (y.post m (y.st m).toInt) else y)).zNext z.val) :=
  exec_eq_zNext rfl hat rfl ((zLoad_aligned hx hreadx).trans (zLoad_aligned hy hready))

end

/-- Settles O49: each access at an aligned, readable address completes: the 32-bit ones, the 64-bit ones, and CMAC's two
operands. -/
theorem zilloLoadsAndStores : Obligations.ZilloLoadsAndStores := by
  intro s t z d n am off s1 u c
  refine ⟨fun hb => ⟨fun w v hread hat => ?_, exec_stw_aligned hb, fun w v => exec_maxm_aligned hb,
      fun w v => exec_minm_aligned hb⟩,
    fun hb => ⟨fun w v hread hat => ?_, exec_std_aligned hb⟩,
    fun k m cj sub wx wy v w hx hy hreadx hready => ⟨exec_cmac_aligned hx hy hreadx hready,
      exec_cmac_aligned hx hy hreadx hready, exec_cmac_aligned hx hy hreadx hready⟩⟩
  · exact exec_eq_zNext rfl hat rfl (zLoad_aligned hb hread)
  · exact exec_eq_zNext rfl hat rfl (zLoad_aligned hb hread)

end Sys2Proof.Machine
end

