-- ==== Sys2Proof/Proofs/ZilloControl.lean ====
section
/-! PROOF. The branches, the control instructions and the queue instructions of a running core, and the events that
interrupt, start and stop it (chapter 13). -/

namespace Sys2Proof.Machine

open Sys2Proof

/-! ### Branches and control -/

section

variable {s s1 : State} {t : Nat} {z : Fin 4}

/-- A conditional branch: taken it jumps, not taken the core steps on. -/
theorem exec_eq_branch {c : Instr} {i : ZOp} {h : ZOp → Option (State → ZRes)} {p : Prop} [Decidable p] {disp : Int}
    (hexec : exec c s = .next (s.zillo t z.val h)) (hat : ZAt (s.at_ t) z.val i s1)
    (htake : ∃ f, h i = some f ∧ f s1 = if p then zBranch z.val disp s1 else .done s1) :
    exec c s = .next (if p then s1.zGo z.val (BitVec.ofInt 19 (((s1.zcore z.val).pc.toNat : Int) + 4 * disp))
      else s1.zNext z.val) := by
  obtain ⟨f, hf, hres⟩ := htake
  by_cases hp : p
  · rw [if_pos hp] at hres ⊢
    exact exec_eq_zGo hexec hat hf hres
  · rw [if_neg hp] at hres ⊢
    exact exec_eq_zNext hexec hat hf hres

/-- RPT before a word marked R repeats it. -/
theorem zRepeat_marked {z n w : Nat} {v : State} {i : ZOp}
    (hread : s1.zread z ((s1.zcore z).pc + 4).toNat = (w, true, v))
    (hdecode : zDecode (halfAt w ((s1.zcore z).pc + 4).toNat) = some i) (hmark : i.repeatable = true) :
    zRepeat z n s1 = .jump ((s1.zcore z).pc + 4) (s1.setZcore z { s1.zcore z with rpt := some (n, 0) }) := by
  simp only [zRepeat, hread, hdecode, hmark, Bool.not_true, Bool.and_false, Bool.false_eq_true, if_false]

/-- RPT before another word that can be read and spells an instruction comes to a trap. -/
theorem zRepeat_unmarked {z n w : Nat} {v : State} {i : ZOp}
    (hread : s1.zread z ((s1.zcore z).pc + 4).toNat = (w, true, v))
    (hdecode : zDecode (halfAt w ((s1.zcore z).pc + 4).toNat) = some i) (hmark : i.repeatable = false) :
    zRepeat z n s1 = .trap 1 0 := by
  simp only [zRepeat, hread, hdecode, hmark, Bool.not_false, Bool.and_true, if_true]

theorem exec_jr_aligned {a : Fin 16} (hat : ZAt (s.at_ t) z.val (.jr a) s1)
    (ha : (((s1.zcore z.val).g a).setWidth 19).toNat % 4 = 0) :
    exec (.jr t z) s = .next (s1.zGo z.val (((s1.zcore z.val).g a).setWidth 19)) :=
  exec_eq_zGo rfl hat rfl (if_neg (not_not_intro ha))

theorem exec_wait_pending (hat : ZAt (s.at_ t) z.val .wait s1) (hirq : s1.zIrq z.val = true) :
    exec (.wait t z) s = .next (s1.zNext z.val) :=
  exec_eq_zNext rfl hat rfl (if_pos hirq)

theorem exec_wait_sleeps (hat : ZAt (s.at_ t) z.val .wait s1) (hirq : s1.zIrq z.val = false)
    (hstate : s1.zState z.val = zRunning) :
    exec (.wait t z) s = .next ((s1.zSetState z.val zWaiting).zGo z.val ((s1.zcore z.val).pc + 4)) :=
  exec_eq_zGo rfl hat rfl ((if_neg (ne_true_of_eq_false hirq)).trans (by rw [if_pos hstate]))

theorem exec_mfc {a : Fin 16} {creg : Fin 32} {r : BitVec 32} {v : State} (hread : s1.zMfc z.val creg.val = (r, v))
    (hat : ZAt (s.at_ t) z.val (.mfc a creg) s1) :
    exec (.mfc t z) s = .next ((v.setZcore z.val ((v.zcore z.val).setG a r)).zNext z.val) :=
  exec_eq_zNext rfl hat rfl (by dsimp only; rw [hread])

/-- HALT of a core whose state is running requests the halt. -/
theorem exec_halt_running (hat : ZAt (s.at_ t) z.val .halt s1)
    (hstate : (s1.setZcore z.val { s1.zcore z.val with
      haltAt := some ((s1.zcore z.val).haltAt.getD s1.now) }).zState z.val = zRunning) :
    exec (.halt t z) s = .next ((((s1.setZcore z.val { s1.zcore z.val with
      haltAt := some ((s1.zcore z.val).haltAt.getD s1.now) }).zSetState z.val zHalting).zStick
        F.ZC_STATUS_FW_HALT 2 z.val).zNext z.val) :=
  exec_eq_zNext rfl hat rfl (by dsimp only; rw [if_pos hstate])

end

/-- Settles O51: branches, calls and repeats jump, trap or step on; each control instruction by its execution. -/
theorem zilloBranchesAndControls : Obligations.ZilloBranchesAndControls := by
  intro s t z a b s1 u c go at4
  refine ⟨fun disp => ⟨fun hat => exec_eq_zGo rfl hat rfl rfl, fun hat => exec_eq_zGo rfl hat rfl rfl⟩,
    fun disp => ⟨fun hat => exec_eq_branch rfl hat ⟨_, rfl, rfl⟩, fun hat => exec_eq_branch rfl hat ⟨_, rfl, rfl⟩⟩,
    fun disp hat => exec_eq_branch rfl hat ⟨_, rfl, rfl⟩,
    fun hat => ⟨exec_jr_aligned hat, fun hpc => exec_eq_zTrap rfl hat rfl (if_pos hpc)⟩, ?repeats,
    fun hat => ⟨exec_wait_pending hat, exec_wait_sleeps hat⟩, fun hat => exec_eq_zGo rfl hat rfl rfl,
    fun creg => ⟨fun r v => exec_mfc, fun hat => exec_eq_zNext rfl hat rfl rfl⟩,
    fun y hat => exec_eq_zNext rfl hat rfl rfl, fun hat => exec_halt_running hat⟩
  case repeats =>
    intro w v i hread hdecode
    exact ⟨fun hmark => ⟨fun cnt hat => exec_eq_zGo rfl hat rfl (zRepeat_marked hread hdecode hmark),
        fun hat => exec_eq_zGo rfl hat rfl (zRepeat_marked hread hdecode hmark)⟩,
      fun hmark => ⟨fun cnt hat => exec_eq_zTrap rfl hat rfl (zRepeat_unmarked hread hdecode hmark),
        fun hat => exec_eq_zTrap rfl hat rfl (zRepeat_unmarked hread hdecode hmark)⟩⟩

/-! ### Queue instructions -/

section

variable {s s1 : State} {t : Nat} {z : Fin 4} {a : Fin 16} {n : Fin 8}

theorem exec_qopen_nothing (hat : ZAt (s.at_ t) z.val (.qopen a) s1) (hinp : (s1.zcore z.val).inp = none)
    (hpick : s1.readerPick 2 z.val = none) :
    exec (.qopen t z) s = .next ((s1.setZcore z.val ((s1.zcore z.val).setG a 0)).zNext z.val) :=
  exec_eq_zNext rfl hat rfl (by simp [hinp, hpick])

theorem exec_qopen_takes {q : Nat} {p : Pkt} (hat : ZAt (s.at_ t) z.val (.qopen a) s1)
    (hinp : (s1.zcore z.val).inp = none) (hpick : s1.readerPick 2 z.val = some q) (hpkt : s1.nextPkt q = some p) :
    let v := (s1.readerTook 2 z.val q).setQueue q { s1.queue q with taken := (s1.queue q).taken + 1 }
    exec (.qopen t z) s = .next ((v.setZcore z.val
      ({ v.zcore z.val with inp := some (q, 0) }.setG a (BitVec.ofNat 32 (p.rec_.len * 8)))).zNext z.val) :=
  exec_eq_zNext rfl hat rfl (by simp only [hinp, hpick, hpkt, Option.isSome_none, Bool.false_eq_true, if_false])

theorem exec_qrdd_word {q pos w : Nat} {v : State} (hinp : (s1.zcore z.val).inp = some (q, pos))
    (hword : s1.zWord z.val = (some w, v)) (hat : ZAt (s.at_ t) z.val (.qrdd a) s1) :
    exec (.qrdd t z) s = .next ((v.setZcore z.val (((v.zcore z.val).setG a (BitVec.ofNat 32 w)).setG (pairOf a)
      (BitVec.ofNat 32 (w / 2 ^ 32)))).zNext z.val) :=
  exec_eq_zNext rfl hat rfl (by simp [hinp, hword])

theorem exec_qdone_open {q pos : Nat} (hinp : (s1.zcore z.val).inp = some (q, pos))
    (hat : ZAt (s.at_ t) z.val .qdone s1) :
    exec (.qdone t z) s = .next (((s1.setZcore z.val { s1.zcore z.val with inp := none }).deliver q 1).zNext z.val) :=
  exec_eq_zNext rfl hat rfl (by simp [hinp])

theorem exec_qblk_done {q pos : Nat} {v : State} (hinp : (s1.zcore z.val).inp = some (q, pos))
    (hblk : zBlkIn z.val a n s1 (s1.zLeft z.val) = .done v) (hat : ZAt (s.at_ t) z.val (.qblk a n) s1) :
    exec (.qblk t z) s = .next (v.zNext z.val) :=
  exec_eq_zNext rfl hat rfl ((if_neg (by rw [hinp]; exact Bool.false_ne_true)).trans hblk)

theorem exec_qnew_opens (hat : ZAt (s.at_ t) z.val (.qnew a) s1) (houtp : (s1.zcore z.val).outp = none) :
    let sid := streamId 14 7 (32 * z.val + ((s1.zcore z.val).g a).toNat % 32)
    exec (.qnew t z) s = .next ((s1.setZcore z.val
      { s1.zcore z.val with outp := some { stream := sid, queue := s1.queueOf sid } }).zNext z.val) :=
  exec_eq_zNext rfl hat rfl (if_neg (by rw [houtp]; exact Bool.false_ne_true))

variable {o : ZOut} (houtp : (s1.zcore z.val).outp = some o)

include houtp

/-- Within a block of eight words, a word is appended to the open record. -/
theorem exec_qwrd_appends (hlen : o.words.length < 1024) (hmod : o.words.length % 8 ≠ 0)
    (hat : ZAt (s.at_ t) z.val (.qwrd a) s1) :
    exec (.qwrd t z) s = .next ((s1.setZcore z.val { s1.zcore z.val with outp := some { o with
      words := o.words ++ [((s1.zcore z.val).g a).toNat + ((s1.zcore z.val).g (pairOf a)).toNat * 2 ^ 32] } }).zNext
        z.val) :=
  exec_eq_zNext rfl hat rfl (by simp only [zAppend, houtp, Nat.not_le.mpr hlen, if_false, if_pos hmod])

theorem exec_qwrd_full (hlen : o.words.length = 1024) (hat : ZAt (s.at_ t) z.val (.qwrd a) s1) :
    exec (.qwrd t z) s = .next (s1.zTrap z.val 6 0) :=
  exec_eq_zTrap rfl hat rfl (by simp only [zAppend, houtp, hlen, Nat.le_refl, if_true])

theorem exec_qpblk_done {v : State} (hblk : zBlkOut z.val a n s1 1026 = .done v)
    (hat : ZAt (s.at_ t) z.val (.qpblk a n) s1) : exec (.qpblk t z) s = .next (v.zNext z.val) :=
  exec_eq_zNext rfl hat rfl ((if_neg (by rw [houtp]; exact Bool.false_ne_true)).trans hblk)

theorem exec_qclose_long {x : Bool} (hat : ZAt (s.at_ t) z.val (.qclose x) s1) (hlen : 4 ≤ o.words.length) :
    exec (.qclose t z) s = .next ((if x then s1.zDiscard z.val else s1.zClose z.val o).zNext z.val) :=
  exec_eq_zNext rfl hat rfl (by simp only [houtp, Nat.not_lt.mpr hlen, if_false]; cases x <;> rfl)

theorem exec_qclose_short {x : Bool} (hat : ZAt (s.at_ t) z.val (.qclose x) s1) (hlen : o.words.length < 4) :
    exec (.qclose t z) s = .next (s1.zTrap z.val 6 0) :=
  exec_eq_zTrap rfl hat rfl (by simp only [houtp, hlen, if_true])

end

/-- Settles O52: for each queue instruction the cases of the open packet or record that it needs. -/
theorem zilloReadsAndWritesQueues : Obligations.ZilloReadsAndWritesQueues := by
  intro s t z a n s1 u c
  refine ⟨fun hat => ⟨fun hinp => exec_eq_zTrap rfl hat rfl (if_pos hinp), exec_qopen_nothing hat,
      fun q p => exec_qopen_takes hat⟩, ?unopened, ?opened,
    fun hat => ⟨fun houtp => exec_eq_zTrap rfl hat rfl (if_pos houtp), exec_qnew_opens hat⟩, ?unbuilt, ?built⟩
  case unopened =>
    intro hinp
    have hnone : (s1.zcore z.val).inp.isNone = true := by rw [Option.isNone_iff_eq_none]; exact hinp
    exact ⟨fun hat => exec_eq_zTrap rfl hat rfl (if_pos hnone), fun hat => exec_eq_zTrap rfl hat rfl (if_pos hnone),
      fun hat => exec_eq_zTrap rfl hat rfl (by rw [show (s1.zcore z.val).inp = none from hinp])⟩
  case opened =>
    exact fun q pos hinp => ⟨fun w v => exec_qrdd_word hinp, exec_qdone_open hinp, fun v => exec_qblk_done hinp⟩
  case unbuilt =>
    intro houtp
    have hnone : (s1.zcore z.val).outp.isNone = true := by rw [Option.isNone_iff_eq_none]; exact houtp
    exact ⟨fun hat => exec_eq_zTrap rfl hat rfl (by rw [zAppend, show (s1.zcore z.val).outp = none from houtp]),
      fun hat => exec_eq_zTrap rfl hat rfl (if_pos hnone),
      fun x hat => exec_eq_zTrap rfl hat rfl (by rw [show (s1.zcore z.val).outp = none from houtp])⟩
  case built =>
    exact fun o houtp => ⟨exec_qwrd_appends houtp, exec_qwrd_full houtp, fun v => exec_qpblk_done houtp,
      fun x hat => ⟨exec_qclose_long houtp hat, exec_qclose_short houtp hat⟩⟩

/-! ### Events of a core -/

section

variable {s : State} {t : Nat} {z : Fin 4}

theorem exec_illegalOpcode_traps {w : Nat} {v : State} (hruns : (s.at_ t).zRuns z.val = true)
    (hfetch : (s.at_ t).zfetch z.val ((s.at_ t).zcore z.val).pc.toNat = (w, true, v)) (hdecode : zDecode w = none) :
    exec (.illegalOpcode t z) s = .next (v.zTrap z.val 1 0) := by
  show execIllegalOpcode t z s = _
  simp only [execIllegalOpcode, hruns, hfetch, hdecode, Bool.not_true, Bool.false_eq_true, if_false]

theorem exec_illegalOpcode_legal {w : Nat} {v : State} {i : ZOp} (hruns : (s.at_ t).zRuns z.val = true)
    (hfetch : (s.at_ t).zfetch z.val ((s.at_ t).zcore z.val).pc.toNat = (w, true, v)) (hdecode : zDecode w = some i) :
    exec (.illegalOpcode t z) s = .next (s.at_ t) := by
  show execIllegalOpcode t z s = _
  simp only [execIllegalOpcode, hruns, hfetch, hdecode, Bool.not_true, Bool.false_eq_true, if_false]

/-- The interrupt of a running core outside an RPT and in the main bank. -/
theorem State.zInterrupt_running {u : State} {z : Nat} (hpow : u.zPowered z = true) (hst : u.zState z = zRunning)
    (hrpt : (u.zcore z).rpt = none) (hbank : (u.zcore z).bank = false) :
    u.zInterrupt z = if u.zIrq z then
      u.setZcore z { u.zcore z with epc := (u.zcore z).pc, bank := true, pc := 0x20, fetched := none } else u := by
  cases hirq : u.zIrq z <;>
    simp [State.zInterrupt, State.zRuns, hpow, hst, hrpt, hbank, hirq, zRunning, zWaiting]

/-- A waiting core goes on running when it takes its interrupt. -/
theorem State.zInterrupt_waiting {u : State} {z : Nat} (hpow : u.zPowered z = true) (hst : u.zState z = zWaiting)
    (hrpt : (u.zcore z).rpt = none) (hbank : (u.zcore z).bank = false) (hirq : u.zIrq z = true) :
    u.zInterrupt z = (u.zSetState z zRunning).setZcore z { (u.zSetState z zRunning).zcore z with
      epc := (u.zcore z).pc, bank := true, pc := 0x20, fetched := none } := by
  simp [State.zInterrupt, hpow, hst, hrpt, hbank, hirq]

theorem exec_coreTimerExpiry_of_timer {a : Nat} (htimer : ((s.at_ t).zcore z.val).timerAt = some a) :
    exec (.coreTimerExpiry t z) s = .next (if a ≤ (s.at_ t).now then
      ((s.at_ t).setZcore z.val { (s.at_ t).zcore z.val with timerAt := none }).zLatch z.val 2 else s.at_ t) := by
  show execCoreTimerExpiry t z s = _
  simp only [execCoreTimerExpiry, htimer]

theorem exec_coreHaltTimeout_of_request {a : Nat} (hhalt : ((s.at_ t).zcore z.val).haltAt = some a)
    (hrpt : ((s.at_ t).zcore z.val).rpt = none) :
    exec (.coreHaltTimeout t z) s = .next (if a + msF ≤ (s.at_ t).now then (s.at_ t).zHalt z.val else s.at_ t) := by
  show execCoreHaltTimeout t z s = _
  simp only [execCoreHaltTimeout, hhalt, hrpt, Option.isNone_none, Bool.and_true, decide_eq_true_eq]

/-- A write of RUN 1 starts a powered core that is halted or trapped. -/
theorem State.zRun_stopped {u : State} {z : Nat} (hpow : (u.wr F.ZC_CTRL_RUN z 1).zPowered z = true)
    (hst : (u.wr F.ZC_CTRL_RUN z 1).zState z = zHalted ∨ (u.wr F.ZC_CTRL_RUN z 1).zState z = zTrapped) :
    u.zRun z = (u.wr F.ZC_CTRL_RUN z 1).zStart z := by
  unfold State.zRun
  exact if_pos (by simpa [hpow] using hst)

theorem State.zRun_running {u : State} {z : Nat} (hst : (u.wr F.ZC_CTRL_RUN z 1).zState z = zRunning) :
    u.zRun z = u.wr F.ZC_CTRL_RUN z 1 := by
  unfold State.zRun
  exact if_neg (by simp [hst, zRunning, zHalted, zTrapped])

theorem exec_watchdogExpiry_expired (hruns : (s.at_ t).zRuns z.val = true) (hen : (s.at_ t).on F.ZC_CTRL_WD_EN z.val = true)
    (hdue : ((s.at_ t).zcore z.val).wdFrom + (s.at_ t).rd F.ZC_WDOG_PERIOD z.val * usF ≤ (s.at_ t).now) :
    exec (.watchdogExpiry t z) s = .next ((s.at_ t).zWdReset z.val) := by
  show execWatchdogExpiry t z s = _
  unfold execWatchdogExpiry
  dsimp only
  rw [if_pos (by rw [hruns, hen, decide_eq_true hdue]; rfl)]

end

/-- Settles O53: illegal words, interrupts, the timer, the mailbox, the watchdog, and the host's start and halt. -/
theorem coresAreInterruptedStartedAndStopped : Obligations.CoresAreInterruptedStartedAndStopped := by
  intro s t z u c
  refine ⟨fun w v => exec_illegalOpcode_traps, fun w v i => exec_illegalOpcode_legal,
    fun hpow hst hrpt hbank => ⟨fun hirq => ?_, fun hirq => ?_⟩,
    fun hpow hst hrpt hbank hirq => congrArg Host.Outcome.next (State.zInterrupt_waiting hpow hst hrpt hbank hirq),
    fun a htimer => ⟨fun hdue => ?_, fun hnot => ?_⟩, fun v => rfl, exec_watchdogExpiry_expired,
    ⟨fun hpow hst => congrArg Host.Outcome.next (State.zRun_stopped hpow hst),
      fun hst => congrArg Host.Outcome.next (State.zRun_running hst)⟩, rfl,
    fun a hhalt hrpt => ⟨fun hdue => ?_, fun hnot => ?_⟩⟩
  · exact congrArg Host.Outcome.next ((State.zInterrupt_running hpow hst hrpt hbank).trans (if_pos hirq))
  · exact congrArg Host.Outcome.next
      ((State.zInterrupt_running hpow hst hrpt hbank).trans (if_neg (ne_true_of_eq_false hirq)))
  · rw [exec_coreTimerExpiry_of_timer htimer, if_pos hdue]
  · rw [exec_coreTimerExpiry_of_timer htimer, if_neg (Nat.not_le.mpr hnot)]
  · rw [exec_coreHaltTimeout_of_request hhalt hrpt, if_pos hdue]
  · rw [exec_coreHaltTimeout_of_request hhalt hrpt, if_neg (Nat.not_le.mpr hnot)]

end Sys2Proof.Machine
end

