-- ==== Sys2Proof/Proofs/FastChannels.lean ====
section
/-! PROOF. The fast channels (chapter 02): over-range and common mode, settings, the continuity check, the pulser. -/

namespace Sys2Proof.Machine

open Sys2Proof

/-! ### Outcomes that hang on one condition -/

theorem next_pos {p : Prop} [Decidable p] {a b : State} (h : p) :
    (Host.Outcome.next (if p then a else b) : Host.Outcome State Fault Refusal) = .next a := by
  rw [if_pos h]

theorem next_neg {p : Prop} [Decidable p] {a b : State} (h : ¬p) :
    (Host.Outcome.next (if p then a else b) : Host.Outcome State Fault Refusal) = .next b := by
  rw [if_neg h]

/-- A condition of the form "a fails or b holds" is not met where a holds and b fails. -/
theorem not_or_ne_true {a b : Bool} (ha : a = true) (hb : b = false) : ¬(!a || b) = true := by
  rw [ha, hb]
  exact Bool.false_ne_true

theorem and_eq_true_of {a b : Bool} (ha : a = true) (hb : b = true) : (a && b) = true := by
  rw [ha, hb]
  rfl

theorem not_eq_true_of {a : Bool} (ha : a = false) : (!a) = true := by
  rw [ha]
  rfl

/-! ### Over-range and common mode -/

/-- Settles O1: the trip and the excursion are the open arms of their conditions, the return has none. -/
theorem overRangeTripMarksTheBentAndCounts : Obligations.OverRangeTripMarksTheBentAndCounts := by
  intro s t tn c positive u i
  exact ⟨fun hconv hovr => next_neg (not_or_ne_true hconv hovr),
    fun hconv hcm => next_pos (and_eq_true_of hconv (not_eq_true_of hcm)), rfl⟩

/-- Settles O2: the release of a channel in over-range, and the dwell's end. -/
theorem overRangeReleaseLeavesRecoverySpans : Obligations.OverRangeReleaseLeavesRecoverySpans := by
  intro s t tn c u i hovr
  refine ⟨congrArg Host.Outcome.next ?_, fun hdwell => next_pos (and_eq_true_of hovr (decide_eq_true hdwell))⟩
  exact if_neg (by rw [hovr]; exact Bool.false_ne_true)

/-! ### Settings of a channel -/

/-- A write of RANGE with another value. -/
theorem State.setRange_other {u : State} {t c v : Nat}
    (h : legalValue F.CH_CTRL_RANGE (chIx t c) v ≠ u.rd F.CH_CTRL_RANGE (chIx t c)) :
    let i := chIx t c
    let x := u.chan i
    let a := u.nextAp t c (u.now : Int)
    u.setRange t c v = ((((((u.setChan i { x with
        rangeOld := u.rangeAt t c u.now, rangeFrom := a, quiet := x.quiet ++ [(a, a + rangeSpan)] }).wr
      F.CH_CTRL_RANGE i (legalValue F.CH_CTRL_RANGE i v)).addSpan i
        { src := srcRange, q := 3, start := a, stop := some (a + rangeSpan) }).addSup i gcRange
        { start := a, change := some (a + rangeSpan) }).contAbandon t c).breakGates t (fun g => g.ch == c) 32) :=
  if_neg h

theorem State.setRange_same {u : State} {t c v : Nat}
    (h : legalValue F.CH_CTRL_RANGE (chIx t c) v = u.rd F.CH_CTRL_RANGE (chIx t c)) : u.setRange t c v = u :=
  if_pos h

/-- A write of another THRESH. -/
theorem State.setThresh_other {u : State} {t c : Nat} {th : BitVec 12} {hy : BitVec 6}
    (h : th.toNat ≠ u.rd F.CH_DISC_THRESH (chIx t c)) :
    let i := chIx t c
    let x := u.chan i
    u.setThresh t c th.toNat hy.toNat =
      ((u.setChan i { x with quiet := x.quiet ++ [(u.now, u.now + 163840)], discAt := u.now }).wr F.CH_DISC_THRESH i
        th.toNat).wr F.CH_DISC_HYST i hy.toNat := by
  unfold State.setThresh
  rw [Nat.mod_eq_of_lt th.isLt, Nat.mod_eq_of_lt hy.isLt]
  exact if_neg fun hb => h (of_decide_eq_true (Bool.and_eq_true_iff.mp hb).1)

/-- Settles O3: on a reachable Tenon each command runs its setting's operation. -/
theorem channelSettingsTakeEffect : Obligations.ChannelSettingsTakeEffect := by
  intro s t tn c u i x a hreach
  exact ⟨fun r hr => (next_pos hreach).trans (congrArg Host.Outcome.next (State.setRange_other hr)),
    fun r hr => (next_pos hreach).trans (congrArg Host.Outcome.next (State.setRange_same hr)),
    fun k iepe en => next_pos hreach, next_pos hreach, fun on => next_pos hreach,
    fun th hy hth => (next_pos hreach).trans (congrArg Host.Outcome.next (State.setThresh_other hth))⟩

/-! ### The continuity check and the IEPE bias -/

/-- A reading of the bias where it is measured: the run of readings in its band ends in a live band at three. -/
theorem exec_iepeBiasReading {s : State} {t : Nat} {tn : Fin 6} {c : Fin 128} {bias : BitVec 16} :
    let u := s.at_ t
    let i := chIx tn.val c.val
    let x := u.chan i
    let b := iepeBand bias.toInt
    let run := if x.band = b then min 3 (x.bandRun + 1) else 1
    let outRun := iepeBands.zipWith (fun k n => if k = b then 0 else min 3 (n + 1)) x.outRun
    let v := (iepeBands.zip outRun).foldl
      (fun (v : State) p => if p.2 = 3 then v.iepeLive tn.val c.val p.1 false else v)
      ((u.setChan i { x with band := b, bandRun := run, outRun := outRun }).wr F.CH_MON_IEPE_BIAS i bias.toNat)
    u.converting tn.val c.val = true → u.on F.CH_CTRL_IEPE_EN i = true → u.railsUp tn.val = true →
    exec (.iepeBiasReading t tn c bias) s = .next (if run = 3 && b != 2 then v.iepeLive tn.val c.val b true else v) := by
  intro u i x b run outRun v hconv hen hrails
  refine next_neg ?_
  rw [hconv, hen, hrails]
  exact Bool.false_ne_true

/-- Settles O4: the check's start, its pulse's end, its recovery's end, the settling spans and the bias. -/
theorem continuityCheckMeasures : Obligations.ContinuityCheckMeasures := by
  intro s t tn c u i x
  refine ⟨fun a hready => next_pos hready, fun b hnot => next_neg hnot, fun b hphase hnow => next_pos ⟨hphase, hnow⟩,
    fun hdue => next_pos hdue, fun hnot => next_neg (Nat.not_le.mpr hnot), rfl, ?_⟩
  intro bias hconv hen hrails b run outRun v
  rw [exec_iepeBiasReading hconv hen hrails]
  simp only [Bool.and_eq_true, decide_eq_true_eq, bne_iff_ne] <;> rfl

/-! ### The pulser -/

section

variable {u : State} {t c : Nat}

/-- A fire that is not within 15 µs of the last one. -/
theorem State.firePulser_due (hbent : u.bentOn t (c / 8) = true) (hrails : u.railsUp t = true)
    (hlast : ∀ f, (u.chan (chIx t c)).lastFire = some f → f + 15 * usF ≤ u.now) :
    u.firePulser t c = ((u.setChan (chIx t c) { u.chan (chIx t c) with lastFire := some u.now }).addSpan (chIx t c)
      { src := srcPulse, q := 2, start := u.now, stop := some (u.now + 15 * usF) }).send
        (.pulse t c (u.rd F.CH_PULSER_AMPL (chIx t c)) (u.on F.CH_PULSER_POL (chIx t c))) := by
  have hsoon : (match (u.chan (chIx t c)).lastFire with
      | none => false | some f => decide (u.now < f + 15 * usF)) = false := by
    split
    · rfl
    · next f hf => exact decide_eq_false (Nat.not_lt.mpr (hlast f hf))
  have hgo : ¬((match (u.chan (chIx t c)).lastFire with
      | none => false | some f => decide (u.now < f + 15 * usF)) || !u.bentOn t (c / 8) || !u.railsUp t) = true := by
    rw [hsoon, hbent, hrails]
    exact Bool.false_ne_true
  exact if_neg hgo

/-- A fire within 15 µs of the last one. -/
theorem State.firePulser_soon {f : Nat} (hlast : (u.chan (chIx t c)).lastFire = some f) (hsoon : u.now < f + 15 * usF) :
    u.firePulser t c = u := by
  have hstop : ((match (u.chan (chIx t c)).lastFire with
      | none => false | some f => decide (u.now < f + 15 * usF)) || !u.bentOn t (c / 8) || !u.railsUp t) = true := by
    rw [hlast]
    dsimp only
    rw [decide_eq_true hsoon]
    rfl
  exact if_pos hstop

end

/-- Settles O6: the three ways to fire come to the shared fire, which fires or is too soon. -/
theorem pulserFires : Obligations.PulserFires := by
  intro s t tn c u i fired due hbent hrails
  refine ⟨fun hlast => ?_, fun f hreach hlast hsoon => ?_⟩
  · have hfire : u.firePulser tn.val c.val = fired u := State.firePulser_due hbent hrails hlast
    exact ⟨fun hreach => (next_pos hreach).trans (congrArg Host.Outcome.next hfire),
      fun hmode hperiod => (next_pos ⟨hmode, hperiod⟩).trans (congrArg Host.Outcome.next hfire),
      fun hdue => next_pos hdue⟩
  · exact (next_pos hreach).trans (congrArg Host.Outcome.next (State.firePulser_soon hlast hsoon))

end Sys2Proof.Machine
end

