-- ==== Sys2Proof/Proofs/ScannerPasses.lean ====
section
/-! PROOF. The bent scanner's sequencer and entries (chapter 03): passes, urgent requests, and entries from their start to
their result. -/

namespace Sys2Proof.Machine

open Sys2Proof

/-! ### Passes and urgent requests -/

section

variable {u : State} {tn b : Nat}

/-- A write of SEQ_RUN 1 where the sequencer stands. -/
theorem State.setSeqRun_on (hoff : u.on F.BENT_CTRL_SEQ_RUN (bentIx tn b) = false) :
    u.setSeqRun tn b true = if (u.wr F.BENT_CTRL_SEQ_RUN (bentIx tn b) 1).seqMay (bentIx tn b) then
      (u.wr F.BENT_CTRL_SEQ_RUN (bentIx tn b) 1).seqStart (bentIx tn b) else u.wr F.BENT_CTRL_SEQ_RUN (bentIx tn b) 1 :=
  if_neg (by rw [hoff]; exact Bool.false_ne_true.symm)

/-- A write of SEQ_RUN 0 where it runs. -/
theorem State.setSeqRun_off (hon : u.on F.BENT_CTRL_SEQ_RUN (bentIx tn b) = true) :
    u.setSeqRun tn b false = (u.wr F.BENT_CTRL_SEQ_RUN (bentIx tn b) 0).seqStop (bentIx tn b) :=
  if_neg (by rw [hon]; exact Bool.false_ne_true)

/-- An urgent request to a scanner that owns the driver and is idle. -/
theorem State.urgentReq_idle (huser : (u.bent (bentIx tn b)).user = 1) (hentry : (u.bent (bentIx tn b)).entry = none)
    (hurgent : (u.bent (bentIx tn b)).urgent = none) (hpass : (u.bent (bentIx tn b)).passOn = false) :
    u.urgentReq tn b = u.setBent (bentIx tn b)
      { u.bent (bentIx tn b) with urgent := some (u.rd F.BENT_URGENT_ENTRY (bentIx tn b)) } :=
  if_pos (by rw [huser, hentry, hurgent, hpass]; rfl)

/-- An urgent request otherwise counts as dropped. -/
theorem State.urgentReq_busy (h : (u.bent (bentIx tn b)).user ≠ 1 ∨ (u.bent (bentIx tn b)).entry.isSome = true ∨
      (u.bent (bentIx tn b)).urgent.isSome = true ∨ (u.bent (bentIx tn b)).passOn = true) :
    u.urgentReq tn b =
      (u.countUp F.BENT_COUNT_URGENT_DROPS (bentIx tn b) 1 65535).bentStick tn b F.BENT_STATUS_URGENT_DROP 4 := by
  refine if_neg fun hidle => ?_
  simp only [Bool.and_eq_true, decide_eq_true_eq, Option.isNone_iff_eq_none, Bool.not_eq_true'] at hidle
  obtain ⟨⟨⟨huser, hentry⟩, hurgent⟩, hpass⟩ := hidle
  rw [hentry, hurgent, hpass] at h
  simp [huser] at h

end

section

variable {s : State} {t : Nat} {tn : Fin 6} {b : Fin 16}
  (hon : ((s.at_ t).bent (bentIx tn.val b.val)).seqOn = true) (hstart : (s.at_ t).startInstant tn.val b.val = true)
  (hbent : (s.at_ t).bentOn tn.val b.val = true) (hvex : ((s.at_ t).tenon tn.val).vexLow = false)

include hon hstart hbent hvex

/-- A start instant of an idle scanner starts the pass, and with an urgent request marks it missed. -/
theorem exec_passStart_idle (hpass : ((s.at_ t).bent (bentIx tn.val b.val)).passOn = false)
    (hentry : ((s.at_ t).bent (bentIx tn.val b.val)).entry = none) :
    let u := s.at_ t
    let i := bentIx tn.val b.val
    let x := u.bent i
    exec (.passStart t tn b) s = .next (if x.urgent.isSome then u.setBent i { x with missed := true, guard := false }
      else u.setBent i { x with passOn := true, next := 0, passes := x.passes + 1, guard := false }) := by
  show execPassStart t tn b s = _
  simp only [execPassStart, hon, hstart, hbent, hvex, hpass, hentry, Bool.not_true, Bool.or_false, Bool.false_eq_true,
    if_false]

/-- A start instant within a pass counts the skip where passes have a period. -/
theorem exec_passStart_busy (hpass : ((s.at_ t).bent (bentIx tn.val b.val)).passOn = true) :
    let u := s.at_ t
    let i := bentIx tn.val b.val
    exec (.passStart t tn b) s = .next (if u.rd F.BENT_PASS_PASS_PERIOD i = 0 then u
      else ((u.setBent i { u.bent i with guard := false }).countUp F.BENT_COUNT_PASS_SKIPS i 1 32767).bentStick tn.val b.val
        F.BENT_STATUS_PASS_SKIP 5) := by
  show execPassStart t tn b s = _
  simp only [execPassStart, hon, hstart, hbent, hvex, hpass, Bool.not_true, Bool.or_false, Bool.false_eq_true, if_false,
    Bool.true_or, if_true]

end

/-- Settles O7: the sequencer's start and stop, the start instants, urgent requests, and USE. -/
theorem scannerPassesStartAndStop : Obligations.ScannerPassesStartAndStop := by
  intro s t tn b u i x
  refine ⟨fun hreach hoff hmay => ?_, fun hreach hoff hmay => ?_, fun hreach hon => ?_, ?passes, fun hreach => ⟨?_, ?_⟩,
    fun hreach v => next_pos hreach⟩
  · exact (next_pos hreach).trans
      (congrArg Host.Outcome.next ((State.setSeqRun_on hoff).trans (if_neg (ne_true_of_eq_false hmay))))
  · exact (next_pos hreach).trans (congrArg Host.Outcome.next ((State.setSeqRun_on hoff).trans (if_pos hmay)))
  · exact (next_pos hreach).trans (congrArg Host.Outcome.next (State.setSeqRun_off hon))
  case passes =>
    intro hon hstart hbent hvex
    refine ⟨fun hpass hentry hurgent => ?_, fun hpass hentry hurgent => ?_, fun hpass hper => ?_, fun hpass hper => ?_⟩
    · exact (exec_passStart_idle hon hstart hbent hvex hpass hentry).trans
        (next_neg (by rw [Option.isSome_eq_false_iff.mpr (Option.isNone_iff_eq_none.mpr hurgent)]; exact Bool.false_ne_true))
    · exact (exec_passStart_idle hon hstart hbent hvex hpass hentry).trans (next_pos hurgent)
    · exact (exec_passStart_busy hon hstart hbent hvex hpass).trans (next_pos hper)
    · exact (exec_passStart_busy hon hstart hbent hvex hpass).trans (next_neg hper)
  · exact fun huser hentry hurgent hpass =>
      (next_pos hreach).trans (congrArg Host.Outcome.next (State.urgentReq_idle huser hentry hurgent hpass))
  · exact fun hbusy => (next_pos hreach).trans (congrArg Host.Outcome.next (State.urgentReq_busy hbusy))

/-! ### Entries -/

section

variable {s : State} {t : Nat} {tn : Fin 6} {b : Fin 16}

/-- A scanner that may start an entry takes the urgent one first, then the next of its pass. -/
theorem exec_entryStart_free (hbent : (s.at_ t).bentOn tn.val b.val = true)
    (huser : ((s.at_ t).bent (bentIx tn.val b.val)).user = 1) (hentry : ((s.at_ t).bent (bentIx tn.val b.val)).entry = none)
    (hroom : ((s.at_ t).stream (scanSid tn.val b.val)).cur = none)
    (hsrc : (s.at_ t).on F.BENT_CAL_SRC_EN (bentIx tn.val b.val) = false)
    (hguard : ((s.at_ t).bent (bentIx tn.val b.val)).guard = false)
    (hramp : ((s.at_ t).bent (bentIx tn.val b.val)).useRamp = none) :
    let u := s.at_ t
    let x := u.bent (bentIx tn.val b.val)
    (∀ e, x.urgent = some e → exec (.entryStart t tn b) s = .next (u.entryStart tn.val b.val e true)) ∧
    (x.urgent = none → x.seqOn = true → x.passOn = true → x.next ≤ u.rd F.BENT_CTRL_SEQ_LEN_M1 (bentIx tn.val b.val) →
      exec (.entryStart t tn b) s = .next (u.entryStart tn.val b.val x.next false)) := by
  refine ⟨fun e hurgent => ?_, fun hurgent hon hpass hnext => ?_⟩
  all_goals
    show execEntryStart t tn b s = _
    simp only [execEntryStart, hbent, huser, hentry, hroom, hsrc, hguard, hramp, hurgent]
  · rfl
  · exact next_pos (and_eq_true_of (and_eq_true_of hon hpass) (decide_eq_true hnext))

variable {e : EntryRun} (hentry : ((s.at_ t).bent (bentIx tn.val b.val)).entry = some e)

include hentry

/-- At the connect instant an entry that is not shorted is connected. -/
theorem exec_entryConnect_of_entry (hphase : e.phase = .connect) (hat : e.connectAt ≤ (s.at_ t).now)
    (hbent : (s.at_ t).bentOn tn.val b.val = true)
    (hshort : e.prof.wave = 0 ∨ (s.at_ t).on F.BENT_STATUS_EXC_SHORT_NOW (bentIx tn.val b.val) = false) :
    let u := s.at_ t
    let i := bentIx tn.val b.val
    let x := u.driver tn.val b.val
    exec (.entryConnect t tn b) s = .next (if e.mode = 5 then
        (u.addSpan (chIx tn.val (8 * b.val + e.input)) { src := srcExc, q := 2, start := u.now, stop := none }).setBent i
          { x with entry := some { e with phase := .drive, excEnd := u.driveEnd e.prof } }
      else
        let v := if e.mode = 0 ∧ e.input = 12 then u.busMask tn.val b.val true else u
        v.setBent i { x with entry := some (v.sampling i e .sample) }) := by
  have hgo : (e.prof.wave ≠ 0 && (s.at_ t).on F.BENT_STATUS_EXC_SHORT_NOW (bentIx tn.val b.val)) = false := by
    rcases hshort with hwave | hoff
    · simp [hwave]
    · rw [hoff, Bool.and_false]
  show execEntryConnect t tn b s = _
  simp only [execEntryConnect, hentry, hphase, Nat.not_lt.mpr hat, hbent, hgo, ne_eq, not_true, decide_false, Bool.not_true,
    Bool.or_false, Bool.false_eq_true, if_false] <;> rfl

theorem exec_polarityReversal_of_entry (hphase : e.phase = .sample) (hwave : e.prof.wave = 2)
    (hend : e.sampTo ≤ (s.at_ t).now) :
    let u := s.at_ t
    let i := bentIx tn.val b.val
    exec (.polarityReversal t tn b) s =
      .next (u.setBent i { u.bent i with entry := some (u.sampling i { e with plus := e.acc } .second) }) := by
  show execPolarityReversal t tn b s = _
  simp only [execPolarityReversal, hentry]
  refine next_pos ?_
  rw [decide_eq_true hphase, hwave, decide_eq_true hend]
  rfl

/-- A demodulation period of a voltage entry without excitation flags a sample beyond the range and is taken in. -/
theorem exec_demodPeriodEnd_voltage (hphase : e.phase = .sample) (hmode : e.mode = 0) (hwave : e.prof.wave = 0)
    {xs : List Int} {ph : List Nat} {cur : Int} {dp dn : Nat} {rev : Bool} :
    let u := s.at_ t
    let i := bentIx tn.val b.val
    let flagged : EntryRun := { e with flags := e.flags ||| (if xs.any scanOver then sfOvr else 0) }
    exec (.demodPeriodEnd t tn b xs ph cur dp dn rev) s = .next (u.setBent i { u.bent i with
      entry := some (flagged.period u.now xs.length (demodulate false ((xs.map (u.scanValue i e.gain)).zip ph))
        (rhu (cur * (u.rd F.IMON_GAIN_CAL i : Int)) 30)) }) := by
  show execDemodPeriodEnd t tn b xs ph cur dp dn rev s = _
  simp only [execDemodPeriodEnd, hentry, hphase, hwave, hmode, EntryRun.sixWire]
  simp

/-- The end of sampling of an entry with a value, of no drift record and with no flag to add. -/
theorem exec_entrySamplingEnd_of_value {v : Int × Int}
    (hends : (e.phase = .sample ∧ e.prof.wave ≠ 2) ∨ e.phase = .second) (hdue : e.sampTo ≤ (s.at_ t).now)
    (hvalue : (s.at_ t).entryValue (bentIx tn.val b.val) e = some v) (hdrift : ¬(e.mode = 0 ∧ e.input = 12))
    (hrev : e.mode = 6 → 0 ≤ v.1)
    (hopen : e.mode = 0 → e.input ≤ 7 → ((s.at_ t).chan (chIx tn.val (8 * b.val + e.input))).openNow = false)
    (hlead : (s.at_ t).leadHigh (bentIx tn.val b.val) e = false) :
    let u := s.at_ t
    exec (.entrySamplingEnd t tn b) s = .next
      ((u.scanResult tn.val b.val e v.1 v.2 ((u.leadUsed (bentIx tn.val b.val) e : Nat) : Int)
        (rhu (u.plumbOfTenon tn.val (e.weighFrom : Int) + u.plumbOfTenon tn.val (e.sampTo : Int)) 1)).entryEnd
          tn.val b.val) := by
  have hends' : (e.phase == .sample && e.prof.wave != 2 || e.phase == .second) = true := by
    rcases hends with ⟨hphase, hwave⟩ | hphase
    · simp [hphase, hwave]
    · simp [hphase]
  have hopen' : (e.mode == 0 && decide (e.input ≤ 7)
      && ((s.at_ t).chan (chIx tn.val (8 * b.val + e.input))).openNow) = false := by
    by_cases hch : e.mode = 0 ∧ e.input ≤ 7
    · rw [hopen hch.1 hch.2, Bool.and_false]
    · simp only [Bool.and_eq_false_iff, beq_eq_false_iff_ne, decide_eq_false_iff_not]
      exact .inl (by omega)
  have hrev' : ¬(e.mode = 6 ∧ v.1 < 0) := fun ⟨hmode, hneg⟩ => absurd (hrev hmode) (Int.not_le.mpr hneg)
  show execEntrySamplingEnd t tn b s = _
  simp only [execEntrySamplingEnd, hentry, hends', Nat.not_lt.mpr hdue, hvalue, hopen', hrev', hlead, hdrift, decide_false,
    Bool.not_true, Bool.or_false, Bool.false_eq_true, if_false, Nat.or_zero]

theorem exec_vwListenEnd_of_entry (hphase : e.phase = .listen) (hdue : e.excEnd + e.listen * msF ≤ (s.at_ t).now) {amp : Int} :
    let u := s.at_ t
    exec (.vwListenEnd t tn b amp) s = .next
      ((u.scanResult tn.val b.val e (divHalfUp amp 10000) (e.regUnit : Int) 0
        (u.plumbOfTenon tn.val (e.excEnd : Int) + ((e.listen * msF / 2 : Nat) : Int))).entryEnd tn.val b.val) := by
  show execVwListenEnd t tn b amp s = _
  simp only [execVwListenEnd, hentry]
  refine next_neg ?_
  rw [hphase, decide_eq_false (Nat.not_lt.mpr hdue)]
  decide

end

/-- What a period gives an entry without notches inside its sampling time. -/
theorem EntryRun.period_inside {e : EntryRun} {now n : Nat} {v : Int × Int} {cur : Int} (hstages : e.stages = [])
    (hfill : e.fillFrom < now) (hfrom : e.sampFrom < now) (hto : now ≤ e.sampTo) :
    e.period now n v cur = { e with
      stages := [], dec := (e.dec + n) % 50
      acc := { n := e.acc.n + 1, i := e.acc.i + v.1, q := e.acc.q + v.2, m := e.acc.m + 1, cur := e.acc.cur + cur } } := by
  have hin : ¬(now ≤ e.fillFrom ∨ e.sampTo < now) := by omega
  simp [EntryRun.period, hin, hstages, hfrom, EntryRun.notched, notchPush]

theorem EntryRun.period_outside {e : EntryRun} {now n : Nat} {v : Int × Int} {cur : Int}
    (h : now ≤ e.fillFrom ∨ e.sampTo < now) : e.period now n v cur = e :=
  if_pos h

/-- Settles O8: the six events of an entry. -/
theorem entryRunsFromStartToResult : Obligations.EntryRunsFromStartToResult := by
  intro s t tn b u i x
  refine ⟨exec_entryStart_free, fun e hentry hphase hat hbent hshort => ⟨fun hmode hdrift => ?_, fun hmode => ?_⟩,
    fun e => exec_polarityReversal_of_entry, ?demod, fun e v hentry => exec_entrySamplingEnd_of_value hentry,
    fun e amp hentry hphase hdue => exec_vwListenEnd_of_entry hentry hphase hdue⟩
  · rw [exec_entryConnect_of_entry hentry hphase hat hbent hshort, if_neg hmode]
    dsimp only
    rw [if_neg hdrift]
  · rw [exec_entryConnect_of_entry hentry hphase hat hbent hshort, if_pos hmode]
  case demod =>
    intro e xs ph cur dp dn rev hentry hphase hmode hwave v fl
    have hper := exec_demodPeriodEnd_voltage hentry hphase hmode hwave (xs := xs) (ph := ph) (cur := cur) (dp := dp)
      (dn := dn) (rev := rev)
    refine ⟨fun hstages hfill hfrom hto => hper.trans ?_, fun hout => hper.trans ?_⟩
    · exact congrArg (fun y => Host.Outcome.next (u.setBent i { x with entry := some y }))
        (EntryRun.period_inside (e := { e with flags := fl }) hstages hfill hfrom hto)
    · exact congrArg (fun y => Host.Outcome.next (u.setBent i { x with entry := some y }))
        (EntryRun.period_outside (e := { e with flags := fl }) hout)

end Sys2Proof.Machine
end

