-- ==== Sys2Proof/Proofs/Excitation.lean ====
section
/-! PROOF. The supervision of the excitation (chapter 03): lead steps, limits, shutdowns, retries, ramps and guard times. -/

namespace Sys2Proof.Machine

open Sys2Proof

section

variable {s : State} {t : Nat} {tn : Fin 6} {b : Fin 16}

section

variable {e : EntryRun} {le : Nat} (hentry : ((s.at_ t).bent (bentIx tn.val b.val)).entry = some e)
  (hlead : e.leadEnd = some le) (hdue : le ≤ (s.at_ t).now) (hphase : e.phase = .connect)
  (hfirst : e.flags &&& sfLeadMeas = 0) (hwires : e.sixWire = false)

include hentry hlead hdue hphase hfirst hwires

/-- The end of a lead step of a measurement without sense wires: half the loop is written, or the loop is open. -/
theorem exec_leadStepEnd_of_entry {p n : Nat} :
    let u := s.at_ t
    let i := bentIx tn.val b.val
    let fl := e.flags ||| sfLeadMeas
    let v := u.wr F.LEAD_LEAD_N (i * 8 + e.input) ((n + 1) / 2)
    exec (.leadStepEnd t tn b p n) s = .next (if 1250000 < n then u.entryFail tn.val b.val { e with flags := fl } sfOpen
      else v.setBent i { v.bent i with entry := some { e with
        flags := if v.rd F.BENT_LEADMAX_LEAD_MAX i < (n + 1) / 2 then fl ||| sfLeadHigh else fl } }) := by
  have hwires' : (e.mode == 1 && bitAt e.sub 2 || e.mode == 2 && e.prof.sense) = false := hwires
  show execLeadStepEnd t tn b p n s = _
  simp only [execLeadStepEnd, EntryRun.sixWire, hentry, hlead, Nat.not_lt.mpr hdue, hphase, hfirst, hwires', ne_eq, not_true,
    decide_false, Bool.or_false, Bool.false_and, Bool.false_eq_true, if_false, decide_eq_true_eq]

end

/-- A limit of the current within the sampling time of an entry flags it; a slice does not have the driver. -/
theorem exec_excCurrentLimit_of_entry {e : EntryRun} (hentry : ((s.at_ t).bent (bentIx tn.val b.val)).entry = some e)
    (huser : ((s.at_ t).bent (bentIx tn.val b.val)).user = 1) (hphase : e.phase = .sample)
    (hfrom : e.sampFrom ≤ (s.at_ t).now) (hto : (s.at_ t).now ≤ e.sampTo) :
    let u := s.at_ t
    let i := bentIx tn.val b.val
    exec (.excCurrentLimit t tn b) s =
      .next (u.setBent i { u.bent i with entry := some { e with flags := e.flags ||| sfExcLimit } }) := by
  have hloop : (s.at_ t).loopLimited (bentIx tn.val b.val) = s.at_ t := if_neg (by rw [huser]; decide)
  show execExcCurrentLimit t tn b s = _
  simp only [execExcCurrentLimit, hloop, hentry]
  exact next_pos ⟨.inl hphase, hfrom, hto⟩

/-- A retry a second after the shutdown. -/
theorem exec_excRetry_due {shorted : Bool} (hshort : (s.at_ t).on F.BENT_STATUS_EXC_SHORT_NOW (bentIx tn.val b.val) = true)
    (hdue : ((s.at_ t).bent (bentIx tn.val b.val)).shutAt + secF ≤ (s.at_ t).now) :
    let u := s.at_ t
    let i := bentIx tn.val b.val
    let v := u.setBent i { u.bent i with shutAt := u.now }
    exec (.excRetry t tn b shorted) s =
      .next (if shorted then v else (v.loopLimited i).wr F.BENT_STATUS_EXC_SHORT_NOW i 0) :=
  next_pos (and_eq_true_of hshort (decide_eq_true hdue))

/-- A change of user that ramps to its end instant. -/
theorem exec_excitationRampEnd_ramp {a e : Nat}
    (hramp : ((s.at_ t).bent (bentIx tn.val b.val)).useRamp = some (a, some e)) :
    let u := s.at_ t
    let i := bentIx tn.val b.val
    exec (.excitationRampEnd t tn b) s = .next (if u.now < e then u else u.useTake i (u.rd F.BENT_CTRL_USE i)) := by
  show execExcitationRampEnd t tn b s = _
  simp only [execExcitationRampEnd, hramp, decide_eq_true_eq]

/-- A change of user that waits for a slice to stop. -/
theorem exec_excitationRampEnd_waits {a : Nat}
    (hramp : ((s.at_ t).bent (bentIx tn.val b.val)).useRamp = some (a, none)) :
    exec (.excitationRampEnd t tn b) s = .next (s.at_ t) := by
  show execExcitationRampEnd t tn b s = _
  simp only [execExcitationRampEnd, hramp, if_true]

end

/-- Settles O9: the lead step, the current limit, the shutdown and its retry, the change of user, and the guard time. -/
theorem excitationIsSupervised : Obligations.ExcitationIsSupervised := by
  intro s t tn b u i x
  refine ⟨fun e le p n hentry hlead hdue hphase hfirst hwires => ⟨fun hn => ?_, fun hn => ?_⟩,
    fun e hentry huser hphase hfrom hto => exec_excCurrentLimit_of_entry hentry huser hphase hfrom hto,
    fun hbent hoff => next_neg (not_or_ne_true hbent hoff),
    fun hshort hdue => ⟨exec_excRetry_due hshort hdue, exec_excRetry_due hshort hdue⟩,
    fun a e hramp => ⟨fun hdue => (exec_excitationRampEnd_ramp hramp).trans (next_neg (Nat.not_lt.mpr hdue)),
      fun hnot => (exec_excitationRampEnd_ramp hramp).trans (next_pos hnot)⟩,
    fun a hramp => exec_excitationRampEnd_waits hramp, ?guard⟩
  · exact (exec_leadStepEnd_of_entry hentry hlead hdue hphase hfirst hwires).trans (next_neg (Nat.not_lt.mpr hn))
  · exact (exec_leadStepEnd_of_entry hentry hlead hdue hphase hfirst hwires).trans (next_pos hn)
  case guard =>
    intro per now hen hsolo hper hslot hguard
    exact next_pos (and_eq_true_of (and_eq_true_of (and_eq_true_of (and_eq_true_of hen (not_eq_true_of hsolo))
      (bne_iff_ne.mpr hper)) (beq_iff_eq.mpr hslot)) (decide_eq_true hguard))

end Sys2Proof.Machine
end

