-- ==== Sys2Proof/Proofs/ChainsAndTriggers.lean ====
section
/-! PROOF. The decimation chains' settings and alignment (chapter 04), and the triggers of the capture engine (chapter 05). -/

namespace Sys2Proof.Machine

open Sys2Proof

/-- A command that runs an operation on a reachable Tenon, where the operation's result is known. -/
theorem next_reached {p : Prop} [Decidable p] {a b v : State} (h : p) (hv : a = v) :
    (Host.Outcome.next (if p then a else b) : Host.Outcome State Fault Refusal) = .next v := by
  rw [if_pos h, hv]

/-- A fold whose every step leaves its start unchanged. -/
theorem foldl_fixed {α σ : Type} {f : σ → α → σ} {v : σ} {l : List α} (h : ∀ x ∈ l, f v x = v) :
    l.foldl f v = v := by
  induction l with
  | nil => rfl
  | cons x l ih => rw [List.foldl_cons, h x List.mem_cons_self, ih fun y hy => h y (List.mem_cons_of_mem _ hy)]

/-! ### Settings of a chain -/

section

variable {u : State} {i : Nat}

/-- The DC block switched on while the chain runs starts alone. -/
theorem State.setDcbEn_on (hoff : u.on F.DEC_CTRL_DCB_EN i = false)
    (hdec : (u.wr F.DEC_CTRL_DCB_EN i 1).on F.DEC_CTRL_DEC_EN i = true) :
    u.setDcbEn i true = (u.wr F.DEC_CTRL_DCB_EN i 1).dcbAlone i :=
  (if_neg (by rw [hoff]; exact Bool.false_ne_true.symm)).trans (if_pos hdec)

/-- The DC block switched off forgets its estimate and acquisition. -/
theorem State.setDcbEn_off (hon : u.on F.DEC_CTRL_DCB_EN i = true) :
    u.setDcbEn i false = (u.wr F.DEC_CTRL_DCB_EN i 0).setChain i
      { u.chain i with m := 0, acqSkip := 0, acqLeft := 0, acqSum := 0 } :=
  if_neg (by rw [hon]; exact Bool.false_ne_true)

theorem State.setDcbFreeze_on (hoff : u.on F.DEC_CTRL_DCB_FREEZE i = false) :
    u.setDcbFreeze i true = u.wr F.DEC_CTRL_DCB_FREEZE i 1 :=
  if_neg (by rw [hoff]; exact Bool.false_ne_true.symm)

/-- The end of a freeze starts the DC block alone where it and the chain are on. -/
theorem State.setDcbFreeze_off (hon : u.on F.DEC_CTRL_DCB_FREEZE i = true)
    (hdcb : (u.wr F.DEC_CTRL_DCB_FREEZE i 0).on F.DEC_CTRL_DCB_EN i = true)
    (hdec : (u.wr F.DEC_CTRL_DCB_FREEZE i 0).on F.DEC_CTRL_DEC_EN i = true) :
    u.setDcbFreeze i false = (u.wr F.DEC_CTRL_DCB_FREEZE i 0).dcbAlone i :=
  (if_neg (by rw [hon]; exact Bool.false_ne_true)).trans (if_pos (and_eq_true_of hdcb hdec))

/-- DEC_EN written with 0 ends the chain's stream. -/
theorem State.decWrite_decEn_zero {t c : Nat} (hon : u.rd F.DEC_CTRL_DEC_EN (chIx t c) ≠ 0) :
    u.decWrite t c .decEn 0 = (u.wr F.DEC_CTRL_DEC_EN (chIx t c) 0).decOff t c := by
  have hlegal : legalValue F.DEC_CTRL_DEC_EN (chIx t c) 0 = 0 := rfl
  simp only [State.decWrite, decFld, hlegal, hon, reduceCtorEq, decide_false, Bool.false_and, Bool.false_eq_true, if_false,
    decide_true, Bool.and_true, if_true]

/-- The commit of a user set that no chain selects only stores it. -/
theorem State.ufCommit_unselected {t n : Nat}
    (h : ∀ k, k < 128 →
      ({ u with userSets := smapSet {} u.userSets (4 * t + n) (u.shadowSet t n) } : State).rd F.DEC_CTRL_FIR_SET (chIx t k)
        ≠ 16 + n) :
    u.ufCommit t n = { u with userSets := smapSet {} u.userSets (4 * t + n) (u.shadowSet t n) } := by
  unfold State.ufCommit
  exact foldl_fixed fun k hk => if_neg (h k (List.mem_range.mp hk))

end

/-- Settles O10: on a reachable Tenon each write is its shared operation. -/
theorem chainSettingsRestartTheChain : Obligations.ChainSettingsRestartTheChain := by
  intro s t tn c u i hreach
  exact ⟨fun hoff hdec => next_reached hreach (State.setDcbEn_on hoff hdec),
    fun hon => next_reached hreach (State.setDcbEn_off hon),
    fun hoff => next_reached hreach (State.setDcbFreeze_on hoff),
    fun hon hdcb hdec => next_reached hreach (State.setDcbFreeze_off hon hdcb hdec),
    fun hon => next_reached hreach (State.decWrite_decEn_zero hon), fun f v => next_pos hreach,
    fun set h => next_reached hreach (State.ufCommit_unselected h), fun b off x => next_pos hreach,
    fun b k neg x => next_pos hreach⟩

/-! ### Alignment -/

/-- Where SYNC_N acts, a low time from 20 ns on schedules an alignment, one from 20 to 100 ns only as its free bit says. -/
theorem exec_syncNEdge_acts {s : State} {t ns : Nat} (hboot : (s.at_ t).mode ≠ mBoot) (hoff : (s.at_ t).mode ≠ 0) :
    let u := s.at_ t
    let sec := ((u.plumbNow + (msF : Int) + (secF : Int) - 1) / (secF : Int) % 2 ^ 40).toNat
    exec (.syncNEdge t ns) s = .next (if ns < 20 then u else if 100 ≤ ns then u.scheduleSync sec
      else if Config.freeBits 1 u.free % 2 = 1 then { u with free := u.free + 1 }.scheduleSync sec
      else { u with free := u.free + 1 }) := by
  have hacts : ((s.at_ t).mode != mBoot && (s.at_ t).mode != 0) = true :=
    and_eq_true_of (bne_iff_ne.mpr hboot) (bne_iff_ne.mpr hoff)
  show execSyncNEdge t ns s = _
  simp only [execSyncNEdge, hacts, Bool.not_true, Bool.false_or, decide_eq_true_eq]

/-- Settles O11: the low times of SYNC_N, the sync command in time, and the alignment of an acquiring Tenon. -/
theorem alignmentAtTheSecond : Obligations.AlignmentAtTheSecond := by
  intro s t u sec
  refine ⟨fun ns hboot hoff => ⟨fun hlong => ?_, fun hshort => ?_, fun hlow hhigh => ?_⟩,
    fun x hx => congrArg (fun p : Bool × State => Host.Outcome.next p.2) (if_pos hx),
    fun tn hacq => ?_⟩
  · rw [exec_syncNEdge_acts hboot hoff, if_neg (by omega), if_pos hlong]
  · rw [exec_syncNEdge_acts hboot hoff, if_pos hshort]
  · rw [exec_syncNEdge_acts hboot hoff, if_neg (by omega), if_neg (by omega)]
    by_cases hfree : Config.freeBits 1 u.free % 2 = 1
    · exact .inl (next_pos hfree)
    · exact .inr (next_neg hfree)
  · intro due
    exact next_neg (by rw [hacq]; exact Bool.false_ne_true)

/-! ### Triggers -/

section

variable {s : State} {t : Nat} {tn : Fin 6} {c : Fin 128}

theorem exec_crossTrigger_nothing (hnone : ((s.at_ t).cap (chIx tn.val c.val)).xtPend = []) :
    exec (.crossTrigger t tn c) s = .next (s.at_ t) := by
  show execCrossTrigger t tn c s = _
  simp only [execCrossTrigger, hnone]

/-- The oldest cross-trigger is taken off the channel's list, and used where SRC_BENT is 1. -/
theorem exec_crossTrigger_oldest {x : Int} {rest : List Int}
    (hsome : ((s.at_ t).cap (chIx tn.val c.val)).xtPend = x :: rest) :
    let u := s.at_ t
    let i := chIx tn.val c.val
    let v := u.setCap i { u.cap i with xtPend := rest }
    exec (.crossTrigger t tn c) s = .next (if u.on F.CAP_CTRL_SRC_BENT i then
      (if (v.timedTrig tn.val c.val x).1 then (v.timedTrig tn.val c.val x).2.refuseTrig tn.val c.val false
       else (v.timedTrig tn.val c.val x).2) else v) := by
  show execCrossTrigger t tn c s = _
  cases hsrc : (s.at_ t).on F.CAP_CTRL_SRC_BENT (chIx tn.val c.val)
  all_goals
    have hsrc' : ((s.at_ t).setCap (chIx tn.val c.val) { (s.at_ t).cap (chIx tn.val c.val) with xtPend := rest }).on
      F.CAP_CTRL_SRC_BENT (chIx tn.val c.val) = _ := hsrc
    simp only [execCrossTrigger, hsome, hsrc', Bool.not_true, Bool.not_false, Bool.false_eq_true, if_true, if_false]

end

/-- Settles O12: the cross-trigger's list, and the other triggers' conditions. -/
theorem triggersReachTheCapture : Obligations.TriggersReachTheCapture := by
  intro s t tn c u i k
  refine ⟨exec_crossTrigger_nothing, fun x rest hsome => ⟨fun hoff => ?_, fun hon => ?_⟩, fun x => rfl,
    fun hreach => next_pos hreach, fun hstate hcur hrearm => next_pos ?_,
    fun p a hreach => ⟨fun hmode => next_pos (and_eq_true_of hreach (beq_iff_eq.mpr hmode)),
      fun hmode => next_neg fun h => hmode (beq_iff_eq.mp (Bool.and_eq_true_iff.mp h).2)⟩⟩
  · exact (exec_crossTrigger_oldest hsome).trans (next_neg (ne_true_of_eq_false hoff))
  · exact (exec_crossTrigger_oldest hsome).trans (next_pos hon)
  · exact and_eq_true_of (and_eq_true_of (decide_eq_true hstate) (Option.isNone_iff_eq_none.mpr hcur))
      (decide_eq_true hrearm)

end Sys2Proof.Machine
end

