-- ==== Sys2Proof/Proofs/Stamps.lean ====
section
/-! PROOF. The stamping of edges (chapter 06): edges and their verniers, calibration runs, the release of stamps, and the
interval units. -/

namespace Sys2Proof.Machine

open Sys2Proof

section

variable {s : State} {t : Nat} {tn : Fin 6} {c : Fin 128}

/-! ### Edges -/

/-- The stamp that an edge opens, of polarity fall and phase code ph. -/
def State.edgeStamp (u : State) (tn c : Nat) (fall : Bool) (ph : Nat) (vern : Bool) : Stamp :=
  let i := chIx tn c
  let x := u.stampUnit i
  { tick := u.now / tickF, pol := b2n fall, phase := tabEntry x.phTab 32 ph, vern := vern, code := none
    off := (u.tenon tn).off, dly := u.rd F.ST_DLY_DISC_DLY (i * 5 + u.rangeAt tn c u.now)
    coarse := u.vernOn i && !vern, pileup := x.pileup, stalePh := u.stale tn x.phAt
    staleVn := false, epoch := u.rd F.ST_EPOCH_EPOCH tn }

section

variable {fall : Bool} {ph : Fin 32} {arm : Nat} (hallowed : (s.at_ t).edgeAllowed tn.val c.val arm = true)
  (hrise : ¬((s.at_ t).rd F.CH_DISC_DISC_EDGE (chIx tn.val c.val) = 0 ∧ fall = true))
  (hfall : ¬((s.at_ t).rd F.CH_DISC_DISC_EDGE (chIx tn.val c.val) = 1 ∧ fall = false))

include hallowed hrise hfall

/-- The settings, the arming and the selection take the edge. -/
theorem edge_taken : (!(s.at_ t).edgeAllowed tn.val c.val arm
    || ((s.at_ t).rd F.CH_DISC_DISC_EDGE (chIx tn.val c.val) = 0 && fall)
    || ((s.at_ t).rd F.CH_DISC_DISC_EDGE (chIx tn.val c.val) = 1 && !fall)) = false := by
  rw [hallowed, Bool.eq_false_iff]
  intro h
  simp only [Bool.not_true, Bool.false_or, Bool.or_eq_true, Bool.and_eq_true, decide_eq_true_eq, Bool.not_eq_true'] at h
  exact h.elim hrise hfall

/-- An edge within five TCLK periods of the last one counts as dead. -/
theorem exec_discriminatorEdge_dead {e : Nat} (hlast : ((s.at_ t).stampUnit (chIx tn.val c.val)).lastEdge = some e)
    (hdead : (s.at_ t).now < e + 5 * tickF) :
    let u := s.at_ t
    let i := chIx tn.val c.val
    exec (.discriminatorEdge t tn c fall (ph, arm)) s =
      .next ((u.setStampUnit i { u.stampUnit i with pileup := true }).countUp F.ST_COUNT_DEAD i 1 65535) := by
  show execDiscriminatorEdge t tn c fall (ph, arm) s = _
  simp only [execDiscriminatorEdge, edge_taken hallowed hrise hfall, hlast, hdead, decide_true, Bool.false_eq_true, if_false,
    if_true]

/-- Any other edge becomes the last one and opens a stamp, which takes the vernier where it is free. -/
theorem exec_discriminatorEdge_stamped
    (hlive : ∀ e, ((s.at_ t).stampUnit (chIx tn.val c.val)).lastEdge = some e → e + 5 * tickF ≤ (s.at_ t).now) :
    let u := s.at_ t
    let i := chIx tn.val c.val
    let x := u.stampUnit i
    let vern := u.vernOn i && decide (x.vernBusy ≤ u.now)
    exec (.discriminatorEdge t tn c fall (ph, arm)) s = .next (u.setStampUnit i { x with
      lastEdge := some u.now, pileup := false, vernBusy := if vern then u.now + 640 * tickF else x.vernBusy
      flight := x.flight ++ [u.edgeStamp tn.val c.val fall ph.val vern] }) := by
  show execDiscriminatorEdge t tn c fall (ph, arm) s = _
  unfold execDiscriminatorEdge
  refine (next_neg (ne_true_of_eq_false (edge_taken hallowed hrise hfall))).trans (next_neg ?_)
  split
  · exact Bool.false_ne_true
  · next e he => exact ne_true_of_eq_false (decide_eq_false (Nat.not_lt.mpr (hlive e he)))

end

/-! ### The vernier -/

section

variable {st : Stamp} {l : List Stamp} (hflight : ((s.at_ t).stampUnit (chIx tn.val c.val)).flight = st :: l)
  (hvern : st.vern = true) (hcode : st.code = none)

include hflight hvern hcode

theorem exec_vernierDone_code {k : Fin 512} :
    let u := s.at_ t
    let i := chIx tn.val c.val
    let x := u.stampUnit i
    exec (.vernierDone t tn c (some k)) s = .next (u.setStampUnit i { x with
      flight := { st with code := some (tabEntry x.vnTab 512 (511 - k.val)), staleVn := u.stale tn.val x.vnAt } :: l }) := by
  show execVernierDone t tn c (some k) s = _
  simp only [execVernierDone, hflight, execVernierDone.upd, hvern, hcode, Option.isNone_none, Bool.and_true, if_true]

theorem exec_vernierDone_lost :
    let u := s.at_ t
    let i := chIx tn.val c.val
    let x := u.stampUnit i
    exec (.vernierDone t tn c none) s =
      .next (u.setStampUnit i { x with flight := { st with vern := false, coarse := true } :: l }) := by
  show execVernierDone t tn c none s = _
  simp only [execVernierDone, hflight, execVernierDone.upd, hvern, hcode, Option.isNone_none, Bool.and_true, if_true]

end

/-! ### Calibration runs -/

section

variable {hist : List Nat} (hacq : (s.at_ t).acquiring tn.val = true) (hsum : hist.sum = 2 ^ 20)

include hacq hsum

theorem exec_calRunEnd_phase (hrun : ((s.at_ t).stampUnit (chIx tn.val c.val)).phCal = true) (hlen : hist.length = 32)
    (hok : (tableOf 32 hist).2 = true) :
    let u := s.at_ t
    let i := chIx tn.val c.val
    exec (.calRunEnd t tn c false hist) s = .next (u.setStampUnit i
      { u.stampUnit i with phCal := false, phTab := (tableOf 32 hist).1, phAt := some u.now }) := by
  show execCalRunEnd t tn c false hist s = _
  simp only [execCalRunEnd, hrun, hacq, hlen, hsum, hok, Bool.false_eq_true, if_false, Bool.not_true, Bool.or_false, ne_eq,
    not_true, decide_false, if_true]

theorem exec_calRunEnd_vernier (hrun : ((s.at_ t).stampUnit (chIx tn.val c.val)).vnCal = true) (hlen : hist.length = 512)
    (hok : (tableOf 512 hist).2 = true) :
    let u := s.at_ t
    let i := chIx tn.val c.val
    exec (.calRunEnd t tn c true hist) s = .next (u.setStampUnit i
      { u.stampUnit i with vnCal := false, vnTab := (tableOf 512 hist).1, vnAt := some u.now }) := by
  show execCalRunEnd t tn c true hist s = _
  simp only [execCalRunEnd, hrun, hacq, hlen, hsum, hok, Bool.false_eq_true, if_false, Bool.not_true, Bool.or_false, ne_eq,
    not_true, decide_false, if_true]

end

end

/-- Settles O13: an edge is dead or stamped, its vernier comes to a code or is lost, and a run fills its table. -/
theorem edgeIsStampedOrDead : Obligations.EdgeIsStampedOrDead := by
  intro s t tn c u i x
  refine ⟨fun fall ph arm hallowed hrise hfall => ⟨fun e => exec_discriminatorEdge_dead hallowed hrise hfall,
      exec_discriminatorEdge_stamped hallowed hrise hfall⟩,
    fun st l k hflight hvern hcode => ⟨exec_vernierDone_code hflight hvern hcode, exec_vernierDone_lost hflight hvern hcode⟩,
    fun hacq => ⟨fun hsec => next_pos (and_eq_true_of hacq (beq_iff_eq.mpr hsec)),
      fun hsec => next_neg fun h => hsec (beq_iff_eq.mp (Bool.and_eq_true_iff.mp h).2),
      fun hist hrun hlen hsum hok => exec_calRunEnd_phase hacq hsum hrun hlen hok,
      fun hist hrun hlen hsum hok => exec_calRunEnd_vernier hacq hsum hrun hlen hok⟩⟩

/-! ### Release and intervals -/

section

variable {s : State} {t : Nat} {tn : Fin 6}

/-- The oldest stamp in flight whose time has come and which is the next of its Tenon. -/
theorem exec_stampRelease_next {c : Fin 128} {st : Stamp} {l : List Stamp}
    (hflight : ((s.at_ t).stampUnit (chIx tn.val c.val)).flight = st :: l)
    (hdue : (st.tick + stampLatency) * tickF ≤ (s.at_ t).now) (hnext : (s.at_ t).stampNext tn.val c.val st = true) :
    let u := s.at_ t
    let i := chIx tn.val c.val
    let b := bentIx tn.val (c.val / 8)
    let x := u.stampUnit i
    let waiting := x.queued.filter (fun m => decide (u.now < m))
    let v := u.setStampUnit i { x with flight := l, queued := waiting }
    let m := max u.now (max (smapGet 0 u.bentMerge b) (smapGet 0 u.tenonMerge tn.val))
    let w : State := { v with
      bentMerge := smapSet 0 v.bentMerge b (m + mergeStep), tenonMerge := smapSet 0 v.tenonMerge tn.val (m + mergeStep) }
    exec (.stampRelease t tn c) s = .next (if 16 ≤ waiting.length then
        (v.setStampUnit i (v.stampUnit i).markPileup).countUp F.ST_COUNT_FIFO_OVF i 1 32767
      else (if w.now < m then w.setStampUnit i { w.stampUnit i with queued := waiting ++ [m] } else w).stampOut
        tn.val c.val st) := by
  show execStampRelease t tn c s = _
  simp only [execStampRelease, hflight, Nat.not_lt.mpr hdue, hnext, decide_false, Bool.not_true, Bool.or_false,
    Bool.false_eq_true, if_false] <;> rfl

theorem exec_intervalWindowExpiry_closes {k : Fin 16} {w : Window}
    (hwin : ((s.at_ t).intUnit (intIx tn.val k.val)).win = some w)
    (hheld : ((s.at_ t).intUnit (intIx tn.val k.val)).held = [])
    (hpassed : (s.at_ t).orderPassed tn.val
      (w.start + (((s.at_ t).rd F.INT_CFG_WINDOW (intIx tn.val k.val) * tickF : Nat) : Int)) = true) :
    exec (.intervalWindowExpiry t tn k) s = .next ((s.at_ t).winClose tn.val k.val false) := by
  show execIntervalWindowExpiry t tn k s = _
  simp only [execIntervalWindowExpiry, hwin]
  exact next_pos (and_eq_true_of (decide_eq_true hheld) hpassed)

end

/-- Settles O14: a stamp's release finds the queue full or not, and held stops and windows end. -/
theorem stampsLeaveInOrder : Obligations.StampsLeaveInOrder := by
  intro s t tn u
  refine ⟨?_, fun k => ⟨rfl, fun w hwin hheld hpassed => exec_intervalWindowExpiry_closes hwin hheld hpassed⟩⟩
  intro c st l i b x waiting v m w hflight hdue hnext
  exact ⟨fun hfull => (exec_stampRelease_next hflight hdue hnext).trans (next_pos hfull),
    fun hroom => (exec_stampRelease_next hflight hdue hnext).trans (next_neg (Nat.not_le.mpr hroom))⟩

end Sys2Proof.Machine
end

