-- ==== Sys2Proof/Proofs/PulseEcho.lean ====
section
/-! PROOF. Pulse-echo checks (chapter 06): the check's start, its fires, its end. -/

namespace Sys2Proof.Machine

open Sys2Proof

/-! ### Pulse-echo checks -/

section

variable {u : State} {t c : Nat}

/-- A check starts on an enabled channel without IEPE and without a check. -/
theorem State.peGo_accepts (hiepe : u.on F.CH_CTRL_IEPE_EN (chIx t c) = false)
    (hen : u.on F.CH_CTRL_ENABLE (chIx t c) = true) (hpe : (u.stampUnit (chIx t c)).pe = none) :
    u.peGo t c = (u.setStampUnit (chIx t c) { u.stampUnit (chIx t c) with
      pe := some { left := u.rd F.PE_CTRL_PE_N_M1 (chIx t c) + 1, lastFire := 0 } }).wr F.PE_RES_STATUS (chIx t c) peRunning :=
  if_neg (by rw [hiepe, hen, hpe]; exact Bool.false_ne_true)

theorem State.peGo_refuses (h : u.on F.CH_CTRL_IEPE_EN (chIx t c) = true ∨ u.on F.CH_CTRL_ENABLE (chIx t c) = false ∨
      (u.stampUnit (chIx t c)).pe.isSome = true) :
    u.peGo t c = (u.wr F.PE_RES_STATUS (chIx t c) peRefused).stStick t c F.ST_STATUS_PE_DONE 3 := by
  refine if_pos ?_
  rcases h with h | h | h <;> rw [h]
  · rfl
  · rw [Bool.not_false, Bool.or_true, Bool.true_or]
  · rw [Bool.or_true]

end

/-- When the vernier, busy until instant b, is busy until after it meets an edge at instant a. -/
def State.busyAfter (v : State) (i b a : Nat) : Nat := if v.vernOn i && decide (b ≤ a) then a + 640 * tickF else b

/-- Whether the vernier takes the edge, and when it is then busy until. -/
theorem vernier_takes (v : State) (i b a : Nat) :
    (if v.vernOn i && decide (b ≤ a) then (true, a + 640 * tickF) else (false, b))
      = (v.vernOn i && decide (b ≤ a), v.busyAfter i b a) := by
  unfold State.busyAfter
  cases v.vernOn i && decide (b ≤ a) <;> rfl

/-- A fire of a check with fires left is not too soon. -/
theorem peFire_due {p : PulseEcho} {now : Nat} (hleft : p.left ≠ 0) (hdue : p.lastFire = 0 ∨ p.lastFire + 15 * usF ≤ now) :
    (decide (p.left = 0) || decide (p.lastFire ≠ 0 ∧ now < p.lastFire + 15 * usF)) = false := by
  rw [decide_eq_false hleft, Bool.false_or]
  exact decide_eq_false (by omega)

section

variable {s : State} {t : Nat} {tn : Fin 6} {c : Fin 128} {p : PulseEcho}
  (hpe : ((s.at_ t).stampUnit (chIx tn.val c.val)).pe = some p)

include hpe

section

variable (hleft : p.left ≠ 0) (hdue : p.lastFire = 0 ∨ p.lastFire + 15 * usF ≤ (s.at_ t).now)

include hleft hdue

theorem exec_peFire_none :
    let u := s.at_ t
    let i := chIx tn.val c.val
    let v := u.firePulser tn.val c.val
    exec (.peFire t tn c none none) s = .next (v.setStampUnit i
      { u.stampUnit i with pe := some { p with left := p.left - 1, lastFire := v.now } }) := by
  show execPeFire t tn c none none s = _
  simp only [execPeFire, hpe, peFire_due hleft hdue, Bool.false_eq_true, if_false,
    Option.filter_none]

theorem exec_peFire_echo {ea : Nat} {ec : Fin 32} {ev : Option (Fin 512)} {neg : Bool}
    (hblank : ((s.at_ t).firePulser tn.val c.val).rd F.PE_CFG_PE_BLANK (chIx tn.val c.val) * 8192 ≤ ea)
    (hlate : ea ≤ 14 * usF) :
    let u := s.at_ t
    let i := chIx tn.val c.val
    let v := u.firePulser tn.val c.val
    exec (.peFire t tn c none (some (ea, ec, ev, neg))) s = .next (v.setStampUnit i
      { u.stampUnit i with
        vernBusy := v.busyAfter i (u.stampUnit i).vernBusy (v.now + ea)
        pe := some { p with left := p.left - 1, lastFire := v.now } }) := by
  show execPeFire t tn c none (some (ea, ec, ev, neg)) s = _
  simp only [execPeFire, hpe, peFire_due hleft hdue, Bool.false_eq_true, if_false,
    Option.filter_none, Option.filter_some, hblank, hlate, decide_true, Bool.and_true, if_true, vernier_takes]

theorem exec_peFire_launch {la : Nat} {lc : Fin 32} {lv : Option (Fin 512)}
    (hblank : la ≤ ((s.at_ t).firePulser tn.val c.val).rd F.PE_CFG_PE_BLANK (chIx tn.val c.val) * 8192) :
    let u := s.at_ t
    let i := chIx tn.val c.val
    let v := u.firePulser tn.val c.val
    exec (.peFire t tn c (some (la, lc, lv)) none) s = .next (v.setStampUnit i
      { u.stampUnit i with
        vernBusy := v.busyAfter i (u.stampUnit i).vernBusy (v.now + la)
        pe := some { p with left := p.left - 1, lastFire := v.now } }) := by
  show execPeFire t tn c (some (la, lc, lv)) none s = _
  simp only [execPeFire, hpe, peFire_due hleft hdue, Bool.false_eq_true, if_false,
    Option.filter_none, Option.filter_some, hblank, decide_true, if_true, vernier_takes]

/-- A launch and an echo in time add the difference of their stamps to the sums of the echo's polarity. -/
theorem exec_peFire_both {la ea : Nat} {lc ec : Fin 32} {lv ev : Option (Fin 512)} {neg : Bool}
    (hlaunch : la ≤ ((s.at_ t).firePulser tn.val c.val).rd F.PE_CFG_PE_BLANK (chIx tn.val c.val) * 8192)
    (hblank : ((s.at_ t).firePulser tn.val c.val).rd F.PE_CFG_PE_BLANK (chIx tn.val c.val) * 8192 ≤ ea)
    (hlate : ea ≤ 14 * usF) :
    let u := s.at_ t
    let i := chIx tn.val c.val
    let v := u.firePulser tn.val c.val
    let b0 := (u.stampUnit i).vernBusy
    let b1 := v.busyAfter i b0 (v.now + la)
    let l := v.peStamp tn.val i (v.now + la) lc lv (v.vernOn i && decide (b0 ≤ v.now + la))
    let e := v.peStamp tn.val i (v.now + ea) ec ev (v.vernOn i && decide (b1 ≤ v.now + ea))
    let d := e.1 - l.1
    let q : PulseEcho := { p with
      left := p.left - 1, lastFire := v.now, sq := p.sq + d * d, stale := p.stale || l.2 || e.2 }
    exec (.peFire t tn c (some (la, lc, lv)) (some (ea, ec, ev, neg))) s = .next (v.setStampUnit i
      { u.stampUnit i with
        vernBusy := v.busyAfter i b1 (v.now + ea)
        pe := some (if neg then { q with negN := p.negN + 1, negSum := p.negSum + d }
          else { q with posN := p.posN + 1, posSum := p.posSum + d }) }) := by
  show execPeFire t tn c (some (la, lc, lv)) (some (ea, ec, ev, neg)) s = _
  simp only [execPeFire, hpe, peFire_due hleft hdue, Bool.false_eq_true, if_false,
    Option.filter_some, hlaunch, hblank, hlate, decide_true, Bool.and_true, if_true, vernier_takes]

end

theorem exec_peCheckEnd_done (hleft : p.left = 0) (hdue : p.lastFire + 14 * usF ≤ (s.at_ t).now) :
    exec (.peCheckEnd t tn c) s = .next ((s.at_ t).peEnd tn.val c.val p) := by
  show execPeCheckEnd t tn c s = _
  simp only [execPeCheckEnd, hpe]
  exact next_pos (and_eq_true_of (decide_eq_true hleft) (decide_eq_true hdue))

end

/-- Settles O15: the check's start, the four ways a fire's edges fall, and its end. -/
theorem pulseEchoCheckRuns : Obligations.PulseEchoCheckRuns := by
  intro s t tn c u i x
  refine ⟨fun hreach => ⟨fun hiepe hen hpe => next_reached hreach (State.peGo_accepts hiepe hen hpe),
      fun h => next_reached hreach (State.peGo_refuses h)⟩, ?fires,
    fun p hpe hleft hdue => exec_peCheckEnd_done hpe hleft hdue⟩
  case fires =>
    intro p hpe hleft hdue v blank takes busy p'
    exact ⟨exec_peFire_none hpe hleft hdue,
      fun ea ec ev neg hblank hlate => exec_peFire_echo hpe hleft hdue hblank hlate,
      fun la lc lv hblank => exec_peFire_launch hpe hleft hdue hblank,
      fun la lc lv ea ec ev neg hlaunch hblank hlate => exec_peFire_both hpe hleft hdue hlaunch hblank hlate⟩

end Sys2Proof.Machine
end

