-- ==== Sys2Proof/Proofs/GatesAndLoops.lean ====
section
/-! PROOF. Regression gates and statistics (chapter 07), loop slices (chapter 08), and the timeouts of open records. -/

namespace Sys2Proof.Machine

open Sys2Proof

/-! ### Gates and statistics -/

section

variable {s : State} {t : Nat} {tn : Fin 6} {k : Fin 32}

/-- A waiting gate whose opening instant has come opens while data stream. -/
theorem exec_gateOpen_waiting {g : Gate} (hacq : (s.at_ t).acquiring tn.val = true) (hdata : (s.at_ t).streaming = true)
    (hgate : (s.at_ t).gate tn.val k.val = some g) (hclosed : g.isOpen = false)
    (hdue : g.opens ≤ (s.at_ t).plumbOfTenon tn.val ((s.at_ t).now : Int)) :
    let u := s.at_ t
    exec (.gateOpen t tn k) s =
      .next (u.setGate tn.val k.val (some { g with isOpen := true, epoch := u.rd F.ST_EPOCH_EPOCH tn.val })) := by
  show execGateOpen t tn k s = _
  simp only [execGateOpen, hacq, hgate, Bool.not_true, Bool.false_eq_true, if_false]
  exact next_pos (and_eq_true_of (and_eq_true_of (not_eq_true_of hclosed) (decide_eq_true hdue)) (by rw [hdata, Bool.true_or]))

/-- MODE 2 opens a gate at a whole multiple of GATE_LEN. -/
theorem exec_gateOpen_periodic (hacq : (s.at_ t).acquiring tn.val = true) (hdata : (s.at_ t).streaming = true)
    (hgate : (s.at_ t).gate tn.val k.val = none) (hmode : (s.at_ t).rd F.REG_CFG_MODE (regIx tn.val k.val) = 2)
    (hdue : (s.at_ t).plumbOfTenon tn.val ((s.at_ t).now : Int) %
      (((s.at_ t).rd F.REG_CFG_GATE_LEN (regIx tn.val k.val) * msF : Nat) : Int) = 0) :
    let u := s.at_ t
    let i := regIx tn.val k.val
    let now := u.plumbOfTenon tn.val (u.now : Int)
    exec (.gateOpen t tn k) s = .next (u.setGate tn.val k.val (some {
      unit := k.val, ch := u.rd F.REG_CFG_CH i, pol := u.rd F.REG_CFG_POL i, p := u.rd F.REG_CFG_PRESCALE i
      opens := now, closes := now + ((u.rd F.REG_CFG_GATE_LEN i * msF : Nat) : Int), isOpen := true
      epoch := u.rd F.ST_EPOCH_EPOCH tn.val })) := by
  show execGateOpen t tn k s = _
  simp only [execGateOpen, hacq, hgate, hmode, hdata, hdue, ne_eq, not_true, decide_true, Bool.and_true, Bool.not_true,
    Bool.false_eq_true, if_false, if_true]

theorem exec_gateClose_due {g : Gate} (hgate : (s.at_ t).gate tn.val k.val = some g) (hopen : g.isOpen = true)
    (hdue : g.closes ≤ (s.at_ t).plumbOfTenon tn.val ((s.at_ t).now : Int)) :
    exec (.gateClose t tn k) s = .next ((s.at_ t).closeGate tn.val k.val g) := by
  show execGateClose t tn k s = _
  simp only [execGateClose, hgate]
  exact next_pos (and_eq_true_of hopen (decide_eq_true hdue))

theorem exec_gateFull_full {g : Gate} (hgate : (s.at_ t).gate tn.val k.val = some g) (hfull : g.full = true) :
    exec (.gateFull t tn k) s = .next ((s.at_ t).closeGate tn.val k.val g) := by
  show execGateFull t tn k s = _
  simp only [execGateFull, hgate]
  exact next_pos hfull

/-- REG_GO in MODE 3 with no gate while data stream requests one. -/
theorem State.regGo_requests {u : State} {t k : Nat} (hmode : u.rd F.REG_CFG_MODE (regIx t k) = 3)
    (hgate : u.gate t k = none) (hdata : u.streaming = true) :
    let i := regIx t k
    let o := u.plumbOfTenon t (u.now : Int) + ((u.rd F.REG_CFG_GATE_DELAY i * msF : Nat) : Int)
    u.regGo t k = u.setGate t k (some {
      unit := k, ch := u.rd F.REG_CFG_CH i, pol := u.rd F.REG_CFG_POL i, p := u.rd F.REG_CFG_PRESCALE i
      opens := o, closes := o + ((u.rd F.REG_CFG_GATE_LEN i * msF : Nat) : Int) }) :=
  if_neg (by rw [hmode, hgate, hdata]; decide)

end

/-- The oldest value of an accumulator, when it is no loss, is taken alone. -/
theorem State.statNext_value {u : State} {a n : Nat} {x : StatIn} {l : List StatIn} (hinput : (u.acc a).input = x :: l)
    (hloss : x.loss = false) :
    u.statNext a (n + 1) = (u.setAcc a { u.acc a with input := l }).statValue a x := by
  simp only [State.statNext, hinput, hloss, Bool.false_eq_true, if_false]

/-- Settles O16: gates open, close and fill by their conditions; a value is taken off the accumulator's list. -/
theorem gatesOpenCloseAndReport : Obligations.GatesOpenCloseAndReport := by
  intro s t tn k u i now
  refine ⟨fun hacq hdata => ⟨fun g hgate hclosed hdue => exec_gateOpen_waiting hacq hdata hgate hclosed hdue,
      fun hgate hmode => exec_gateOpen_periodic hacq hdata hgate hmode⟩,
    fun g hgate => ⟨exec_gateClose_due hgate, exec_gateFull_full hgate⟩,
    fun hreach hmode hgate hdata => next_reached hreach (State.regGo_requests hmode hgate hdata), rfl, ?values,
    fun a => rfl, fun a w x => rfl⟩
  case values =>
    intro a x l hinput hloss
    have hlen : (s.acc a.val).input.length = l.length + 1 := congrArg List.length hinput
    show Host.Outcome.next (u.statNext a.val (s.acc a.val).input.length) = _
    rw [hlen, State.statNext_value hinput hloss]

/-! ### Loop slices -/

section

variable {s : State} {t : Nat} {tn : Fin 6} {b : Fin 16}

/-- The stop of a slice whose driver does not wait for it. -/
theorem State.loopStop_no_ramp {u : State} {t b : Nat} (hramp : (u.bent (bentIx t b)).useRamp = none) :
    u.loopStop t b = u.setLoop (bentIx t b) { u.loop (bentIx t b) with
      running := false, tripped := false, fresh := false, hand := false, rearm := false, slewing := false
      reg := 0, dacDue := none, down := some (u.now + 100 * usF) } := by
  have hramp' (x : Loop) : ((u.setLoop (bentIx t b) x).bent (bentIx t b)).useRamp = none := hramp
  simp only [State.loopStop, hramp']

theorem exec_loopPeriod_input {p : LoopIn} (hready : ((s.at_ t).loop (bentIx tn.val b.val)).ready = some p)
    (hbent : (s.at_ t).bentOn tn.val b.val = true) :
    exec (.loopPeriod t tn b) s =
      .next (if (s.at_ t).now = p.at_ + 256 * tickF then (s.at_ t).loopPeriod tn.val b.val p else s.at_ t) := by
  show execLoopPeriod t tn b s = _
  simp only [execLoopPeriod, hbent, hready, Bool.not_true, Bool.false_eq_true, if_false, loopOutAt] <;> rfl

theorem exec_loopPeriod_idle (hready : ((s.at_ t).loop (bentIx tn.val b.val)).ready = none)
    (hrun : ((s.at_ t).loop (bentIx tn.val b.val)).running = false)
    (htrip : ((s.at_ t).loop (bentIx tn.val b.val)).tripped = false) (hbent : (s.at_ t).bentOn tn.val b.val = true) :
    exec (.loopPeriod t tn b) s = .next ((s.at_ t).loopCommits (bentIx tn.val b.val)) := by
  show execLoopPeriod t tn b s = _
  simp only [execLoopPeriod, hbent, hready, hrun, htrip, Bool.not_true, Bool.or_false, Bool.false_eq_true, if_false]

theorem exec_spxEdge_falls {r : Nat} (hbent : (s.at_ t).bentOn tn.val b.val = true)
    (hrise : ((s.at_ t).loop (bentIx tn.val b.val)).spxRise = some r) :
    let u := s.at_ t
    let i := bentIx tn.val b.val
    let e := ceilDiv u.now tickF * tickF
    exec (.spxEdge t tn b false) s = .next (u.setLoop i { u.loop i with
      spxRise := none, spxWidth := (e - r) / tickF, spxEnd := some e, spxLost := false }) := by
  show execSpxEdge t tn b false s = _
  simp only [execSpxEdge, hbent, hrise, Bool.not_true, Bool.false_eq_true, if_false]

end

/-- Settles O17: the slice's start and stop, its period, its DAC, its commits, and the edges of SPX. -/
theorem loopSliceRunsItsLaw : Obligations.LoopSliceRunsItsLaw := by
  intro s t tn b u i x
  refine ⟨fun hrun huse huser hidle hnotrip hbent hbound => ?_, fun hgoes hstop hbound => ⟨?_, State.loopStop_no_ramp⟩,
    fun p hready hbent => ⟨fun hnow => (exec_loopPeriod_input hready hbent).trans (next_pos hnow),
      fun hnow => (exec_loopPeriod_input hready hbent).trans (next_neg hnow)⟩,
    exec_loopPeriod_idle, fun huse hbent => ⟨fun hdue => ?_, fun hdue => ?_⟩,
    fun hreach => ⟨next_pos hreach, next_pos hreach, fun law => next_pos hreach,
      fun htrip => next_reached hreach (if_pos htrip),
      fun htrip => next_reached hreach (if_neg (ne_true_of_eq_false htrip))⟩,
    fun hbent => ?spx⟩
  · exact next_pos (and_eq_true_of (and_eq_true_of (and_eq_true_of (and_eq_true_of (and_eq_true_of (and_eq_true_of hrun
      (decide_eq_true huse)) (decide_eq_true huser)) (not_eq_true_of hidle)) (not_eq_true_of hnotrip)) hbent) hbound)
  · refine next_pos (and_eq_true_of (and_eq_true_of ?_ ?_) hbound)
    · exact Bool.or_eq_true_iff.mpr hgoes
    · exact Bool.or_eq_true_iff.mpr (hstop.imp not_eq_true_of decide_eq_true)
  · exact next_pos (and_eq_true_of (and_eq_true_of (decide_eq_true huse) (decide_eq_true hdue)) hbent)
  · refine next_neg fun h => ?_
    simp only [Bool.and_eq_true, decide_eq_true_eq] at h
    exact hdue h.1.2
  case spx =>
    intro e
    exact ⟨(next_neg (by rw [hbent]; exact Bool.false_ne_true)).trans (next_pos rfl),
      fun r hrise => exec_spxEdge_falls hbent hrise⟩

/-! ### Timeouts of open records -/

/-- Settles O18: each timeout is the open arm of its stream's age. -/
theorem openRecordsCloseAtTheirTimeouts : Obligations.OpenRecordsCloseAtTheirTimeouts := by
  intro s t tn u
  exact ⟨fun c => ⟨fun hdue => next_pos hdue, fun hdue => next_pos hdue,
      fun hyoung => next_neg (ne_true_of_eq_false hyoung)⟩,
    fun b => ⟨fun hdue => next_pos hdue, fun hdue => next_pos hdue⟩, fun k hdue => next_pos hdue,
    fun k hdue => next_pos hdue, fun hdue => next_pos hdue⟩

end Sys2Proof.Machine
end

