-- ==== Sys2Proof/Proofs/Plumb.lean ====
section
/-! PROOF. Plumb time (chapter 09): exchanges, the grandmaster's pulses, steps, and the Tenons' counters. -/

namespace Sys2Proof.Machine

open Sys2Proof

section

variable {s : State} {t : Nat} {p : Fin 8}

/-! ### Exchanges -/

/-- The Mortise takes part in exchanges outside BOOT and while PO is released. -/
theorem outside_boot {u : State} (hpo : u.poAsserted = false) (hboot : u.mode ≠ mBoot) :
    (u.poAsserted || decide (u.mode = mBoot)) = false := by
  rw [hpo, decide_eq_false hboot]
  rfl

theorem exec_plumbReqSend_parent {dep : Nat} (hpo : (s.at_ t).poAsserted = false) (hboot : (s.at_ t).mode ≠ mBoot)
    (hrole : (s.at_ t).on F.PLUMB_CTRL_ROLE 0 = false) (hparent : (s.at_ t).rd F.PLUMB_CTRL_PARENT 0 = p.val)
    (hdue : (s.at_ t).plumbNow % (100000000 * (tickF : Int)) = 0) :
    let u := s.at_ t
    let v := u.latRead p.val
    let a := max dep v.now
    exec (.plumbReqSend t (p, dep)) s = .next
      (({ v with plumb := { v.plumb with
        seqNo := smapSet 0 v.plumb.seqNo p.val ((smapGet 0 u.plumb.seqNo p.val + 1) % 65536)
        req := smapSet none v.plumb.req p.val (some (smapGet 0 u.plumb.seqNo p.val, v.leaveTime p.val a, a)) } } :
        State).sendLocal (v.portBase + p.val) frPlumbReq [smapGet 0 u.plumb.seqNo p.val]) := by
  refine next_neg ?_
  simp only [hpo, hboot, hrole, hparent, hdue, decide_false, beq_self_eq_true, Bool.true_or, Bool.not_true, Bool.or_false,
    ne_eq, not_true, Bool.false_eq_true, not_false_eq_true]

theorem exec_ppsEdge_other {fall : Bool} (h : fall ≠ (s.at_ t).on F.PLUMB_CTRL_PPS_POL 0) :
    exec (.ppsEdge t fall) s = .next (s.at_ t) :=
  next_pos (by rw [bne_iff_ne.mpr h, Bool.or_true])

section

variable {n sent : Nat} {t1 : Int} (hreq : smapGet none (s.at_ t).plumb.req p.val = some (n, t1, sent))

include hreq

theorem exec_exchangeTimeout_due (hdue : sent + msF ≤ (s.at_ t).now) :
    exec (.exchangeTimeout t p) s = .next ((s.at_ t).exchangeMissed p.val) := by
  show execExchangeTimeout t p s = _
  simp only [execExchangeTimeout, hreq, hdue, if_true]

/-- A response with another number counts the exchange as missed. -/
theorem exec_plumbRsp_other {q gm : BitVec 16} {hops : BitVec 8} {st : BitVec 3} {t2 t3 : BitVec 80} {fr : List Int}
    (hq : q.toNat ≠ n) : exec (.plumbRsp t p q hops st gm t2 t3 fr) s = .next ((s.at_ t).exchangeMissed p.val) := by
  show execPlumbRsp t p q hops st gm t2 t3 fr s = _
  simp only [execPlumbRsp, hreq, hq, decide_false, Bool.and_false, Bool.false_and, Bool.false_eq_true, if_false]

/-- A valid response in time on a follower, of state 2 or 4, on the port that is and stays in use. -/
theorem exec_plumbRsp_valid {q gm : BitVec 16} {hops : BitVec 8} {st : BitVec 3} {t2 t3 : BitVec 80} {ph : List Int}
    (hq : q.toNat = n) (htime : (s.at_ t).now ≤ sent + msF) (hgm : gm.toNat = (s.at_ t).rd F.PLUMB_CTRL_GM_ID 0)
    (hhops : hops.toNat ≤ 30) (hst : st.toNat = 2 ∨ st.toNat = 4) (hrole : (s.at_ t).on F.PLUMB_CTRL_ROLE 0 = false) :
    let u := s.at_ t
    let v := ({ u with plumb := { u.plumb with
      req := smapSet none u.plumb.req p.val none
      valid := smapSet 0 u.plumb.valid p.val 2
      run := smapSet 0 u.plumb.run p.val (u.portRun p.val + 1) } } : State).followPort
    p.val = v.rd F.PLUMB_STATUS_PORT_NOW 0 →
    let r := v.latRead p.val
    let w := r.wr F.PLUMB_STATUS_HOPS 0 (hops.toNat + 1)
    exec (.plumbRsp t p q hops st gm t2 t3 ph) s = .next
      (({ w with plumb := { w.plumb with missed := 0 } } : State).servo
        (rhu (nearTime (r.arriveTime p.val r.now - plumbOfWord t3.toNat) - nearTime (plumbOfWord t2.toNat - t1)
          - r.rdS F.PLUMB_ASYM_ASYM p.val) 1) (Config.phaseLoop r.plumb.freq ph)) := by
  have hgood : (st.toNat == 2 || st.toNat == 4) = true := by simpa using hst
  have hlisted : (st.toNat == 2 || st.toNat == 3 || st.toNat == 4) = true := by
    rcases hst with h | h <;> rw [h] <;> rfl
  intro u v hport
  show execPlumbRsp t p q hops st gm t2 t3 ph s = _
  simp only [execPlumbRsp, hreq, hq, htime, hgm, hhops, hlisted, hrole, hgood, decide_true, Bool.and_true, Bool.not_false,
    if_true]
  exact next_pos hport

end

end

/-- Settles O19: requests, answers, timeouts, pulses, roles and reads. -/
theorem plumbExchangesAndPulses : Obligations.PlumbExchangesAndPulses := by
  intro s t p u
  refine ⟨fun hpo hboot => ⟨fun hrole hparent hdue dep => exec_plumbReqSend_parent hpo hboot hrole hparent hdue,
      fun q t3 => next_neg (ne_true_of_eq_false (outside_boot hpo hboot)), fun fall => exec_ppsEdge_other⟩,
    fun n t1 sent hreq => ⟨exec_exchangeTimeout_due hreq, fun q hops st gm t2 t3 fr => exec_plumbRsp_other hreq⟩,
    fun hrole hwatch hdue => next_pos (and_eq_true_of (and_eq_true_of hrole hwatch) (decide_eq_true hdue)),
    fun r => rfl, rfl⟩

/-- A pulse after the first, outside HOLDOVER, filters its difference into the offset. -/
theorem exec_ppsEdge_filters {s : State} {t : Nat} {fall : Bool} (hpo : (s.at_ t).poAsserted = false)
    (hboot : (s.at_ t).mode ≠ mBoot) (hrole : (s.at_ t).on F.PLUMB_CTRL_ROLE 0 = true)
    (hfall : fall = (s.at_ t).on F.PLUMB_CTRL_PPS_POL 0) (hfirst : (s.at_ t).plumb.gmFirst = true)
    (hhold : (s.at_ t).plumbState ≠ psHoldover) :
    let u := s.at_ t
    let next := u.rd F.PLUMB_GM_SEC_NEXT_SEC 0
    let th := nearTime (u.plumbNow / 16 * 16 - (u.rd F.PLUMB_PPS_PPS_DLY 0 : Int) - (next : Int) * (secF : Int))
    let v := u.wr F.PLUMB_GM_SEC_NEXT_SEC 0 (next + 1)
    exec (.ppsEdge t fall) s = .next
      (({ v with plumb := { v.plumb with
        gmFirst := true, ppsWatch := true, lastPps := v.now
        filt := Config.plumbFilter (v.rd F.PLUMB_SERVO_PHASE_TC 0) v.plumb.filt th } } : State).correct none) := by
  have hgo : ((s.at_ t).poAsserted || decide ((s.at_ t).mode = mBoot) || !(s.at_ t).on F.PLUMB_CTRL_ROLE 0
      || fall != (s.at_ t).on F.PLUMB_CTRL_PPS_POL 0) = false := by
    rw [outside_boot hpo hboot, hrole, hfall, bne_self_eq_false]
    rfl
  have hstate (x : Nat) : ((s.at_ t).wr F.PLUMB_GM_SEC_NEXT_SEC 0 x).plumbState ≠ psHoldover := by
    have hsame : ((s.at_ t).wr F.PLUMB_GM_SEC_NEXT_SEC 0 x).plumbState = (s.at_ t).plumbState :=
      rd_wr_other _ _ (fkey_ne (by decide) (by decide) (by decide))
    rwa [hsame]
  have hfirst' (x : Nat) : ((s.at_ t).wr F.PLUMB_GM_SEC_NEXT_SEC 0 x).plumb.gmFirst = true := hfirst
  show execPpsEdge t fall s = _
  simp only [execPpsEdge, hgo, hstate, hfirst', Bool.not_true, Bool.false_eq_true, if_false]
  rfl

/-- Settles O20: the grandmaster's pulse and the follower's valid response. -/
theorem grandmasterFollowsPps : Obligations.GrandmasterFollowsPps := by
  intro s t u
  exact ⟨fun fall => exec_ppsEdge_filters, fun p q hops st gm t2 t3 ph t1 sent hreq htime hgm hhops hst hrole =>
    exec_plumbRsp_valid hreq rfl htime hgm hhops hst hrole⟩

/-! ### Steps and the Tenons' counters -/

section

variable {s : State} {t : Nat}

theorem exec_plumbStep_early {n : Int} {due : Nat} {after : Option Nat} (hstep : (s.at_ t).plumb.step = some (n, due, after))
    (hnow : (s.at_ t).now ≠ due) : exec (.plumbStep t) s = .next (s.at_ t) := by
  show execPlumbStep t s = _
  simp only [execPlumbStep, hstep, ne_eq, hnow, not_false_eq_true, if_true]

/-- What a step of d does to Tenon k, where it is reached and loaded. -/
def stepTenon (d : Int) (v : State) (k : Nat) : State :=
  if v.reachable k && (v.tenon k).loaded then
    (v.setTenon k { v.tenon k with
      off := (v.tenon k).off + d, reloadFrom := (v.tenon k).reloadFrom.map (fun _ => v.now) }).stepEffects k
  else v

/-- The STATE that a step goes on to, if any. -/
def State.stepState (w : State) : Option Nat → State
  | none => w
  | some st => w.setPlumbState st

theorem exec_plumbStep_due {n : Int} {due : Nat} {after : Option Nat} (hstep : (s.at_ t).plumb.step = some (n, due, after))
    (hnow : (s.at_ t).now = due) :
    let u := s.at_ t
    let d : Int := n * (tickF : Int)
    let v := (List.range 6).foldl (stepTenon d)
      { u with plumbOff := u.plumbOff + d, plumb := { u.plumb with step := none, filt := u.plumb.filt + d } }
    let w := (v.wr F.PLUMB_STEPLOG_LAST_STEP 0 (satWord 32 n)).countUp F.PLUMB_STEPLOG_STEP_COUNT 0 1 65535
    exec (.plumbStep t) s = .next (((w.stepState after).plumbStick F.PLUMB_STATUS_STEP).steer) := by
  show execPlumbStep t s = _
  simp only [execPlumbStep, hstep, ne_eq, hnow, not_true, if_false]
  cases after <;> rfl

variable {tn : Fin 6}

theorem exec_tenonCounterCheck_second {slip : Int} (hreach : (s.at_ t).reachable tn.val = true)
    (hload : ((s.at_ t).tenon tn.val).loaded = true) (hsec : (s.at_ t).plumbNow % (secF : Int) = 0) :
    let u := s.at_ t
    exec (.tenonCounterCheck t tn slip) s = .next (u.setTenon tn.val { u.tenon tn.val with
      off := (u.tenon tn.val).off + slip * (tickF : Int)
      reloadFrom := if (u.tenon tn.val).off + slip * (tickF : Int) = u.plumbOff then none else some u.now }) := by
  refine next_neg ?_
  rw [hreach, hload, decide_eq_false (not_not_intro hsec)]
  exact Bool.false_ne_true

/-- The reload acts at the whole second after the check that asked for it. -/
theorem exec_tenonReload_asked {a : Nat} (hreach : (s.at_ t).reachable tn.val = true)
    (hload : ((s.at_ t).tenon tn.val).loaded = true) (hsec : (s.at_ t).plumbNow % (secF : Int) = 0)
    (hask : ((s.at_ t).tenon tn.val).reloadFrom = some a) :
    let u := s.at_ t
    exec (.tenonReload t tn) s = .next (if a < u.now ∧ u.now ≤ a + secF then
      ((u.setTenon tn.val { u.tenon tn.val with off := u.plumbOff, reloadFrom := none }).stepEffects tn.val).plumbStick
        F.PLUMB_STATUS_TENON_SLIP else u) := by
  show execTenonReload t tn s = _
  simp only [execTenonReload, hask, Option.any_some, hreach, hload, hsec, decide_true, Bool.and_true, decide_eq_true_eq]

end

/-- Settles O21: the step at its instant and at no other, the counter check, and the reload after it. -/
theorem plumbStepsAndTenonCounters : Obligations.PlumbStepsAndTenonCounters := by
  intro s t u
  refine ⟨fun n due after => exec_plumbStep_early, fun n due after hstep hnow => ?_,
    fun tn hreach hload hsec => ⟨fun slip => exec_tenonCounterCheck_second hreach hload hsec,
      fun a hask => ⟨fun hafter hin => ?_, fun hnow => ?_⟩⟩⟩
  · refine (exec_plumbStep_due hstep hnow).trans ?_
    cases after <;> rfl
  · exact (exec_tenonReload_asked hreach hload hsec hask).trans (next_pos ⟨hafter, hin⟩)
  · exact (exec_tenonReload_asked hreach hload hsec hask).trans (next_neg fun h => Nat.ne_of_gt h.1 hnow)

end Sys2Proof.Machine
end

