-- ==== Sys2Proof/Proofs/ProtectedMemory.lean ====
section
/-! PROOF. Queues and protected memories (chapter 11): upsets, write-backs, the resumption of a halted queue, scrubs and
bank repairs. -/

namespace Sys2Proof.Machine

open Sys2Proof

/-! ### Started descriptors -/

/-- A descriptor that is the next of its ring runs what its opcode says. -/
theorem State.startDesc_started {u : State} {sq op : Nat} {j : Job} {f : Job → State → State} (h : Started u sq op j) :
    u.startDesc sq op f = f j (u.setJob j) := by
  obtain ⟨d, hnext, hop, rfl⟩ := h
  simp only [State.startDesc, hnext, hop, if_true]

/-- The outcome of a command that starts a descriptor. -/
theorem next_started {u v : State} {sq op : Nat} {j : Job} {f : Job → State → State} (h : Started u sq op j)
    (hv : f j (u.setJob j) = v) :
    (Host.Outcome.next (u.startDesc sq op f) : Host.Outcome State Fault Refusal) = .next v := by
  rw [State.startDesc_started h, hv]

/-! ### The resumption of a halted queue -/

section

variable {s : State} {q : Nat}

theorem State.queueResume_running (hon : s.on F.QSTAT_HALTED q = false) : s.queueResume q = s :=
  if_pos (not_eq_true_of hon)

theorem State.queueResume_empty (hon : s.on F.QSTAT_HALTED q = true)
    (hpkt : (s.queue q).pkts[(s.queue q).taken]? = none) : s.queueResume q = s.wr F.QSTAT_HALTED q 0 := by
  have hpkt' : ((s.wr F.QSTAT_HALTED q 0).queue q).pkts[((s.wr F.QSTAT_HALTED q 0).queue q).taken]? = none := hpkt
  simp only [State.queueResume, hon, hpkt', Bool.not_true, Bool.false_eq_true, if_false]

/-- Where every cell of a packet can be reached, its reachable cells are all its cells. -/
theorem takeWhile_append_take {l : List Nat} {ok : Nat → Bool} (h : ∀ c ∈ l, ok c = true) :
    l.takeWhile ok ++ (l.dropWhile ok).take 1 = l := by
  induction l with
  | nil => rfl
  | cons c l ih =>
    have hc := h c List.mem_cons_self
    rw [List.takeWhile_cons_of_pos hc, List.dropWhile_cons_of_pos hc, List.cons_append,
      ih fun x hx => h x (List.mem_cons_of_mem c hx)]

theorem filter_const_true {α : Type} (l : List α) : l.filter (fun _ => true) = l :=
  List.filter_eq_self.mpr fun _ _ => rfl

/-- The packet that stopped a queue, all of whose link entries can be read: with a readable header a loss record takes its
place, and otherwise it goes. -/
theorem State.queueResume_readable {p : Pkt} (hq : q < 1048576) (hon : s.on F.QSTAT_HALTED q = true)
    (hpkt : (s.queue q).pkts[(s.queue q).taken]? = some p)
    (hlook : ∀ c ∈ p.cells, ((s.wr F.QSTAT_HALTED q 0).memLook memLink c 0).2 = true) :
    let w := s.wr F.QSTAT_HALTED q 0
    let x := s.queue q
    let r := p.rec_
    let c0 := p.cells.headD 0
    let l := w.memRead memLink c0 (w.linkEntry c0)
    s.queueResume q = if (w.cellWords c0 0 ((r.words (s.rd F.FAB_NODE_ID 0)).take 4)).2.1 then
      (({ w with pool := w.pool.cellFresh c0 } : State).setQueue q { x with
        pkts := x.pkts.take x.taken ++ { rec_ := lossRec r.stream r.die {
          count := 1, flags := r.flags, seq := r.seq, time := r.time, bent := r.bent, channel := r.channel,
          epoch := r.epoch, cause := 3, lastTime := r.time, node := r.node }, cells := [c0] } ::
          x.pkts.drop (x.taken + 1) }).freeCellsOf (p.cells.drop 1)
      else ((w.setQueue q { x with pkts := x.pkts.take x.taken ++ x.pkts.drop (x.taken + 1) }).freeCellsOf
        p.cells).queueStick F.QEV_STATUS_HDR_LOST 2 (q + (if l.2.1 then bitsAt l.1 32 16 else 0xFFFF) * 2 ^ 16) := by
  have hpkt' : ((s.wr F.QSTAT_HALTED q 0).queue q).pkts[((s.wr F.QSTAT_HALTED q 0).queue q).taken]? = some p := hpkt
  have hnode : (s.wr F.QSTAT_HALTED q 0).rd F.FAB_NODE_ID 0 = s.rd F.FAB_NODE_ID 0 := by
    exact rd_wr_other s 0 (fkey_ne (by decide) (by decide) hq)
  have hreach : (p.cells.takeWhile fun c => !!((s.wr F.QSTAT_HALTED q 0).memLook memLink c 0).2) ++
      (p.cells.dropWhile fun c => !!((s.wr F.QSTAT_HALTED q 0).memLook memLink c 0).2).take 1 = p.cells :=
    takeWhile_append_take fun c hc => by rw [hlook c hc]; rfl
  simp only [State.queueResume, hon, hpkt', hnode, hreach, List.drop_length, List.foldl_nil, List.contains_nil, Bool.not_true,
    Bool.not_false, Bool.false_eq_true, if_false, filter_const_true]
  rfl

end

/-- Settles O22: upsets and write-backs by their conditions, and the resumption of a queue by its packet. -/
theorem protectedMemoriesAreServed : Obligations.ProtectedMemoriesAreServed := by
  intro s t u
  refine ⟨fun m a x => ⟨fun hhas => next_neg (by rw [hhas]; exact Bool.false_ne_true),
      fun hhas => next_pos (not_eq_true_of hhas), fun hwait => next_pos hwait⟩,
    fun q => ⟨fun hon => congrArg Host.Outcome.next (State.queueResume_running hon),
      fun hon hpkt => congrArg Host.Outcome.next (State.queueResume_empty hon hpkt), ?resumes⟩,
    rfl, rfl, fun p hp => next_neg hp⟩
  case resumes =>
    intro p hon hpkt w x r c0 hlook
    have hq : q.val < 1048576 := by omega
    exact ⟨fun hhdr => congrArg Host.Outcome.next ((State.queueResume_readable hq hon hpkt hlook).trans (if_pos hhdr)),
      fun hhdr => congrArg Host.Outcome.next
        ((State.queueResume_readable hq hon hpkt hlook).trans (if_neg (ne_true_of_eq_false hhdr)))⟩

/-! ### Scrubs and bank repairs -/

section

variable {s : State} {t : Nat}

theorem exec_scrubDone_job {sq : Fin 256} {x : Scrub} {j : Job}
    (hscrub : (s.at_ t).pool.scrubs.find? (fun x => ((s.at_ t).job x.job).any (fun j => j.sq == sq.val)) = some x)
    (hjob : (s.at_ t).job x.job = some j) :
    let u := s.at_ t
    let r := u.scrubEnd x (u.scrubCount x)
    exec (.scrubDone t sq) s = .next
      ((if addr8 (j.w 4) = 0 then r.2 else r.2.hostPut rkJob j.sq j.slot (addr8 (j.w 4)) r.1).commit j stDone
        (r.1.getD 1 0 / 2 ^ 32)) := by
  show execScrubDone t sq s = _
  simp only [execScrubDone, hscrub, hjob]

theorem exec_bankRepairDone_job {ok good : Bool} {r : Repair} {v : State} {j : Job}
    (hdone : (s.at_ t).repairDone ok = (some (r, good), v)) (hjob : v.job r.job = some j) :
    exec (.bankRepairDone t ok) s = .next (v.commit j (if good then stDone else stFailed) (v.sparesUsed r.bank)) := by
  show execBankRepairDone t ok s = _
  simp only [execBankRepairDone, hdone, hjob]

/-- A started repair is refused while another runs, and a restoration (ACTION 2) completes at once. -/
theorem exec_bankRepair_started {sq : Fin 256} {j : Job} (h : Started (s.at_ t) sq.val 0x21 j) :
    let act := if bitsAt (j.w 1) 8 2 = 3 then 0 else bitsAt (j.w 1) 8 2
    let r := ((s.at_ t).setJob j).repairStart j.id (bitsAt (j.w 1) 0 4) act (bitsAt (j.w 1) 16 9)
    exec (.bankRepair t sq) s = .next (if r.1 = false then r.2.commit j stBusy (r.2.sparesUsed (bitsAt (j.w 1) 0 4))
      else if act = 2 then r.2.commit j stDone (r.2.sparesUsed (bitsAt (j.w 1) 0 4)) else r.2) := by
  intro act r
  refine next_started h ?_
  simp only [r, act, Bool.not_eq_true']

end

/-- Settles O23: a started scrub or repair by whether it can run, and their ends by their job. -/
theorem scrubAndRepairDescriptors : Obligations.ScrubAndRepairDescriptors := by
  intro s t sq j u
  refine ⟨fun h => ⟨fun hreach => next_started h (if_neg (by rw [hreach]; exact Bool.false_ne_true)),
      fun hreach => next_started h (if_pos (not_eq_true_of hreach))⟩,
    fun x => exec_scrubDone_job, ?repairs, fun ok r good v => exec_bankRepairDone_job⟩
  case repairs =>
    intro h act r
    exact ⟨fun hok => (exec_bankRepair_started h).trans (next_pos hok),
      fun hok hact => (exec_bankRepair_started h).trans
        ((next_neg (ne_false_of_eq_true hok)).trans (next_pos hact)),
      fun hok hact => (exec_bankRepair_started h).trans
        ((next_neg (ne_false_of_eq_true hok)).trans (next_neg hact))⟩

end Sys2Proof.Machine
end

