-- ==== Sys2Proof/Proofs/DescriptorsAndRings.lean ====
section
/-! PROOF. The compression engines (chapter 12), descriptors, and the rings of host memory with their doorbells (chapter 14). -/

namespace Sys2Proof.Machine

open Sys2Proof

/-! ### Compression engines -/

section

variable {u : State} {e : Nat}

/-- An enabled, idle engine that is not due a job takes the next packet of the queues it reads. -/
theorem State.seifTake_takes {q : Nat} {r : Rec} {ws : List Nat} {v : State} (hen : u.on F.SEIF_CTRL_EN e = true)
    (hidle : (u.seifEng e).work = none) (hturn : (u.seifEng e).lastJob = true ∨ u.seifReady e = false)
    (hpick : u.readerPick 3 e = some q) (htake : u.takePkt q = (some (r, ws), v)) :
    u.seifTake e = (v.readerTook 3 e q).setSeif e { u.seifEng e with
      lastJob := false
      work := some { queue := q, rec_ := { r with flags := bitsAt (ws.headD 0) 8 8, body := ws.drop 4 } } } := by
  have hdue : (!(u.seifEng e).lastJob && u.seifReady e) = false := by
    rcases hturn with h | h <;> rw [h]
    · rfl
    · rw [Bool.and_false]
  simp only [State.seifTake, hen, hidle, hdue, hpick, htake, Option.isSome_none, Bool.not_true, Bool.or_false,
    Bool.false_eq_true, if_false]

theorem State.seifBlockDone_work {w : SeifWork} (he : e ≠ 2) (hwork : (u.seifEng e).work = some w) :
    u.seifBlockDone e = if w.output then u.seifSettle e else u.seifRecordBlock e w := by
  simp only [State.seifBlockDone, he, if_false, hwork]

theorem State.seifBlockDone_job {j : Job} (hjob : u.seifJob 2 = some j) (hstage : j.stage = sjReady) :
    u.seifBlockDone 2 = u.unseifBlock j := by
  simp only [State.seifBlockDone, if_true, hjob, hstage]

end

/-- Settles O24: an engine takes a packet, a started job joins its engine, and a block's end moves the work on. -/
theorem seifEnginesTakeAndCode : Obligations.SeifEnginesTakeAndCode := by
  intro s t u
  exact ⟨fun e q r ws v hen hidle hturn hpick htake =>
      congrArg Host.Outcome.next (State.seifTake_takes hen hidle hturn hpick htake),
    fun sq j h => next_started h rfl, fun sq j h => next_started h rfl,
    fun e w he hwork => congrArg Host.Outcome.next (State.seifBlockDone_work he hwork),
    fun j hjob hstage => congrArg Host.Outcome.next (State.seifBlockDone_job hjob hstage)⟩

/-! ### Descriptors -/

section

variable {s : State} {t : Nat} {sq : Fin 256} {j : Job}

theorem exec_descriptorFetch_picks {i : Nat} (hpo : (s.at_ t).poAsserted = false) (hpick : (s.at_ t).fetchPick = some i) :
    exec (.descriptorFetch t) s = .next ((s.at_ t).descFetch i ((s.at_ t).fetchable i)) := by
  show execDescriptorFetch t s = _
  simp only [execDescriptorFetch, hpo, hpick, Bool.false_eq_true, if_false]

theorem exec_badOpcode_unknown (hnext : (s.at_ t).nextDesc sq.val = some j) (hop : opcodes.contains j.op = false) :
    exec (.badOpcode t sq) s = .next ((s.at_ t).commit j stBadOpcode 0) := by
  show execBadOpcode t sq s = _
  simp only [execBadOpcode, hnext, hop, Bool.false_eq_true, if_false]

/-- A descriptor whose effect is an action runs at once where nothing is journaled. -/
theorem next_action {u : State} {n op : Nat} {f : Job → State → State} (hnow : (u.setJob j).journaling = false)
    (h : Started u n op j) :
    (Host.Outcome.next (u.startAction n op f) : Host.Outcome State Fault Refusal) = .next (f j (u.setJob j)) :=
  next_started h (if_neg (ne_true_of_eq_false hnow))

theorem exec_abort_first
    (hnone : (s.at_ t).jobs.find? (fun j => j.sq == sq.val && j.started && j.op == 0x01) = none)
    (h : Started (s.at_ t) sq.val 0x01 j) : exec (.abort t sq) s = .next (((s.at_ t).setJob j).abort j) := by
  show execAbort t sq s = _
  simp only [execAbort, hnone]
  exact next_started h rfl

variable {tn : Fin 6} {c : Fin 128} {v : State}

theorem exec_segmentRecordEnqueue_none
    (hstep : ((s.at_ t).readSettle (chIx tn.val c.val)).segStep tn.val c.val = (none, v)) :
    exec (.segmentRecordEnqueue t tn c) s = .next v := by
  show execSegmentRecordEnqueue t tn c s = _
  simp only [execSegmentRecordEnqueue, hstep]

/-- A segment whose words could not be used completes its read. -/
theorem exec_segmentRecordEnqueue_bad {id : Nat} {done : Bool}
    (hstep : ((s.at_ t).readSettle (chIx tn.val c.val)).segStep tn.val c.val = (some (id, done, true), v))
    (hjob : v.job id = some j) :
    exec (.segmentRecordEnqueue t tn c) s = .next (v.commit j stUncorrectable j.prog) := by
  show execSegmentRecordEnqueue t tn c s = _
  simp only [execSegmentRecordEnqueue, hstep, hjob, if_true]

end

/-- Settles O25: the fetch, and each opcode of a descriptor whose turn it is. -/
theorem descriptorsRunAtTheirTurn : Obligations.DescriptorsRunAtTheirTurn := by
  intro s t sq u
  refine ⟨fun i => exec_descriptorFetch_picks, fun j h => next_started h rfl, fun j => exec_badOpcode_unknown, ?actions,
    fun j h hwait => next_started h (if_pos hwait), fun j => exec_abort_first, ?segments⟩
  case actions =>
    intro j v hnow
    exact ⟨next_action hnow, next_action hnow, next_action hnow, next_action hnow, next_action hnow, next_action hnow⟩
  case segments =>
    intro tn c r v hstep
    refine ⟨fun hr => ?_, fun id done j hr hjob => ?_⟩
    · subst hr
      exact exec_segmentRecordEnqueue_none hstep
    · subst hr
      exact exec_segmentRecordEnqueue_bad hstep hjob

/-! ### Doorbells and rings -/

section

variable {u : State} {off half be v : Nat}

/-- A doorbell written whole acts at once where the host interface is on and nothing is journaled. -/
theorem State.bellWrite_whole (hbe : be = if off % 4096 = 0x800 && half = 0 then 255 else 15) (hon : u.hostIfOn = true)
    (hnow : u.journaling = false) : u.bellWrite off half be v = u.bellNow off half v := by
  unfold State.bellWrite
  rw [if_neg (not_not_intro hbe), if_neg (by rw [hon]; exact Bool.false_ne_true), if_neg (ne_true_of_eq_false hnow)]

theorem State.bellWrite_partial (hbe : be ≠ if off % 4096 = 0x800 && half = 0 then 255 else 15) :
    u.bellWrite off half be v = u.wr F.ID_STATUS_BAD_ACCESS 0 1 :=
  if_pos hbe

/-- A doorbell at the offset of an index has four bytes. -/
theorem index_bytes {x : Nat} (hx : off % 4096 = x) (hne : x ≠ 0x800) :
    (if off % 4096 = 0x800 && half = 0 then 255 else 15) = 15 := by
  simp [hx, hne]

theorem State.ringEnable_off {k i : Nat} (hoff : u.on F.RING_CFG_EN (ringIx k i) = false) :
    let v := u.dropReads (fun x => x.ofRing k i)
    let w := if k = rkComp then v.entriesBack i else v
    u.ringEnable k i = (((w.setRing k i {}).wr F.RING_CFG_EN (ringIx k i) 1).wr F.RING_ERR_HALTED (ringIx k i) 0).wr
      F.RING_ERR_CAUSE (ringIx k i) 0 :=
  if_neg (ne_true_of_eq_false hoff)

theorem State.ringDisable_index {k i : Nat} (hon : u.on F.RING_CFG_EN (ringIx k i) = true) (hk : k ≠ rkRec) :
    u.ringDisable k i = u.wr F.RING_CFG_EN (ringIx k i) 0 := by
  simp only [State.ringDisable, hon, hk, Bool.not_true, Bool.false_eq_true, if_false]

theorem State.recFlush_due {i : Nat} {b : RecBuf} (hbuf : (u.ring rkRec i).buf = some b) (hon : u.ringOn rkRec i = true)
    (hfree : u.compBlocked (u.boundTo rkRec i) = false)
    (hdue : b.since + u.rd F.RING_FLUSH_FLUSH (ringIx rkRec i) * usF ≤ u.now) : u.recFlush i = u.recClose i := by
  simp only [State.recFlush, hbuf, hon, hfree, hdue, Bool.not_false, Bool.and_true, decide_true, if_true]

theorem exec_completionIrqTimer_due {s : State} {t a : Nat} {r : Fin 256}
    (hfirst : ((s.at_ t).ring rkComp r.val).firstAt = some a)
    (hen : (s.at_ t).on F.RING_COAL_IRQ_EN (ringIx rkComp r.val) = true)
    (hdue : a + (s.at_ t).rd F.RING_COAL_TIME (ringIx rkComp r.val) * usF ≤ (s.at_ t).now) :
    let u := s.at_ t
    exec (.completionIrqTimer t r) s = .next
      ((u.setRing rkComp r.val { u.ring rkComp r.val with unsig := 0, firstAt := none }).signal
        (u.rd F.RING_CFG_VECTOR (ringIx rkComp r.val))) := by
  show execCompletionIrqTimer t r s = _
  simp only [execCompletionIrqTimer, hfirst]
  exact next_pos (and_eq_true_of hen (decide_eq_true hdue))

end

/-- Settles O26: the four doorbells by their bytes, then the rings' switches and timers. -/
theorem doorbellsAndRings : Obligations.DoorbellsAndRings := by
  intro s t u
  refine ⟨fun p v hon hnow => ⟨?_, ?_, fun j => ?_, fun w => ?_⟩, fun p be v hbe => ?_,
    fun k r hex => ⟨fun hoff => next_reached hex (State.ringEnable_off hoff),
      fun hon hk => next_reached hex (State.ringDisable_index hon hk)⟩,
    fun r a => exec_completionIrqTimer_due,
    fun r b hbuf hon hfree hdue => congrArg Host.Outcome.next (State.recFlush_due hbuf hon hfree hdue),
    fun r => rfl, fun r => rfl⟩
  · exact congrArg Host.Outcome.next
      (State.bellWrite_whole (index_bytes (x := 0) (by omega) (by decide)).symm hon hnow)
  · exact congrArg Host.Outcome.next
      (State.bellWrite_whole (index_bytes (x := 8) (by omega) (by decide)).symm hon hnow)
  · exact congrArg Host.Outcome.next
      (State.bellWrite_whole (index_bytes (x := 0x10 + j.val * 8) (by omega) (by omega)).symm hon hnow)
  · have hoff : (p.val * 4096 + 0x800) % 4096 = 0x800 := by omega
    exact congrArg Host.Outcome.next (State.bellWrite_whole (by rw [hoff]; rfl) hon hnow)
  · have hbe' : be.toNat ≠ 15 := fun h => hbe (BitVec.eq_of_toNat_eq h)
    exact ⟨congrArg Host.Outcome.next
        (State.bellWrite_partial (by rw [index_bytes (x := 0) (by omega) (by decide)]; exact hbe')),
      congrArg Host.Outcome.next
        (State.bellWrite_partial (by rw [index_bytes (x := 8) (by omega) (by decide)]; exact hbe'))⟩

end Sys2Proof.Machine
end

