-- ==== Sys2Proof/Proofs/Ports.lean ====
section
/-! PROOF. The ports of the fabric (chapter 16): how they come up and go down, the link's retry, and the forwarding of
frames. -/

namespace Sys2Proof.Machine

open Sys2Proof

/-! ### Ports up and down -/

section

variable {u : State} {p : Nat}

/-- A port in use that is down starts INIT once its lanes are good. -/
theorem State.portStart_down (hused : u.portUsed p = true) (hgood : u.lanesGood p = true) (hdown : (u.port p).state = poDown) :
    u.portStart p = u.setPort p { state := poInit } :=
  if_pos (by rw [hused, hgood, hdown]; rfl)

/-- A port that has exchanged LINK_INIT comes up on equal widths. -/
theorem State.portTry_ready {x : Port} (hinit : x.state = poInit) (hgot : x.gotInit = true) (hsent : x.sentAfter = true) :
    (u.setPort p x).portTry p = if x.peerWidth = u.rd F.FAB_PORT_WIDTH (p % 8) then
      ((u.setPort p x).setPort p { x with state := poUp }).portPump p (x.waiting.length + 1)
      else (u.setPort p x).portStick F.FAB_PORT_WIDTH_MISMATCH 2 p := by
  have hport : (u.setPort p x).port p = x := State.port_setPort_same u p x
  have hready : (decide (x.state = poInit) && x.gotInit && x.sentAfter) = true :=
    and_eq_true_of (and_eq_true_of (decide_eq_true hinit) hgot) hsent
  simp only [State.portTry, hport, hready, if_true]
  rfl

theorem State.portDown_unacked (hup : (u.port p).state = poUp) (hwait : (u.port p).waiting = [])
    (hunacked : (u.port p).unacked ≠ []) :
    u.portDown p = (((((u.setPort p { state := poDown, waiting := [] }).portCount F.FAB_PORT_DISCARDS p
      (u.port p).unacked.length).reroute p).portStick F.FAB_PORT_REROUTE 3 p).portStick F.FAB_PORT_DOWN 0 p) := by
  simp only [State.portDown, hup, hwait, hunacked, ne_eq, not_true, decide_false, decide_true, Bool.false_and, Bool.and_false,
    Bool.false_eq_true, if_false]

theorem State.portDown_down (hdown : (u.port p).state = poDown) : u.portDown p = u :=
  if_pos (by rw [hdown]; rfl)

end

section

variable {s : State} {t : Nat} {p : Fin 16}

theorem exec_linkInitTimer_down (hused : (s.at_ t).portUsed p.val = true) (hgood : (s.at_ t).lanesGood p.val = true)
    (hdown : ((s.at_ t).port p.val).state = poDown) :
    exec (.linkInitTimer t p) s =
      .next (((((s.at_ t).setPort p.val { state := poInit }).sendInit p.val).portTry p.val)) := by
  show execLinkInitTimer t p s = _
  simp only [execLinkInitTimer, State.portStart_down hused hgood hdown, State.port_setPort_same, decide_true,
    Bool.false_and, Bool.not_false, Bool.and_true, if_true]

/-- LINK_INIT of a partner that is no standby, received where the exchange is complete. -/
theorem exec_linkInit_ready {node : BitVec 16} {pp : Fin 8} {width : BitVec 2} {die : Bool} {credits : BitVec 64}
    (hinit : ((s.at_ t).port p.val).state = poInit) (hgot : ((s.at_ t).port p.val).gotInit = true)
    (hsent : ((s.at_ t).port p.val).sentAfter = true) :
    let u := s.at_ t
    let y := { u.port p.val with
      peerNode := node.toNat, peerPort := pp.val, peerDie := b2n die, peerStandby := false, peerWidth := width.toNat
      credits := (List.range 4).map (fun v => bitsAt credits.toNat (16 * v) 16) }
    exec (.linkInit t p node pp width die false credits) s = .next (if width.toNat = u.rd F.FAB_PORT_WIDTH (p.val % 8) then
      ((u.setPort p.val y).setPort p.val { y with state := poUp }).portPump p.val (y.waiting.length + 1)
      else (u.setPort p.val y).portStick F.FAB_PORT_WIDTH_MISMATCH 2 p.val) := by
  intro u y
  have htry := State.portTry_ready (u := u) (p := p.val) (x := y) hinit hgot hsent
  refine Eq.trans ?_ (congrArg Host.Outcome.next htry)
  show execLinkInit t p node pp width die false credits s = _
  simp only [execLinkInit, hinit, hgot, ne_eq, not_true, decide_false, Bool.false_and, Bool.false_eq_true, if_false, if_true, u,
    y]

end

/-- Settles O30: the port's start, its partner's LINK_INIT, and its end. -/
theorem portsComeUpAndGoDown : Obligations.PortsComeUpAndGoDown := by
  intro s t p u x
  refine ⟨exec_linkInitTimer_down, fun node pp width die standby credits hinit hup => next_pos ?_, ?init,
    fun hup hwait hunacked => congrArg Host.Outcome.next (State.portDown_unacked hup hwait hunacked),
    fun hdown => congrArg Host.Outcome.next (State.portDown_down hdown)⟩
  · exact and_eq_true_of (decide_eq_true hinit) (decide_eq_true hup)
  case init =>
    intro node pp width die credits hinit hgot hsent y
    exact ⟨fun hwidth => (exec_linkInit_ready hinit hgot hsent).trans (next_pos hwidth),
      fun hwidth => (exec_linkInit_ready hinit hgot hsent).trans (next_neg hwidth)⟩

/-! ### The link's retry -/

/-- LINK_CTL on an UP port drops what it acknowledges, adds its credits, and with NAK replays the rest. -/
theorem exec_linkCtl_up {s : State} {t : Nat} {p : Fin 16} {ack : BitVec 12} {nak : Bool} {credits : BitVec 64}
    (hup : ((s.at_ t).port p.val).state = poUp) :
    let u := s.at_ t
    let x := u.port p.val
    let left := ackLeaves (if nak then (ack.toNat + 4095) % 4096 else ack.toNat) x.unacked
    let y := { x with
      unacked := left
      replays := if left.length < x.unacked.length then 0 else x.replays
      since := if left.length < x.unacked.length then u.now else x.since
      credits := (List.range 4).map (fun v => x.credits.getD v 0 + bitsAt credits.toNat (16 * v) 16) }
    exec (.linkCtl t p ack nak credits) s = .next
      ((if nak then (u.setPort p.val y).replay p.val else u.setPort p.val y).portPump p.val (x.waiting.length + 1)) := by
  show execLinkCtl t p ack nak credits s = _
  simp only [execLinkCtl, hup, ne_eq, not_true, if_false, decide_eq_true_eq]

/-- Settles O31: LINK_CTL with and without NAK, the two timers, and the three kinds of frames in error. -/
theorem linkRetryReplaysInOrder : Obligations.LinkRetryReplaysInOrder := by
  intro s t p u x
  refine ⟨fun ack nak credits hstate => next_pos hstate, fun ack credits hup => exec_linkCtl_up (nak := false) hup,
    fun ack credits hup => exec_linkCtl_up (nak := true) hup, fun hup => next_pos hup,
    fun hup hunacked => ⟨fun hdue => ?_, fun hnot => ?_⟩,
    fun lseq vc len hup hnak => congrArg Host.Outcome.next (if_neg ?_), fun lseq vc len => rfl,
    fun lseq vc len v htake => ?_⟩
  · exact next_pos (and_eq_true_of (and_eq_true_of (decide_eq_true hup) (bne_iff_ne.mpr hunacked)) (decide_eq_true hdue))
  · exact next_neg fun h => absurd (of_decide_eq_true (Bool.and_eq_true_iff.mp h).2) (Nat.not_le.mpr hnot)
  · rw [show (u.port p.val).state = poUp from hup, show (u.port p.val).nak = false from hnak]
    exact Bool.false_ne_true
  · show execFrameRxError t p 2 lseq vc len s = _
    have htake' : (s.at_ t).rxTake p.val lseq.toNat = (true, v) := htake
    simp only [execFrameRxError, htake', if_true]

/-! ### Forwarding -/

section

variable {s : State} {t : Nat} {p : Fin 16}

/-- A frame for another node, taken in order. -/
theorem exec_frameForward_taken {lseq : BitVec 12} {dest src : BitVec 16} {vc : Fin 4} {ty hops : BitVec 6}
    {first last : Bool} {tag : BitVec 14} {aux : BitVec 32} {words : List (BitVec 64)} {v : State}
    (hdest : dest.toNat ≠ (s.at_ t).nodeId) (hall : dest.toNat ≠ 0xFFFF)
    (htake : (s.at_ t).rxTake p.val lseq.toNat = (true, v)) :
    let f : Frame := {
      dest := dest.toNat, src := src.toNat, vc := vc.val, ty := ty.toNat, hops := hops.toNat - 1, first := first
      last := last, tag := tag.toNat, aux := aux.toNat, words := words.map BitVec.toNat }
    exec (.frameForward t p lseq dest src vc ty hops first last tag aux words) s =
      .next (if frVc ty.toNat ≠ some vc.val then (v.giveCredits p.val vc.val f.credits).fabDrop F.FAB_DROP_BAD_TYPE
        else if hops.toNat < 2 then (v.giveCredits p.val vc.val f.credits).fabDrop F.FAB_DROP_HOP
        else routeW State.raise v f (some p.val)) := by
  show execFrameForward t p lseq dest src vc ty hops first last tag aux words s = _
  simp only [execFrameForward, hdest, hall, htake, decide_false, Bool.or_false, Bool.not_true, Bool.false_eq_true, if_false]

theorem exec_dwellExpiry_one {w : Waiting} (hwait : ((s.at_ t).port p.val).waiting = [w]) :
    let u := s.at_ t
    exec (.dwellExpiry t p) s = .next (if w.since + u.rd F.FAB_CFG_DWELL_MAX 0 * usF ≤ u.now then
      ((u.setPort p.val { u.port p.val with waiting := [] }).leftBuffer w).fabDrop F.FAB_DROP_DWELL
      else u.setPort p.val { u.port p.val with waiting := [w] }) := by
  show execDwellExpiry t p s = _
  by_cases hold : w.since + (s.at_ t).rd F.FAB_CFG_DWELL_MAX 0 * usF ≤ (s.at_ t).now
  · simp only [execDwellExpiry, hwait, List.filter_cons, List.filter_nil, hold, decide_true, Bool.not_true, Bool.false_eq_true,
      if_true, if_false, List.foldl_cons, List.foldl_nil]
  · simp only [execDwellExpiry, hwait, List.filter_cons, List.filter_nil, hold, decide_false, Bool.not_false,
      Bool.false_eq_true, if_true, if_false, List.foldl_nil]

end

/-- Settles O33: a frame for another node goes on or is dropped, and so does a frame that waits. -/
theorem framesAreForwardedOrDropped : Obligations.FramesAreForwardedOrDropped := by
  intro s t p u
  refine ⟨?forward, fun lseq dest src vc ty hops first last tag aux words hdest => next_pos ?_,
    fun w hwait => ⟨fun hold => (exec_dwellExpiry_one hwait).trans (next_pos hold),
      fun hyoung => (exec_dwellExpiry_one hwait).trans ((next_neg (Nat.not_le.mpr hyoung)).trans ?_)⟩⟩
  case forward =>
    intro lseq dest src vc ty hops first last tag aux words v f hdest hall htake
    have htaken := exec_frameForward_taken (src := src) (vc := vc) (ty := ty) (hops := hops) (first := first) (last := last)
      (tag := tag) (aux := aux) (words := words) hdest hall htake
    exact ⟨fun hvc hhops => htaken.trans ((next_neg (not_not_intro hvc)).trans (next_neg (Nat.not_lt.mpr hhops))),
      fun hvc hhops => htaken.trans ((next_neg (not_not_intro hvc)).trans (next_pos hhops)),
      fun hvc => htaken.trans (next_pos hvc)⟩
  · rw [decide_eq_true hdest, Bool.true_or]
  · rw [← hwait]

end Sys2Proof.Machine
end

