-- ==== Sys2Proof/Proofs/Gateway.lean ====
section
/-! PROOF. The traffic of the gateway (chapters 14 and 16): vectors, PCIe reads, resends and holds, host resets. -/

namespace Sys2Proof.Machine

open Sys2Proof

section

variable {s : State} {t : Nat}

/-- A completion without error: it delivers the words of a read that asked for no more, or the read asks on. -/
theorem exec_pcieReadCompletion_own {tag : BitVec 10} {d : List (BitVec 64)} {r : PcieRead} {g k : Nat} {err : Bool}
    (hread : (s.at_ t).pcieReads.find? (fun r => r.tag == some tag.toNat) = some r) (hown : r.own = some (g, k)) :
    let u := s.at_ t
    let v := ({ u with pcieReads := u.pcieReads.filter (fun x => x != r) } : State).pcieIssue 1
    let got := r.got ++ (d.map BitVec.toNat).take (r.asked - r.got.length)
    exec (.pcieReadCompletion t tag err d) s = .next (if !err && r.asked < r.words then
      ({ u with pcieReads := u.pcieReads.map (fun x => if x = r then { r with tag := none, got := got } else x) } :
        State).pcieIssue 1
      else if err then v.partFailed g 1 else v.partDone g k got) := by
  show execPcieReadCompletion t tag err d s = _
  simp only [execPcieReadCompletion, hread, hown]

section

variable {p : Fin 256} {w tag tries since : Nat} (hflight : ((s.at_ t).bell p.val).flight = some (w, tag, tries, since))

include hflight

/-- A doorbell whose answer is late is sent again up to twice, with a hold on its page. -/
theorem exec_doorbellResendTimeout_late (hdue : since + (s.at_ t).rd F.HR_GW_PROXY_TIMEOUT 0 * usF ≤ (s.at_ t).now)
    (htries : tries < 2) :
    let u := s.at_ t
    let v : State := { u with holds := u.holds ++ [{
      addr := 0, bytes := 0, page := some p.val, until_ := u.now + u.rd F.HR_GW_PROXY_TIMEOUT 0 * usF }] }
    exec (.doorbellResendTimeout t p) s = .next
      ((v.setBell p.val { u.bell p.val with flight := some (w, tag, tries + 1, v.now) }).originate
        { dest := w % 2 ^ 16, vc := 1, ty := frDoorbell, tag := tag, words := [w] }) := by
  show execDoorbellResendTimeout t p s = _
  simp only [execDoorbellResendTimeout, hflight, Nat.not_lt.mpr hdue, htries, if_true, if_false]

end

end

/-- Settles O27: each command by its shared operation, the completions and resends by their case. -/
theorem gatewayTrafficIsResent : Obligations.GatewayTrafficIsResent := by
  intro s t u
  refine ⟨fun v => ?unmask, rfl, ?reads, rfl, ?holds, rfl, fun p w tag tries since => exec_doorbellResendTimeout_late,
    fun die hdie => ⟨next_pos hdie, next_pos hdie⟩, fun die hdie => ⟨next_neg hdie, next_neg hdie⟩⟩
  case unmask =>
    intro m
    exact ⟨fun hpba => next_pos hpba, fun hpba => next_neg hpba⟩
  case reads =>
    intro tag d r g k hread hown v got
    refine ⟨fun hall => ?_, fun hmore => ?_, ?_⟩
    · exact (exec_pcieReadCompletion_own hread hown).trans
        (next_neg fun h => absurd (of_decide_eq_true (Bool.and_eq_true_iff.mp h).2) (Nat.not_lt.mpr hall))
    · exact (exec_pcieReadCompletion_own hread hown).trans (next_pos (and_eq_true_of rfl (decide_eq_true hmore)))
    · exact exec_pcieReadCompletion_own (err := true) hread hown
  case holds => exact rfl

end Sys2Proof.Machine
end

