-- ==== Sys2Proof/Proofs/Lanes.lean ====
section
/-! PROOF. The lanes (chapter 15): training, losses, the power states, and the lane tests. -/

namespace Sys2Proof.Machine

open Sys2Proof

theorem or_eq_true_of {p q : Prop} [Decidable p] [Decidable q] (h : p ∨ q) : (decide p || decide q) = true :=
  Bool.or_eq_true_iff.mpr (h.imp decide_eq_true decide_eq_true)

theorem or_ne_true_of {p q : Prop} [Decidable p] [Decidable q] (hp : ¬p) (hq : ¬q) : ¬(decide p || decide q) = true := by
  rw [decide_eq_false hp, decide_eq_false hq]
  exact Bool.false_ne_true

/-! ### Training and losses -/

section

variable {u : State} {n : Nat}

theorem Lane.live_of_training {x : Lane} (h : x.state = laTraining) : x.live = true := by
  rw [Lane.live, h]
  rfl

theorem Lane.live_of_trained {x : Lane} (h : x.state = laActive ∨ x.state = laQuiet) : x.live = true := by
  rcases h with h | h <;> rw [Lane.live, h] <;> rfl

/-- A lane that does not receive only counts the bad headers. -/
theorem State.laneLoss_dead {c h : Nat} (hdead : (u.lane n).live = false) :
    u.laneLoss n c h = u.laneCount F.LANE_CNT_HDR_ERR n h :=
  if_pos (not_eq_true_of hdead)

/-- A receiving lane that loses signal or lock trains again, and one that was trained takes its port down. -/
theorem State.laneLoss_live {c h : Nat} (hlive : (u.lane n).live = true) (hc : c ≠ 2) :
    let v := (u.laneCount F.LANE_CNT_HDR_ERR n h).laneTrain n
    let r := v.setLane n { v.lane n with
      signal := c ≠ 0 && (u.lane n).signal, hiBer := false, berAt := (u.lane n).berAt }
    u.laneLoss n c h = if (u.lane n).state != laTraining then
      (((if r.ownDie n then r.tallyUp (0x70 + n % 8) else r).laneCount F.LANE_CNT_DOWNS n 1).laneGone n).laneStick
        F.LANE_STATUS_DOWN 0 n
      else r := by
  simp only [State.laneLoss, hlive, hc, Bool.not_true, Bool.false_eq_true, decide_false, if_false]

theorem State.rd_adapted (f : Fld) (i : Nat) : (u.adapted n).rd f i = u.rd f i := by
  simp only [State.adapted]
  split <;> rfl

theorem State.standbyPort_adapted (k : Nat) : (u.adapted n).standbyPort k = u.standbyPort k := by
  simp only [State.adapted]
  split <;> rfl

/-- The end of training of a lane with signal and lock: QUIET where PSTATE is 1 or on a standby's port, else ACTIVE. -/
theorem State.trainingDone_ready (htrain : (u.lane n).state = laTraining) (hsig : (u.lane n).signal = true)
    (hlock : (u.lane n).lock = true) (hber : (u.lane n).hiBer = false) (hiso : u.laneIso n = false) :
    let w := u.adapted n
    u.trainingDone n = (w.setLane n { w.lane n with
      state := if u.rd F.LANE_CTRL_PSTATE (n % 8) = 1 || u.standbyPort n then laQuiet else laActive }).portStart
        (w.portOfLane n) := by
  simp only [State.trainingDone, htrain, hsig, hlock, hber, hiso, decide_true, Bool.not_false, Bool.and_true, if_true,
    State.rd_adapted, State.standbyPort_adapted]

end

/-- Settles O34: the loss by whether the lane receives and was trained, then signal, lock, HI_BER and training. -/
theorem lanesTrainAndFall : Obligations.LanesTrainAndFall := by
  intro s t n u x
  refine ⟨?losses, fun hstate => next_pos (or_eq_true_of hstate),
    fun htrain hdeep => next_neg (or_ne_true_of htrain hdeep),
    fun hlive hsig hlock => next_pos (and_eq_true_of (and_eq_true_of hlive hsig) (not_eq_true_of hlock)),
    fun hber hdue => next_pos (and_eq_true_of hber (decide_eq_true hdue)),
    fun hnot => next_neg fun h => absurd (of_decide_eq_true (Bool.and_eq_true_iff.mp h).2) (Nat.not_le.mpr hnot), ?done,
    fun hiso hdeep => congrArg Host.Outcome.next (if_neg ?_),
    fun hiso => congrArg Host.Outcome.next (if_pos (by rw [hiso, Bool.true_or]))⟩
  case losses =>
    intro c h v
    refine ⟨fun hdead => congrArg Host.Outcome.next (State.laneLoss_dead hdead),
      fun htrain hc => congrArg Host.Outcome.next ((State.laneLoss_live (Lane.live_of_training htrain) hc).trans (if_neg ?_)),
      fun htrained hc => congrArg Host.Outcome.next ((State.laneLoss_live (Lane.live_of_trained htrained) hc).trans
        (if_pos ?_))⟩
    · rw [htrain]
      exact Bool.false_ne_true
    · rcases htrained with h | h <;> rw [h] <;> rfl
  case done =>
    intro htrain hsig hlock hber hiso w
    have hdone := State.trainingDone_ready htrain hsig hlock hber hiso
    refine ⟨fun hquiet => congrArg Host.Outcome.next (hdone.trans ?_),
      fun hps hstand => congrArg Host.Outcome.next (hdone.trans ?_)⟩
    · rw [if_pos (by simpa using hquiet)]
    · rw [if_neg (by simp [hps, hstand])]
  · rw [hiso, decide_eq_false hdeep]
    exact Bool.false_ne_true

/-! ### Power states and tests -/

section

variable {u : State} {n : Nat}

/-- A QUIET lane that is its port's only one and for which frames wait goes to ACTIVE and sends them. -/
theorem State.autoWake_alone (hquiet : (u.lane n).state = laQuiet) (hstand : u.standbyPort n = false)
    (hen : u.on F.LANE_CTRL_AUTO_WAKE (n % 8) = true) (hwait : (u.port (u.portOfLane n)).waiting ≠ [])
    (halone : u.portLanes (u.portOfLane n) = [n]) :
    u.autoWake n = ((u.setLane n { u.lane n with state := laActive }).wr F.LANE_CTRL_PSTATE (n % 8) 0).portPump
      (u.portOfLane n) ((u.port (u.portOfLane n)).waiting.length + 1) := by
  have hgo : (decide ((u.lane n).state = laQuiet) && u.on F.LANE_CTRL_AUTO_WAKE (n % 8)
      && (u.port (u.portOfLane n)).waiting != [] && !u.standbyPort n) = true :=
    and_eq_true_of (and_eq_true_of (and_eq_true_of (decide_eq_true hquiet) hen) (bne_iff_ne.mpr hwait))
      (not_eq_true_of hstand)
  refine (if_pos hgo).trans ?_
  simp only [halone, List.foldl_cons, List.foldl_nil, hquiet, if_true]

theorem State.autoWake_stays (h : (u.lane n).state ≠ laQuiet ∨ u.standbyPort n = true) : u.autoWake n = u := by
  refine if_neg fun hgo => ?_
  simp only [Bool.and_eq_true, decide_eq_true_eq, Bool.not_eq_true'] at hgo
  obtain ⟨⟨⟨hquiet, _⟩, _⟩, hstand⟩ := hgo
  rcases h with h | h
  · exact h hquiet
  · exact Bool.false_ne_true (hstand.symm.trans h)

theorem State.deepWake_awake (h : (u.lane n).state ≠ laDeep) : u.deepWake n = (false, u) := by
  refine if_neg fun hgo => ?_
  simp only [Bool.and_eq_true, decide_eq_true_eq] at hgo
  exact h hgo.1.1.1

theorem State.deepWake_wakes (hdeep : (u.lane n).state = laDeep) (hdet : u.on F.LANE_CTRL_WAKE_DET (n % 8) = true)
    (hsig : (u.lane n).signal = true) (hsince : (u.lane n).sigSince + 10 * usF ≤ u.now) :
    u.deepWake n = (true, ((u.deepExit n).wr F.LANE_CTRL_PSTATE (n % 8) 0).laneStick F.LANE_STATUS_WAKE 4 n) :=
  if_pos (and_eq_true_of (and_eq_true_of (and_eq_true_of (decide_eq_true hdeep) hdet) hsig) (decide_eq_true hsince))

section

variable {v : Nat} (hlive : (u.lane n).live = true) (hlock : (u.lane n).lock = true)

include hlive hlock

theorem State.trainRx_seeds (hseed : (u.lane n).prbs = none) :
    u.trainRx n v = u.setLane n { u.lane n with prbs := some (prbsAfter 0 (trainBits v)), frozen := false } := by
  simp only [State.trainRx, hlive, hlock, hseed, Bool.not_true, Bool.or_false, Bool.false_eq_true, if_false]

/-- A TRAIN block after a seeded checker continues the sequence or is counted. -/
theorem State.trainRx_checks {st : Nat} (hseed : (u.lane n).prbs = some st) :
    u.trainRx n v = if prbs31 st 56 = trainBits v then
      u.setLane n { u.lane n with prbs := some (prbsAfter st (trainBits v)), frozen := false }
      else ((u.setLane n { u.lane n with prbs := none }).laneCount F.LANE_CNT_TI_ERRS n 1).laneStick
        F.LANE_STATUS_TI_ERR 3 n := by
  simp only [State.trainRx, hlive, hlock, hseed, Bool.not_true, Bool.or_false, Bool.false_eq_true, if_false]

end

/-- The single-bit error of KIND 1. -/
theorem State.laneInject_single (hmay : u.laneIso n = true ∨ u.mode = mService) (hkind : u.rd F.LANE_INJ_KIND (n % 8) = 1) :
    u.laneInject n = u.send (.lineError n 1 (2 ^ u.rd F.LANE_INJ_INJ_POS (n % 8))) := by
  have hgo : (u.laneIso n || u.mode == mService) = true := by simpa using hmay
  simp [State.laneInject, hgo, hkind]

theorem State.laneInject_nothing (hiso : u.laneIso n = false) (hmode : u.mode ≠ mService) : u.laneInject n = u := by
  have hno : (u.laneIso n || u.mode == mService) = false := by simpa using ⟨hiso, hmode⟩
  exact if_pos (by rw [hno]; rfl)

/-- A test set on a lane that is not isolated is discarded. -/
theorem State.laneTestWrite_discarded {v : Nat} (hgen : bitAt v 4 = true) (hiso : u.laneIso n = false) :
    u.laneTestWrite n v = u :=
  if_pos (by rw [hgen, hiso]; rfl)

/-- A test set on an isolated lane whose checker does not run. -/
theorem State.laneTestWrite_tests {v : Nat} (hset : bitAt v 4 = true ∨ bitAt v 5 = true) (hiso : u.laneIso n = true)
    (hidle : u.checking n = false) :
    let w := (u.wrLegal F.LANE_TEST_PATTERN (n % 8) (bitsAt v 0 3)).wr F.LANE_TEST_INVERT (n % 8) (bitsAt v 3 1)
    let w := ((w.wr F.LANE_TEST_GEN_EN (n % 8) (bitsAt v 4 1)).wr F.LANE_TEST_CHK_EN (n % 8) (bitsAt v 5 1)).wr
      F.LANE_TEST_LOOP (n % 8) (legalValue F.LANE_TEST_LOOP (n % 8) (bitsAt v 8 2))
    u.laneTestWrite n v = w.setLane n { w.lane n with state := laTest } := by
  have hsets : (bitAt v 4 || bitAt v 5) = true := by simpa using hset
  simp only [State.laneTestWrite, hsets, hiso, hidle, Bool.true_or, Bool.not_true, Bool.and_false, Bool.false_and,
    Bool.false_eq_true, if_false, if_true]

end

theorem exec_deepWake_of_wake {s v : State} {t : Nat} {n : Fin 16} {woke : Bool}
    (h : (s.at_ t).deepWake n.val = (woke, v)) :
    exec (.deepWake t n) s = .next (if woke && v.on F.DORM_CFG_FAB_WAKE 0 then v.wakeBegin else v) := by
  show execDeepWake t n s = _
  simp only [execDeepWake, h]

/-- Settles O35: PSTATE, the wakes, training idles and their checker, the freeze, and the tests. -/
theorem lanesSleepWakeAndTest : Obligations.LanesSleepWakeAndTest := by
  intro s t n u x
  refine ⟨?pstate, fun h => congrArg Host.Outcome.next (State.autoWake_stays h),
    fun hquiet hstand hen hwait halone => congrArg Host.Outcome.next (State.autoWake_alone hquiet hstand hen hwait halone),
    fun h => exec_deepWake_of_wake (State.deepWake_awake h), ?wakes,
    fun hact hen => next_pos (and_eq_true_of (decide_eq_true hact) hen),
    fun b hlive hlock => ⟨fun hseed => congrArg Host.Outcome.next (State.trainRx_seeds hlive hlock hseed),
      fun st hseed hok => congrArg Host.Outcome.next ((State.trainRx_checks hlive hlock hseed).trans (if_pos hok)),
      fun st hseed hbad => congrArg Host.Outcome.next ((State.trainRx_checks hlive hlock hseed).trans (if_neg hbad))⟩,
    fun hlive hfree => next_pos (and_eq_true_of hlive (not_eq_true_of hfree)), ?exits, ?tests⟩
  case pstate =>
    intro v r
    exact ⟨fun hidle => congrArg Host.Outcome.next (if_neg (ne_true_of_eq_false hidle)),
      fun htest => congrArg Host.Outcome.next (if_pos htest)⟩
  case wakes =>
    intro hdeep hdet hsig hsince r
    exact exec_deepWake_of_wake (State.deepWake_wakes hdeep hdet hsig hsince)
  case exits =>
    intro w
    exact ⟨fun hkeep => congrArg (fun v : State => v.laneTrain n.val) (if_pos hkeep),
      fun hkeep => congrArg (fun v : State => v.laneTrain n.val) (if_neg (ne_true_of_eq_false hkeep))⟩
  case tests =>
    intro l m
    refine ⟨fun hmay hkind => congrArg Host.Outcome.next (State.laneInject_single hmay hkind),
      fun hiso hmode => congrArg Host.Outcome.next (State.laneInject_nothing hiso hmode), fun v =>
      ⟨fun hgen hiso => congrArg Host.Outcome.next (State.laneTestWrite_discarded hgen hiso), ?_⟩⟩
    intro hset hiso hidle w w'
    exact congrArg Host.Outcome.next (State.laneTestWrite_tests hset hiso hidle)

end Sys2Proof.Machine
end

