-- ==== Sys2Proof/Proofs/HostFrames.lean ====
section
/-! PROOF. The frames a node takes for its host (R415 to R422), and its doorbells, broadcasts and probes (chapter 16). -/

namespace Sys2Proof.Machine

open Sys2Proof

/-! ### Frames in order -/

section

variable {u v : State} {p l : Nat}

/-- The guard of every frame handler lets a frame in order through. -/
theorem not_blocked_of_arrives (h : Arrives u p l v) : ¬ (decide (u.nodeId = 0xFFFF) || !u.ownDie p) = true := by
  obtain ⟨hnode, hdie, -⟩ := h
  rw [decide_eq_false hnode, hdie]
  exact Bool.false_ne_true

/-- A frame that arrives in order is handled after its credits are given back. -/
theorem State.rxFor_taken (h : Arrives u p l v) (vc n : Nat) (f : State → State) :
    u.rxFor p l vc n f = f (credited v p vc n) := by
  refine (if_neg (not_blocked_of_arrives h)).trans ?_
  obtain ⟨-, -, htake⟩ := h
  rw [htake]
  rfl

end

/-! ### The host's frames -/

section

variable {s v : State} {t : Nat} {p : Fin 16} {lseq : BitVec 12}

/-- A read that joined the proxied reads: the high-water mark follows, and it may be issued. -/
def State.readProxied (x : State) : State :=
  (x.wr F.HR_PROXY_HIGH_WATER 0 (max (x.rd F.HR_PROXY_HIGH_WATER 0) (min proxyMax x.proxied))).pcieIssue 1

/-- A HOST_RD in order with a usable endpoint joins the proxied reads; its credits wait while too many are in flight. -/
theorem exec_hostRd_usable {src : BitVec 16} {tag : BitVec 14} {addr : BitVec 64} {bytes : BitVec 9}
    (h : Arrives (s.at_ t) p.val lseq.toNat v) :
    let r : PcieRead := {
      own := none, node := src.toNat, ftag := tag.toNat, inPort := p.val, addr := addr.toNat
      words := ceilDiv (clampN 8 256 bytes.toNat) 8 }
    let w : State := { v with pcieReads := v.pcieReads ++ [r] }
    exec (.hostRd t p lseq src tag addr bytes true) s =
      .next (if proxyMax ≤ w.proxied then { w with withheld := w.withheld ++ [(p.val, 1, ceilDiv (2 * 8 + 20) 64)] }
        else credited w p.val 1 2).readProxied := by
  have hblocked := not_blocked_of_arrives h
  obtain ⟨-, -, htake⟩ := h
  show execHostRd t p lseq src tag addr bytes true s = _
  simp only [execHostRd, hblocked, htake, Bool.not_true, Bool.false_eq_true, if_false, credited, State.readProxied]

theorem exec_hostRd_unusable {src : BitVec 16} {tag : BitVec 14} {addr : BitVec 64} {bytes : BitVec 9}
    (h : Arrives (s.at_ t) p.val lseq.toNat v) :
    exec (.hostRd t p lseq src tag addr bytes false) s =
      .next ((credited v p.val 1 2).reply p.val src.toNat frHostRdData tag.toNat Config.gwDownAux []) := by
  have hblocked := not_blocked_of_arrives h
  obtain ⟨-, -, htake⟩ := h
  show execHostRd t p lseq src tag addr bytes false s = _
  simp only [execHostRd, hblocked, htake, Bool.not_true, Bool.not_false, Bool.false_eq_true, if_false, if_true, credited]

/-- HOST_RD_DATA of a waiting read removes it and delivers its words, or fails it. -/
theorem exec_hostRdData_of {tag : BitVec 14} {err : Bool} {data : List (BitVec 64)} {r : FabRead}
    (h : Arrives (s.at_ t) p.val lseq.toNat v)
    (hread : (credited v p.val 2 data.length).fabReads.find? (fun r => r.tag == tag.toNat) = some r) :
    let w := credited v p.val 2 data.length
    let x : State := { w with fabReads := w.fabReads.filter (fun y => y.tag != r.tag) }
    exec (.hostRdData t p lseq tag err data) s =
      .next (if err then x.partFailed r.grp 1 else x.partDone r.grp r.part ((data.map BitVec.toNat).take r.words)) := by
  refine congrArg Host.Outcome.next ((State.rxFor_taken h 2 data.length _).trans ?_)
  simp only [hread]

theorem exec_hostAck_write {tag : BitVec 14} {x : FabWrite} (h : Arrives (s.at_ t) p.val lseq.toNat v)
    (hwrite : (credited v p.val 2 0).fabWrites.find? (fun y => y.sent && y.frame.tag == tag.toNat) = some x)
    (hentry : x.entry = none) :
    exec (.hostAck t p lseq tag) s = .next { credited v p.val 2 0 with
      fabWrites := (credited v p.val 2 0).fabWrites.filter (fun y => y != x) } := by
  refine congrArg Host.Outcome.next ((State.rxFor_taken h 2 0 _).trans ?_)
  simp only [hwrite, hentry]

theorem exec_hostAck_bell {tag : BitVec 14} {b : Nat × BellPage} (h : Arrives (s.at_ t) p.val lseq.toNat v)
    (hwrite : (credited v p.val 2 0).fabWrites.find? (fun y => y.sent && y.frame.tag == tag.toNat) = none)
    (hbell : (credited v p.val 2 0).bells.find? (fun b => (b.2.flight.map (fun f => f.2.1)) == some tag.toNat) = some b) :
    let w := credited v p.val 2 0
    exec (.hostAck t p lseq tag) s = .next ((w.setBell b.1 { w.bell b.1 with flight := none }).bellSend b.1) := by
  refine congrArg Host.Outcome.next ((State.rxFor_taken h 2 0 _).trans ?_)
  simp only [hwrite, hbell]

theorem exec_gwDownAnswer_read {tag : BitVec 14} {r : FabRead} (h : Arrives (s.at_ t) p.val lseq.toNat v)
    (hread : (credited v p.val 2 0).fabReads.find? (fun r => r.tag == tag.toNat) = some r) :
    let w := credited v p.val 2 0
    exec (.gwDownAnswer t p lseq tag) s = .next (({ w with
      fabReads := w.fabReads.filter (fun y => y.tag != r.tag) }.partFailed r.grp 2).hrStick F.HR_STATUS_GW_DOWN 2 0) := by
  refine congrArg Host.Outcome.next ((State.rxFor_taken h 2 0 _).trans ?_)
  simp only [hread]

theorem exec_gwDownAnswer_none {tag : BitVec 14} (h : Arrives (s.at_ t) p.val lseq.toNat v)
    (hread : (credited v p.val 2 0).fabReads.find? (fun r => r.tag == tag.toNat) = none)
    (hwrite : (credited v p.val 2 0).fabWrites.find? (fun y => y.sent && y.frame.tag == tag.toNat) = none) :
    exec (.gwDownAnswer t p lseq tag) s = .next (credited v p.val 2 0) := by
  refine congrArg Host.Outcome.next ((State.rxFor_taken h 2 0 _).trans ?_)
  simp only [hread, hwrite]

end

/-- Settles O36: requests are proxied or answered GW_DOWN, and the answers finish what they name. -/
theorem hostFramesAreProxiedAndAnswered : Obligations.HostFramesAreProxiedAndAnswered := by
  intro s t p lseq v u h
  have taken := fun vc n f => congrArg (Host.Outcome.next (φ := Fault) (ρ := Refusal))
    (State.rxFor_taken h vc n f)
  refine ⟨?requests, ?vectors, ?data, fun tag => ⟨fun x hwrite hentry => exec_hostAck_write h hwrite hentry,
    fun b hwrite hbell => exec_hostAck_bell h hwrite hbell, fun r hread => exec_gwDownAnswer_read h hread,
    fun hread hwrite => exec_gwDownAnswer_none h hread hwrite⟩⟩
  case requests =>
    intro src tag addr bytes r w
    have hread := exec_hostRd_usable (src := src) (tag := tag) (addr := addr) (bytes := bytes) h
    refine ⟨fun hroom => ?_, fun hfull => ?_, exec_hostRd_unusable h, fun w1 w2 => ⟨taken _ _ _, taken _ _ _⟩,
      fun data => ⟨taken _ _ _, taken _ _ _⟩⟩
    · exact hread.trans (congrArg (fun x => Host.Outcome.next (State.readProxied x)) (if_neg (Nat.not_le.mpr hroom)))
    · exact hread.trans (congrArg (fun x => Host.Outcome.next (State.readProxied x)) (if_pos hfull))
  case vectors =>
    exact fun vec => ⟨taken _ _ _, taken _ _ _, fun body => ⟨taken _ _ _, taken _ _ _⟩⟩
  case data =>
    intro tag data r w hread x
    exact ⟨exec_hostRdData_of (err := false) h hread, exec_hostRdData_of (err := true) h hread⟩

/-! ### Doorbells, broadcasts and probes -/

section

variable {s v : State} {t : Nat} {p : Fin 16} {lseq : BitVec 12}

/-- The broadcasts a node still remembers: those of the last 10 ms. -/
def State.seenLately (x : State) : List Seen := x.seen.filter (fun y => decide (x.now < y.at_ + 10 * msF))

/-- A frame on its way out of every other available port of the die that acts. -/
def State.floodFrom (x : State) (p : Nat) (f : Frame) : State :=
  (List.range 8).foldl (fun s k =>
    if s.portBase + k ≠ p && s.available (s.portBase + k) then s.portPut (s.portBase + k) f none else s) x

/-- A trigger broadcast in order: seen already, or acted on and sent on while it has hops left. -/
theorem exec_bcast_trigger {src : BitVec 16} {tag : BitVec 14} {hops : BitVec 6} {w0 w1 : BitVec 64}
    (hdie : (s.at_ t).ownDie p.val = true) (htake : (s.at_ t).rxTake p.val lseq.toNat = (true, v)) :
    let x := credited v p.val 0 2
    let live := x.seenLately
    let acted := { x with
      seen := (live ++ [({ src := src.toNat, tag := tag.toNat, at_ := x.now } : Seen)]).drop (live.length + 1 - 64) }.triggerMask
        (bitsAt w1.toNat 16 6) (w0.toNat + w1.toNat % 2 ^ 16 * 2 ^ 64)
    exec (.bcast t p lseq src tag hops 1 w0 w1) s =
      .next (if live.any (fun y => y.src == src.toNat && y.tag == tag.toNat) then { x with seen := live }
        else if hops.toNat < 2 then acted.fabDrop F.FAB_DROP_HOP
        else acted.floodFrom p.val {
          dest := 0xFFFF, src := src.toNat, vc := 0, ty := frBcast, hops := hops.toNat - 1, tag := tag.toNat, aux := 1
          words := [w0.toNat, w1.toNat] }) := by
  have hkind : (1 : BitVec 32).toNat % 256 = 1 := by decide
  have hnot2 : ¬(1 : Nat) = 2 := by decide
  show execBcast t p lseq src tag hops 1 w0 w1 s = _
  simp only [execBcast, hdie, htake, hkind, hnot2, Bool.not_true, Bool.false_eq_true, if_false, if_true]
  rfl

/-- PROBE without an assignment sends its frame on the port of its route's first digit, where that is UP. -/
theorem exec_probe_unarmed {sq : Fin 256} {j : Job} {tag : Nat} {x : State} (h : Started (s.at_ t) sq.val 0x60 j)
    (harm : (s.at_ t).on F.FAB_ASSIGN_ARM 0 = false)
    (htag : (((s.at_ t).setJob j).wr F.FAB_ASSIGN_ARM 0 0).newTag = (tag, x)) :
    let y := x.setJob { j with tag := tag + 1, since := x.now }
    let route := j.w 2 + bitsAt (j.w 3) 0 8 * 2 ^ 64
    exec (.probe t sq) s =
      .next (if y.nodeId ≠ 0xFFFF && (y.port (y.portBase + routeDigit route 0)).state == poUp then
        y.portPut (y.portBase + routeDigit route 0) {
          dest := 0xFFFF, src := y.nodeId, vc := 0, ty := frProbe, hops := 24, tag := tag
          words := [route % 2 ^ 64,
            route / 2 ^ 64 + clampN 1 24 (bitsAt (j.w 1) 0 5) * 2 ^ 8 + 0xFFFF * 2 ^ 16, 0, 0] } none else y) := by
  have harm' : ((s.at_ t).setJob j).on F.FAB_ASSIGN_ARM 0 = false := harm
  refine next_started h ?_
  simp only [harm', htag, Bool.false_eq_true, if_false]

/-- A probe frame in order at its last hop, of a node that has an ID, is answered on the port it came by. -/
theorem exec_probeFrame_last {src assign : BitVec 16} {tag : BitVec 14} {left : BitVec 6} {fwd rev : BitVec 72}
    {hops i : BitVec 5} (htake : (s.at_ t).rxTake p.val lseq.toNat = (true, v)) (hlast : i.toNat + 1 = hops.toNat)
    (hnode : v.nodeId ≠ 0xFFFF) :
    exec (.probeFrame t p lseq src tag left fwd hops i assign rev) s =
      .next ((v.giveCredits p.val 0 (ceilDiv (4 * 8 + 20) 64)).portPut p.val {
        dest := 0xFFFF, src := v.nodeId, vc := 0, ty := frProbeRsp, hops := 24, tag := tag.toNat
        words := v.probeBody p.val (i.toNat + 1) false false } none) := by
  show execProbeFrame t p lseq src tag left fwd hops i assign rev s = _
  simp only [execProbeFrame, htake, hlast, hnode, decide_false, Bool.false_and, Bool.not_true, Bool.false_eq_true, if_false,
    if_true]

theorem exec_probeFrame_stopped {src assign : BitVec 16} {tag : BitVec 14} {left : BitVec 6} {fwd rev : BitVec 72}
    {hops i : BitVec 5} (htake : (s.at_ t).rxTake p.val lseq.toNat = (true, v)) (hlast : i.toNat + 1 ≠ hops.toNat)
    (hdown : (v.port (p.val / 8 * 8 + routeDigit fwd.toNat (i.toNat + 1))).state ≠ poUp) :
    exec (.probeFrame t p lseq src tag left fwd hops i assign rev) s =
      .next ((v.giveCredits p.val 0 (ceilDiv (4 * 8 + 20) 64)).portPut p.val {
        dest := 0xFFFF, src := v.nodeId, vc := 0, ty := frProbeRsp, hops := 24, tag := tag.toNat
        words := v.probeBody p.val (i.toNat + 1) false true } none) := by
  show execProbeFrame t p lseq src tag left fwd hops i assign rev s = _
  simp only [execProbeFrame, htake, hlast, hdown, ne_eq, not_false_eq_true, Bool.not_true, Bool.false_eq_true, if_false, if_true]

theorem exec_probeRsp_unasked {tag : BitVec 14} {ws : List (BitVec 64)}
    (htake : (s.at_ t).rxTake p.val lseq.toNat = (true, v))
    (hnone : (v.giveCredits p.val 0 (ceilDiv (6 * 8 + 20) 64)).jobs.find? (fun j => j.op == 0x60 && j.tag == tag.toNat + 1)
      = none) :
    exec (.probeRsp t p lseq tag ws) s = .next (v.giveCredits p.val 0 (ceilDiv (6 * 8 + 20) 64)) := by
  show execProbeRsp t p lseq tag ws s = _
  simp only [execProbeRsp, htake, hnone, Bool.not_true, Bool.false_eq_true, if_false]

theorem exec_probeRsp_asked {tag : BitVec 14} {ws : List (BitVec 64)} {j : Job}
    (htake : (s.at_ t).rxTake p.val lseq.toNat = (true, v))
    (hjob : (v.giveCredits p.val 0 (ceilDiv (6 * 8 + 20) 64)).jobs.find? (fun j => j.op == 0x60 && j.tag == tag.toNat + 1)
      = some j) :
    let x := v.giveCredits p.val 0 (ceilDiv (6 * 8 + 20) 64)
    exec (.probeRsp t p lseq tag ws) s =
      .next ((if addr8 (j.w 4) = 0 then x else x.hostPut rkJob j.sq j.slot (addr8 (j.w 4))
        ((ws.map BitVec.toNat).take 6)).commit j stDone 48) := by
  show execProbeRsp t p lseq tag ws s = _
  simp only [execProbeRsp, htake, hjob, Bool.not_true, Bool.false_eq_true, if_false]

end

/-- Settles O37: the doorbell, the broadcast's three cases, and the probe's frames. -/
theorem doorbellsBroadcastsAndProbesAct : Obligations.DoorbellsBroadcastsAndProbesAct := by
  intro s t p lseq v u
  refine ⟨fun src tag w h => ⟨fun hnow => ?_, fun hwait => ?_⟩, ?broadcast, ?probe,
    fun src tag left fwd hops i assign rev htake => ⟨exec_probeFrame_last htake, exec_probeFrame_stopped htake,
      fun ws => ⟨exec_probeRsp_unasked htake, fun j hjob => exec_probeRsp_asked htake hjob⟩⟩⟩
  · refine congrArg Host.Outcome.next ((State.rxFor_taken h 1 1 _).trans ?_)
    exact congrArg (fun x => State.reply x p.val src.toNat frHostAck tag.toNat 0 []) (if_neg (ne_true_of_eq_false hnow))
  · refine congrArg Host.Outcome.next ((State.rxFor_taken h 1 1 _).trans ?_)
    exact congrArg (fun x => State.reply x p.val src.toNat frHostAck tag.toNat 0 []) (if_pos hwait)
  case broadcast =>
    intro src tag hops w0 w1 hdie htake x live
    have hbcast := exec_bcast_trigger (src := src) (tag := tag) (hops := hops) (w0 := w0) (w1 := w1) hdie htake
    exact ⟨fun hseen => hbcast.trans (next_pos hseen),
      fun hnew hhops => hbcast.trans ((next_neg (ne_true_of_eq_false hnew)).trans (next_neg (Nat.not_lt.mpr hhops))),
      fun hnew hhops => hbcast.trans ((next_neg (ne_true_of_eq_false hnew)).trans (next_pos hhops))⟩
  case probe =>
    intro sq j h harm w tag x htag hnode y route hup
    exact (exec_probe_unarmed h harm htag).trans (next_pos (and_eq_true_of (decide_eq_true hnode) (beq_iff_eq.mpr hup)))

end Sys2Proof.Machine
end

