-- ==== Sys2Proof/Proofs/FabricRecords.lean ====
section
/-! PROOF. Records across the fabric (R468, R469): what a forwarder takes and sends again, and what the receiver takes. -/

namespace Sys2Proof.Machine

open Sys2Proof

section

variable {s : State} {t : Nat} {f : Fin 64}

theorem exec_forwarderTake_full (h : 16 ≤ ((s.at_ t).fwd f.val).unacked.length) :
    exec (.forwarderTake t f) s = .next (s.at_ t) := by
  refine next_pos ?_
  rw [decide_eq_true h, Bool.or_true, Bool.true_or]

/-- An enabled forwarder with a destination and room lets the next packet through. -/
theorem not_forwarder_blocked (hen : (s.at_ t).on F.FAB_FWD_EN f.val = true)
    (hdest : (s.at_ t).rd F.FAB_FWD_DEST_NODE f.val ≠ 0xFFFF) (hnode : (s.at_ t).nodeId ≠ 0xFFFF)
    (hroom : ((s.at_ t).fwd f.val).unacked.length < 16) (hback : ((s.at_ t).fwd f.val).back = false) :
    ¬ (!(s.at_ t).on F.FAB_FWD_EN f.val || decide ((s.at_ t).rd F.FAB_FWD_DEST_NODE f.val = 0xFFFF) ||
      decide ((s.at_ t).nodeId = 0xFFFF) || decide (16 ≤ ((s.at_ t).fwd f.val).unacked.length) ||
      ((s.at_ t).fwd f.val).back) = true := by
  rw [hen, hback, decide_eq_false hdest, decide_eq_false hnode, decide_eq_false (Nat.not_le.mpr hroom)]
  exact Bool.false_ne_true

theorem exec_forwarderTake_none (hen : (s.at_ t).on F.FAB_FWD_EN f.val = true)
    (hdest : (s.at_ t).rd F.FAB_FWD_DEST_NODE f.val ≠ 0xFFFF) (hnode : (s.at_ t).nodeId ≠ 0xFFFF)
    (hroom : ((s.at_ t).fwd f.val).unacked.length < 16) (hback : ((s.at_ t).fwd f.val).back = false)
    (hpick : (s.at_ t).readerPick 4 f.val = none) : exec (.forwarderTake t f) s = .next (s.at_ t) := by
  refine (next_neg (not_forwarder_blocked hen hdest hnode hroom hback)).trans ?_
  simp only [hpick]

/-- The packet taken is numbered NEXT_FSEQ, joins the records that are not acknowledged, and is sent. -/
theorem exec_forwarderTake_packet {q : Nat} {r : Rec} {ws : List Nat} {v : State}
    (hen : (s.at_ t).on F.FAB_FWD_EN f.val = true)
    (hdest : (s.at_ t).rd F.FAB_FWD_DEST_NODE f.val ≠ 0xFFFF) (hnode : (s.at_ t).nodeId ≠ 0xFFFF)
    (hroom : ((s.at_ t).fwd f.val).unacked.length < 16) (hback : ((s.at_ t).fwd f.val).back = false)
    (hpick : (s.at_ t).readerPick 4 f.val = some q) (htake : (s.at_ t).takePkt q = (some (r, ws), v)) :
    let x := (s.at_ t).fwd f.val
    let w := v.readerTook 4 f.val q
    let n := w.rd F.FAB_FWD_NEXT_FSEQ f.val
    exec (.forwarderTake t f) s = .next (((w.setFwd f.val { x with
      unacked := x.unacked ++ [{ fseq := n, queue := q, words := ws }]
      since := if x.unacked = [] then w.now else x.since }).wr F.FAB_FWD_NEXT_FSEQ f.val (n + 1)).fwdSend f.val
        { fseq := n, queue := q, words := ws }) := by
  refine (next_neg (not_forwarder_blocked hen hdest hnode hroom hback)).trans ?_
  simp only [hpick, htake]

end

/-- A RECORD frame in order reaches its slot; its credits wait while a record of the slot does. -/
theorem exec_record_taken {s v : State} {t : Nat} {p : Fin 16} {lseq : BitVec 12} {src : BitVec 16} {tag : BitVec 14}
    {first last : Bool} {slot fwd : BitVec 6} {ws : List (BitVec 64)} (h : Arrives (s.at_ t) p.val lseq.toNat v) :
    let w := v.inFrame slot.toNat src.toNat fwd.toNat tag.toNat first last (ws.map BitVec.toNat) (some p.val)
    exec (.record t p lseq src tag first last slot fwd ws) s =
      .next (if (w.inb slot.toNat).pend = [] then credited w p.val 3 ws.length
        else { w with withheld := w.withheld ++ [(p.val, 3, ceilDiv (ws.length * 8 + 20) 64)] }) := by
  have hblocked := not_blocked_of_arrives h
  obtain ⟨-, -, htake⟩ := h
  show execRecord t p lseq src tag first last slot fwd ws s = _
  simp only [execRecord, hblocked, htake, Bool.not_true, Bool.false_eq_true, if_false, credited]

/-- Settles O39: the forwarder's take and its resending, and the receiver's frames. -/
theorem recordsCrossTheFabric : Obligations.RecordsCrossTheFabric := by
  intro s t u
  refine ⟨fun f => ⟨exec_forwarderTake_full, fun hen hdest hnode hroom hback =>
      ⟨exec_forwarderTake_none hen hdest hnode hroom hback,
        fun q r ws v => exec_forwarderTake_packet hen hdest hnode hroom hback⟩,
    fun hunacked hback => ⟨fun hdue => ?_, fun hearly => ?_⟩⟩,
    fun p lseq v h => ⟨fun src tag first last slot fwd ws => ?_,
      fun src tag slot => congrArg Host.Outcome.next (State.rxFor_taken h 2 0 _)⟩⟩
  · refine next_neg ?_
    rw [decide_eq_false hunacked, decide_eq_true hdue, Bool.or_true]
    exact Bool.false_ne_true
  · refine next_pos ?_
    rw [decide_eq_false (Nat.not_le.mpr hearly), show ((s.at_ t).fwd f.val).back = false from hback]
    exact Bool.or_true _
  · exact ⟨fun hpend => (exec_record_taken h).trans (next_pos hpend),
      fun hpend => (exec_record_taken h).trans (next_neg hpend)⟩

end Sys2Proof.Machine
end

