-- ==== Sys2Proof/Proofs/Security.lean ====
section
/-! PROOF. The security island and what it judges (chapters 16 and 19): FABRIC_RESET, bundles, reports, operations and the
dies' certificates of each other. -/

namespace Sys2Proof.Machine

open Sys2Proof

/-! ### FABRIC_RESET -/

section

variable {s v : State} {t : Nat} {p : Fin 16} {lseq : BitVec 12}

theorem exec_faRsp_unasked {tag : BitVec 14} {ok : Bool} (h : Arrives (s.at_ t) p.val lseq.toNat v)
    (hnone : (credited v p.val 0 0).jobs.find? (fun j => j.op == 0x61 && j.tag == tag.toNat + 1) = none) :
    exec (.faRsp t p lseq tag ok) s = .next (credited v p.val 0 0) := by
  refine congrArg Host.Outcome.next ((State.rxFor_taken h 0 0 _).trans ?_)
  simp only [hnone]

theorem exec_faRsp_asked {tag : BitVec 14} {ok : Bool} {j : Job} (h : Arrives (s.at_ t) p.val lseq.toNat v)
    (hjob : (credited v p.val 0 0).jobs.find? (fun j => j.op == 0x61 && j.tag == tag.toNat + 1) = some j) :
    exec (.faRsp t p lseq tag ok) s = .next ((credited v p.val 0 0).commit j (if ok then stDone else stDenied) 0) := by
  refine congrArg Host.Outcome.next ((State.rxFor_taken h 0 0 _).trans ?_)
  simp only [hjob]

theorem exec_securityOpDone_idle (hq : (s.at_ t).secq = []) : exec (.securityOpDone t) s = .next (s.at_ t) := by
  show execSecurityOpDone t s = _
  simp only [execSecurityOpDone, hq, List.head?_nil]

/-- A judged FA_REQ is answered whether it was accepted. -/
theorem exec_securityOpDone_fa {src tag port : Nat} {ws : List Nat} {l : List SecReq} {ok : Bool}
    (hq : (s.at_ t).secq = .fa src tag port ws :: l) (hjudge : (s.at_ t).secPop.faJudge ws = (ok, v)) :
    exec (.securityOpDone t) s =
      .next (v.answer port { dest := src, vc := 0, ty := frFaRsp, tag := tag, aux := b2n ok }) := by
  show execSecurityOpDone t s = _
  simp only [execSecurityOpDone, hq, List.head?_cons, hjudge]

theorem exec_fabricResetAct_none (h : (s.at_ t).faPending = none) : exec (.fabricResetAct t) s = .next (s.at_ t) := by
  show execFabricResetAct t s = _
  simp only [execFabricResetAct, h]

/-- An accepted request acts once the answer has left. -/
theorem exec_fabricResetAct_pending {scope id : Nat} (h : (s.at_ t).faPending = some (scope, id)) :
    let u := s.at_ t
    exec (.fabricResetAct t) s = .next
      (if u.ports.any (fun p => p.2.waiting.any (fun w => w.frame.ty == frFaRsp && w.frame.src == u.nodeId)) then u
        else u.faAct scope id) := by
  show execFabricResetAct t s = _
  simp only [execFabricResetAct, h]

end

/-- Settles O38: the descriptor, the request and its answer, the island's judgement, and the act. -/
theorem fabricResetsAreAskedJudgedAndDone : Obligations.FabricResetsAreAskedJudgedAndDone := by
  intro s t u
  refine ⟨fun sq j h => ⟨fun hempty => next_started h (if_pos hempty), fun hbytes => next_started h (if_neg hbytes)⟩,
    fun p lseq v h => ⟨fun src tag ws => congrArg Host.Outcome.next (State.rxFor_taken h 0 ws.length _),
      fun tag ok => ⟨exec_faRsp_unasked h, fun j => exec_faRsp_asked h⟩⟩,
    exec_securityOpDone_idle, fun src tag p ws l ok v => exec_securityOpDone_fa, exec_fabricResetAct_none,
    fun scope id h => ⟨fun hleft => ?_, fun hwaits => (exec_fabricResetAct_pending h).trans (next_pos hwaits)⟩⟩
  exact (exec_fabricResetAct_pending h).trans (next_neg (ne_true_of_eq_false hleft))

/-! ### Bundles, reports and operations -/

section

variable {s : State} {t : Nat} {sq : Fin 256}

/-- ZILLO_LOAD: an isolated core's completes, a running core's is BUSY, and any other begins the loading. -/
theorem exec_zilloLoad_started {j : Job} (h : Started (s.at_ t) sq.val 0x40 j) :
    let v := (s.at_ t).setJob j
    let z := bitsAt (j.w 1) 0 2
    let w := (v.setZcore z { v.zcore z with loadFrom := v.zState z }).zSetState z zLoading
    let n := ceilDiv (bitsAt (j.w 3) 0 32) 8
    exec (.zilloLoad t sq) s = .next (if v.isolated kCore z then v.commit j stDone 0
      else if v.zState z ≠ zEmpty && v.zState z ≠ zHalted && v.zState z ≠ zTrapped then v.commit j stBusy 0
      else if n = 0 then w.secAsk (.bundle j.id) else w.hostRead (.job j.id) (addr8 (j.w 2)) n) :=
  next_started h rfl

theorem exec_bundleVerifyDone_of {id : Nat} {l : List SecReq} {j : Job} (hq : (s.at_ t).secq = .bundle id :: l)
    (hjob : (s.at_ t).secPop.job id = some j) :
    exec (.bundleVerifyDone t) s =
      .next (if j.op = 0x40 then (s.at_ t).secPop.loadJudge j else (s.at_ t).secPop.storeJudge j) := by
  show execBundleVerifyDone t s = _
  simp only [execBundleVerifyDone, hq, List.head?_cons, hjob]

/-- An operation's descriptor reads its 208 bytes of authorisation, or is refused for another length; it is taken only by
the command of its own operation. -/
theorem State.secStart_started {u : State} {n op : Nat} {j : Job} (h : Started u n 0x51 j) :
    u.secStart n op = if j.secOp ≠ op then u
      else if bitsAt (j.w 3) 0 16 ≠ 208 then (u.setJob j).secDeny j 1
      else (u.setJob j).hostRead (.job j.id) (addr8 (j.w 2)) 26 := by
  have hstart := State.startDesc_started (f := fun j s => if bitsAt (j.w 3) 0 16 ≠ 208 then s.secDeny j 1
      else s.hostRead (.job j.id) (addr8 (j.w 2)) 26) h
  obtain ⟨d, hnext, -, rfl⟩ := h
  simp only [State.secStart, hnext, hstart]
  rfl

/-- GET_ID writes the die's key, its partner's, and the signature where the die has a key. -/
theorem exec_getId_started {j : Job} (h : Started (s.at_ t) sq.val 0x51 j) (hop : j.secOp = 0) :
    let v := (s.at_ t).setJob j
    let x := v.sec v.dx.die
    let own := (v.idKey v.dx.die).getD []
    let fit := fun (l : List Nat) (n : Nat) => l ++ List.replicate (n - l.length) 0
    exec (.getId t sq) s =
      .next (v.secOut j (fit own 64 ++ fit x.peerKey 64 ++ fit (if own = [] then [] else x.xsig) 120)) := by
  have h' := h
  obtain ⟨d, hnext, -, rfl⟩ := h'
  have hop' : ¬ d.secOp ≠ 0 := not_not_intro hop
  show execGetId t sq s = _
  simp only [execGetId, hnext, hop', if_false]
  exact next_started h rfl

theorem exec_debugClose_started {j : Job} (h : Started (s.at_ t) sq.val 0x51 j) (hop : j.secOp = 7) :
    exec (.debugClose t sq) s = .next
      ((((s.at_ t).setJob j).wr F.SEC_STATUS_DEBUG ((s.at_ t).setJob j).dx.die 0).commit j stDone 0) := by
  have h' := h
  obtain ⟨d, hnext, -, rfl⟩ := h'
  have hop' : ¬ d.secOp ≠ 7 := not_not_intro hop
  show execDebugClose t sq s = _
  simp only [execDebugClose, hnext, hop', if_false]
  exact next_started h rfl

theorem exec_crossCertify_single (hpart : (s.at_ t).part ≠ .vt8) : exec (.crossCertify t) s = .next (s.at_ t) := by
  show execCrossCertify t s = _
  cases h : (s.at_ t).part with
  | vt8 => exact absurd h hpart
  | vt2 => simp only [execCrossCertify, h]
  | vt4 => simp only [execCrossCertify, h]

theorem exec_crossCertify_pair {a b : List Nat} (hpart : (s.at_ t).part = .vt8) (ha : (s.at_ t).idSeed 0 = some a)
    (hb : (s.at_ t).idSeed 1 = some b) :
    let u := s.at_ t
    let v := u.setSec 0 { u.sec 0 with peerKey := edPublic b, xsig := edSign b "Crita xcert" (edPublic a) }
    exec (.crossCertify t) s = .next
      (v.setSec 1 { v.sec 1 with peerKey := edPublic a, xsig := edSign a "Crita xcert" (edPublic b) }) := by
  show execCrossCertify t s = _
  simp only [execCrossCertify, hpart, ha, hb]

end

/-- Settles O40: a clause for each kind of descriptor, and the certificates of a pair. -/
theorem securityDescriptorsAreJudged : Obligations.SecurityDescriptorsAreJudged := by
  intro s t sq u
  refine ⟨?load, fun id l j => exec_bundleVerifyDone_of, fun j h => next_started h rfl, fun j => exec_getId_started, rfl, rfl,
    rfl, rfl, rfl, rfl, fun op j h hop => ⟨fun hlen => ?_, fun hlen => ?_⟩, fun op j h hop => ?_,
    fun j => exec_debugClose_started, exec_crossCertify_single, fun a b => exec_crossCertify_pair⟩
  case load =>
    intro j h v z w n
    have hload := exec_zilloLoad_started h
    refine ⟨fun hiso => hload.trans (next_pos hiso), fun hiso hempty hhalted htrapped => ?_, fun hiso hidle => ?_⟩
    · refine hload.trans ((next_neg (ne_true_of_eq_false hiso)).trans (next_pos ?_))
      exact and_eq_true_of (and_eq_true_of (decide_eq_true hempty) (decide_eq_true hhalted)) (decide_eq_true htrapped)
    · have hnot : ¬ (decide (v.zState z ≠ zEmpty) && decide (v.zState z ≠ zHalted) && decide (v.zState z ≠ zTrapped)) =
          true := by
        intro hbusy
        simp only [Bool.and_eq_true, decide_eq_true_eq] at hbusy
        obtain ⟨⟨hempty, hhalted⟩, htrapped⟩ := hbusy
        exact hidle.elim hempty (fun hrest => hrest.elim hhalted htrapped)
      have hloads := hload.trans ((next_neg (ne_true_of_eq_false hiso)).trans (next_neg hnot))
      exact ⟨fun hn => hloads.trans (next_pos hn), fun hn => hloads.trans (next_neg hn)⟩
  · rw [State.secStart_started h, if_neg (not_not_intro hop), if_neg (not_not_intro hlen)]
  · rw [State.secStart_started h, if_neg (not_not_intro hop), if_pos hlen]
  · rw [State.secStart_started h, if_pos hop]

end Sys2Proof.Machine
end

