-- ==== Sys2Proof/Proofs/Duplex.lean ====
section
/-! PROOF. The pair of Mortises (chapter 17): heartbeats and cycles, the standby's state, and who holds PEG. -/

namespace Sys2Proof.Machine

open Sys2Proof

section

variable {s : State} {t : Nat}

theorem exec_journalCycleRx_oldest {c : Cycle} (h : (s.at_ t).dx.cycles.find? (fun c => !c.received) = some c) :
    let u := s.at_ t
    exec (.journalCycleRx t) s = .next { u with dx := { u.dx with
      mirror := c.seqs
      cycles := u.dx.cycles.map (fun (y : Cycle) => if y.num = c.num then { y with received := true } else y) } } := by
  show execJournalCycleRx t s = _
  simp only [execJournalCycleRx, h]
  rfl

/-- A missed heartbeat is counted; the second one of a READY standby that asks for nothing yet asks for PEG. -/
theorem exec_heartbeatMissed_ready (hpart : (s.at_ t).part = .vt8) (hthere : (s.at_ t).standbyThere = true)
    (hlate : (s.at_ t).dx.keepAt + (6 + 5 * (s.at_ t).dx.missed) * usF ≤ (s.at_ t).now) (hreq : (s.at_ t).dx.req = none)
    (hready : (s.at_ t).dx.sbState = 2) :
    let u := s.at_ t
    exec (.heartbeatMissed t) s = .next { u with dx := { u.dx with
      missed := u.dx.missed + 1
      req := if 1 ≤ u.dx.missed then some (1 - u.dx.die, 1) else none } } := by
  refine next_reached ?_ ?_
  · exact and_eq_true_of (and_eq_true_of (decide_eq_true hpart) hthere) (decide_eq_true hlate)
  · simp only [State.withDx, hreq, hready, Option.isNone_none, decide_true, Bool.and_true, decide_eq_true_eq]

/-- The active's supply fault, where DX_CTRL enables it: FAULT is sent and PEG released. -/
theorem State.activeFault_supply {u : State} (hpart : u.part = .vt8) (hheld : u.dx.held = true)
    (hon : u.on F.DX_CTRL_F_SUPPLY u.dx.die = true) :
    let v := ((u.dxStick F.DX_STATUS_FAULT 3).wr F.DX_STATUS_FAULT (1 - u.dx.die) 1).heartbeat 1
    u.activeFault 0 = { v with dx := { v.dx with
      held := false
      released := true
      req := if v.dx.sbState = 2 then some (1 - u.dx.die, 2) else v.dx.req } } := by
  simp only [State.activeFault, if_true, hpart, hheld, hon, ne_eq, not_true, decide_false, Bool.not_true, Bool.or_false,
    Bool.false_eq_true, if_false]
  rfl

theorem State.activeFault_single {u : State} (hpart : u.part ≠ .vt8) (k : Nat) : u.activeFault k = u := by
  refine if_pos ?_
  rw [decide_eq_true hpart, Bool.true_or, Bool.true_or]

theorem exec_pegRequest_no_boot {d : Bool} (h : ((s.at_ t).boot (b2n d)).doneAt = none) :
    exec (.pegRequest t d) s = .next (s.at_ t) := by
  show execPegRequest t d s = _
  simp only [execPegRequest, h]

theorem exec_pegRequest_single (hpart : (s.at_ t).part ≠ .vt8) (d : Bool) : exec (.pegRequest t d) s = .next (s.at_ t) := by
  show execPegRequest t d s = _
  simp only [execPegRequest, hpart, decide_false, Bool.false_and, Bool.false_eq_true, if_false]
  split <;> rfl

/-- Mortise B asks for PEG 100 ms after its boot, where Mortise A has not left BOOT. -/
theorem exec_pegRequest_second {a : Nat} (hdone : ((s.at_ t).boot (b2n true)).doneAt = some a)
    (hpart : (s.at_ t).part = .vt8) (hheld : (s.at_ t).dx.held = false) (hreleased : (s.at_ t).dx.released = false)
    (hreq : (s.at_ t).dx.req = none) (hrails : smapGet 0 (s.at_ t).dieRails (b2n true) = 0)
    (hlate : a + 100 * msF ≤ (s.at_ t).now) (hfirst : ((s.at_ t).boot 0).doneAt = none) :
    exec (.pegRequest t true) s = .next { s.at_ t with dx := { (s.at_ t).dx with req := some (1, 0) } } := by
  show execPegRequest t true s = _
  simp only [execPegRequest, hdone]
  refine next_pos ?_
  rw [hpart, hheld, hreleased, hreq, hfirst, decide_eq_true hrails, decide_eq_true hlate]
  decide

/-- PEG goes to the die that asks, unless the active that holds it was heard of in the last 10 µs. -/
theorem exec_pegGrant_asked {d cause : Nat} (h : (s.at_ t).dx.req = some (d, cause)) :
    let u := s.at_ t
    exec (.pegGrant t) s = .next (if u.part ≠ .vt8 || (u.dx.held && decide (u.now < u.dx.keepAt + 10 * usF)) then u
      else if cause = 0 then u.firstGrant d else u.takeOver d cause) := by
  show execPegGrant t s = _
  simp only [execPegGrant, h]

theorem exec_pegGrant_unasked (h : (s.at_ t).dx.req = none) : exec (.pegGrant t) s = .next (s.at_ t) := by
  show execPegGrant t s = _
  simp only [execPegGrant, h]

theorem exec_pegGrant_single (hpart : (s.at_ t).part ≠ .vt8) : exec (.pegGrant t) s = .next (s.at_ t) := by
  cases hreq : (s.at_ t).dx.req with
  | none => exact exec_pegGrant_unasked hreq
  | some r =>
    refine (exec_pegGrant_asked hreq).trans (next_pos ?_)
    rw [decide_eq_true hpart, Bool.true_or]

end

/-- On a part with one Mortise no condition of the pair's commands holds. -/
theorem not_vt8_and {p : Part} {a b : Bool} (h : p ≠ .vt8) : ¬ (decide (p = .vt8) && a && b) = true := by
  rw [decide_eq_false h]
  exact Bool.false_ne_true

/-- Settles O41: a clause for each of the pair's commands. -/
theorem duplexPairKeepsAndPassesTheNode : Obligations.DuplexPairKeepsAndPassesTheNode := by
  intro s t u
  refine ⟨fun hpart hheld => ⟨fun hcut => next_pos ?_, fun hhalf => next_pos ?_⟩,
    fun hpart => ⟨next_neg (not_vt8_and hpart), next_neg (not_vt8_and hpart), next_neg (not_vt8_and hpart),
      fun k => congrArg Host.Outcome.next (State.activeFault_single hpart k.val), exec_pegRequest_single hpart,
      exec_pegGrant_single hpart⟩,
    fun c => exec_journalCycleRx_oldest, rfl, fun hheld hready => ⟨fun hlag => next_pos ?_, fun hkeeps => next_neg ?_⟩,
    exec_heartbeatMissed_ready, fun hheld hsync hbulk hthere => next_pos ?_,
    fun hpart hheld hon => congrArg Host.Outcome.next (State.activeFault_supply hpart hheld hon),
    fun d => ⟨next_pos, next_neg, rfl, ?request, exec_pegRequest_no_boot⟩, exec_pegGrant_unasked,
    fun d cause hpart hreq hheld => (exec_pegGrant_asked hreq).trans (next_neg ?_),
    fun d cause hpart hreq hheld hfresh => (exec_pegGrant_asked hreq).trans (next_pos ?_)⟩
  · exact and_eq_true_of (and_eq_true_of (decide_eq_true hpart) hheld) (decide_eq_true hcut)
  · exact and_eq_true_of (and_eq_true_of (decide_eq_true hpart) hheld) (decide_eq_true hhalf)
  · exact and_eq_true_of (and_eq_true_of hheld (by rw [decide_eq_true hready, Bool.or_true])) (decide_eq_true hlag)
  · rw [decide_eq_false (Nat.not_le.mpr hkeeps), Bool.and_false]
    exact Bool.false_ne_true
  · refine and_eq_true_of (and_eq_true_of (and_eq_true_of hheld (decide_eq_true hsync)) ?_) hthere
    exact Bool.not_eq_true' _ ▸ hbulk
  case request =>
    intro a hdone hpart hheld hreleased hreq hrails hd hlate hfirst
    subst hd
    exact exec_pegRequest_second hdone hpart hheld hreleased hreq hrails hlate hfirst
  · rw [decide_eq_false (not_not_intro hpart), hheld]
    exact Bool.false_ne_true
  · rw [show u.dx.held = true from hheld, decide_eq_true hfresh, Bool.true_and, Bool.or_true]

end Sys2Proof.Machine
end

