-- ==== Sys2Proof/Proofs/Modes.lean ====
section
/-! PROOF. The modes of the node (chapter 18): the requests, DORMANT and its wakes, and heat. -/

namespace Sys2Proof.Machine

open Sys2Proof

/-- A request is taken while PO is not asserted and no drain or wake runs. -/
theorem State.request_taken {u : State} (hpo : u.poAsserted = false) (hdrain : u.dorm.stage ≠ 1) (hwake : u.dorm.stage ≠ 3)
    (f : State → State) : u.request f = f u :=
  (if_neg (ne_true_of_eq_false hpo)).trans (if_neg (or_ne_true_of hdrain hwake))

theorem State.request_refused {u : State} (hpo : u.poAsserted = false) (hbusy : u.dorm.stage = 1 ∨ u.dorm.stage = 3)
    (f : State → State) : u.request f = u.refuse := by
  refine (if_neg (ne_true_of_eq_false hpo)).trans (if_pos ?_)
  rw [Bool.or_eq_true, decide_eq_true_eq, decide_eq_true_eq]
  exact hbusy

section

variable {s : State} {t : Nat}

theorem exec_request_refused (hpo : (s.at_ t).poAsserted = false) (hbusy : (s.at_ t).dorm.stage = 1 ∨ (s.at_ t).dorm.stage = 3)
    {c : Instr} (hc : c ∈ [Instr.reqSetup t, .reqRun t, .reqService t, .reqSafe t, .reqDormant t]) :
    exec c s = .next (s.at_ t).refuse := by
  simp only [List.mem_cons, List.not_mem_nil, or_false] at hc
  rcases hc with rfl | rfl | rfl | rfl | rfl <;>
    exact congrArg Host.Outcome.next (State.request_refused hpo hbusy _)

/-- A Tenon's heat is noted, and asks for SAFE. -/
theorem exec_overTemperature_tenon {tn : Fin 6} {d hot : Bool} (hpresent : (s.at_ t).present tn.val = true) :
    let u := s.at_ t
    let v := u.setTenon tn.val { u.tenon tn.val with hot := hot }
    exec (.overTemperature t (some tn) d hot) s = .next (if hot then v.askSafe 2 else v) :=
  next_neg (by rw [hpresent]; exact Bool.false_ne_true)

end

/-- Settles O42: the requests with and without a transition, then the drain, the wakes, the duty cycles and heat. -/
theorem modesAreRequestedEnteredAndLeft : Obligations.ModesAreRequestedEnteredAndLeft := by
  intro s t u
  refine ⟨?requests, fun hpo hbusy c hc => exec_request_refused hpo hbusy hc, fun hdrain hdue => next_pos ?_,
    fun hdrain => next_neg ?_, fun hen hdue => next_pos (and_eq_true_of hen (decide_eq_true hdue)),
    fun hen hpo => next_pos (and_eq_true_of hen ?_), fun hasleep => ?_, ?duty,
    fun k i => ⟨fun hwake hoff hreach => next_pos ?_, fun hwake => next_neg ?_⟩,
    fun tn d hpresent => ⟨exec_overTemperature_tenon (hot := true) hpresent,
      exec_overTemperature_tenon (hot := false) hpresent⟩⟩
  case requests =>
    intro hpo hdrain hwake
    have taken := fun f => congrArg (Host.Outcome.next (φ := Fault) (ρ := Refusal)) (State.request_taken hpo hdrain hwake f)
    refine ⟨(taken _).trans ?_, taken _, (taken _).trans ?_, (taken _).trans ?_, (taken _).trans ?_⟩
    · simp only [Bool.or_eq_true, decide_eq_true_eq]
    · simp only [Bool.or_eq_true, decide_eq_true_eq]
    · simp only [Bool.or_eq_true, decide_eq_true_eq, or_assoc]
    · simp only [Bool.and_eq_true, Bool.or_eq_true, decide_eq_true_eq, Bool.not_eq_true', Option.isNone_iff_eq_none, and_assoc]
  · exact and_eq_true_of (decide_eq_true hdrain) (by rw [decide_eq_true hdue, Bool.true_or])
  · rw [decide_eq_false hdrain, Bool.false_and]
    exact Bool.false_ne_true
  · rw [show (s.at_ t).poAsserted = false from hpo]
    rfl
  · have hdrain : u.dorm.stage ≠ 1 := by
      rw [hasleep]
      decide
    exact (if_neg hdrain).trans (if_pos hasleep)
  case duty =>
    refine fun tn b => ⟨fun hawake => ⟨next_neg ?_, next_neg ?_⟩, fun hasleep hduty hoff => next_pos ?_,
      fun hasleep hduty hon hpass hentry => next_pos ?_⟩
    · rw [decide_eq_false hawake, Bool.false_and, Bool.false_and]
      exact Bool.false_ne_true
    · rw [decide_eq_false hawake, Bool.false_and, Bool.false_and, Bool.false_and, Bool.false_and]
      exact Bool.false_ne_true
    · exact and_eq_true_of (and_eq_true_of (decide_eq_true hasleep) hduty) (decide_eq_true hoff)
    · refine and_eq_true_of (and_eq_true_of (and_eq_true_of (and_eq_true_of (decide_eq_true hasleep) hduty)
        (decide_eq_true hon)) ?_) (Option.isNone_iff_eq_none.mpr hentry)
      rw [show ((s.at_ t).bent (bentIx tn.val b.val)).passOn = false from hpass]
      rfl
  · exact and_eq_true_of (and_eq_true_of (decide_eq_true hwake) hoff) hreach
  · rw [decide_eq_false hwake, Bool.false_and, Bool.false_and]
    exact Bool.false_ne_true

end Sys2Proof.Machine
end

