-- ==== Sys2Proof/Proofs/Resets.lean ====
section
/-! PROOF. Resets, supplies and boot (chapter 18): PO and PN, rails and clocks, and the steps of a die's boot. -/

namespace Sys2Proof.Machine

open Sys2Proof

/-! ### Resets and supplies -/

theorem State.rd_newNonce_other (s : State) {d : Nat} {f : Fld} {i : Nat} (h : fkey f i ≠ fkey F.SEC_NONCE_NONCE d) :
    (s.newNonce d).rd f i = s.rd f i := rd_wr_other { s with free := s.free + 1 } _ h

/-- Fresh nonces leave the cause of the reset. -/
theorem State.resetCause_freshNonces (s : State) :
    s.freshNonces.rd F.RESET_CAUSE_PKG 0 = s.rd F.RESET_CAUSE_PKG 0 := by
  have hfabric := rd_wr_other { (s.newNonce 0).newNonce 1 with free := ((s.newNonce 0).newNonce 1).free + 1 }
    (f := F.FAB_FA_NONCE_NONCE) (i := 0) (g := F.RESET_CAUSE_PKG) (j := 0) (((s.newNonce 0).newNonce 1).random 64).1
    (fkey_ne (by decide) (by decide) (by decide))
  have hsecond := State.rd_newNonce_other (s.newNonce 0) (d := 1) (f := F.RESET_CAUSE_PKG) (i := 0)
    (fkey_ne (by decide) (by decide) (by decide))
  have hfirst := State.rd_newNonce_other s (d := 0) (f := F.RESET_CAUSE_PKG) (i := 0)
    (fkey_ne (by decide) (by decide) (by decide))
  exact hfabric.trans (hsecond.trans hfirst)

theorem State.resetCause_pinReset (s : State) : s.pinReset.rd F.RESET_CAUSE_PKG 0 = 1 :=
  (State.resetCause_freshNonces _).trans (rd_wr_same _ _ _ _)

section

variable {s : State} {t : Nat}

/-- A supply of a present Tenon: it loses its lock and is isolated. -/
theorem exec_supplyOutOfRange_tenon {tn : Fin 6} {d : Bool} {r : Fin 8} :
    let u := s.at_ t
    let x := u.tenon tn.val
    exec (.supplyOutOfRange t (some tn) d r) s = .next (if !u.present tn.val then u
      else (u.setTenon tn.val { x with rails := withRail x.rails r.val true, locked := false }).isolateTenon tn.val icSupply 3
        false) := rfl

/-- A supply of a Mortise: it resets the one Mortise of a part; on VT8 the active gives way and the standby is isolated. -/
theorem exec_supplyOutOfRange_mortise {d : Bool} {r : Fin 8} :
    let u := s.at_ t
    let v : State := { u with
      dieRails := smapSet 0 u.dieRails (b2n d) (withRail (smapGet 0 u.dieRails (b2n d)) r.val true) }
    exec (.supplyOutOfRange t none d r) s = .next (
      if u.part ≠ .vt8 then (if b2n d = 0 && !u.poAsserted then v.powerReset else v)
      else if b2n d = u.dx.die && u.dx.held then v.activeFault 0
      else if b2n d ≠ u.dx.die then ((v.setIso kStandby 0 (some icSupply)).sbLeave 0).modeJudge.dueDone
      else v) := rfl

end

/-- Settles O43: the resets by whether PO is asserted, then a Tenon's supplies, then a die's. -/
theorem resetsAndSuppliesAct : Obligations.ResetsAndSuppliesAct := by
  intro s t u
  refine ⟨fun hpo => ⟨next_neg (ne_true_of_eq_false hpo), next_neg (ne_true_of_eq_false hpo)⟩,
    fun hpo => ⟨next_pos hpo, next_pos hpo, fun hfed => next_pos (and_eq_true_of hpo hfed), fun hnot => next_neg ?_⟩,
    ⟨rfl, rfl, rfl, State.resetCause_pinReset u⟩, ?tenon, ?mortise⟩
  · rw [show (s.at_ t).mortisesFed = false from hnot, Bool.and_false]
    exact Bool.false_ne_true
  case tenon =>
    intro tn d r x
    refine ⟨fun habsent => ⟨exec_supplyOutOfRange_tenon.trans (next_pos ?_), next_neg (ne_true_of_eq_false habsent)⟩,
      fun hpresent => ⟨exec_supplyOutOfRange_tenon.trans (next_neg ?_), next_pos hpresent⟩, rfl, rfl⟩
    · rw [show (s.at_ t).present tn.val = false from habsent]
      rfl
    · rw [show (s.at_ t).present tn.val = true from hpresent]
      exact Bool.false_ne_true
  case mortise =>
    intro d r low
    refine ⟨rfl, rfl, fun hpart hdie hpo => exec_supplyOutOfRange_mortise.trans ((next_pos hpart).trans (next_pos ?_)),
      fun hpart hdie hheld => exec_supplyOutOfRange_mortise.trans
        ((next_neg (not_not_intro hpart)).trans (next_pos (and_eq_true_of (decide_eq_true hdie) hheld))),
      fun hpart hdie => exec_supplyOutOfRange_mortise.trans
        ((next_neg (not_not_intro hpart)).trans ((next_neg ?_).trans (next_pos hdie)))⟩
    · rw [decide_eq_true hdie, show (s.at_ t).poAsserted = false from hpo]
      rfl
    · rw [decide_eq_false hdie, Bool.false_and]
      exact Bool.false_ne_true

/-! ### Boot -/

section

variable {s : State} {t : Nat} {d : Bool}

theorem exec_bootStepDone_forward (hpo : (s.at_ t).poAsserted = false) (hclock : ((s.at_ t).boot (b2n d)).refclk = true) :
    let u := s.at_ t
    let b := u.boot (b2n d)
    exec (.bootStepDone t d 0) s = .next (if b.s1 then u else
      (List.range 6).foldl (fun s k =>
        if s.present k && (s.tenon k).rails = 0 && !s.isolated kTenon k && s.mode = mBoot then
          s.setTenon k { s.tenon k with clocked := true }
        else s) (u.setBoot (b2n d) { b with s1 := true }).retentionRead) :=
  (next_neg (by rw [hpo, hclock]; exact Bool.false_ne_true)).trans (next_pos rfl)

theorem exec_bootStepDone_lock (hpo : (s.at_ t).poAsserted = false) (hclock : ((s.at_ t).boot (b2n d)).refclk = true) :
    let u := s.at_ t
    let b := u.boot (b2n d)
    exec (.bootStepDone t d 1) s = .next (if b.s1 && !b.pll then
      (List.range 8).foldl (fun s k =>
        if s.portUsed (s.portOfLane (8 * b2n d + k)) && (s.lane (8 * b2n d + k)).state = laDown then
          s.laneTrain (8 * b2n d + k)
        else s) (u.setBoot (b2n d) { b with pll := true }) else u) :=
  (next_neg (by rw [hpo, hclock]; exact Bool.false_ne_true)).trans (next_neg (by decide))

theorem exec_memoryFillDone_mortise :
    let u := s.at_ t
    let b := u.boot (b2n d)
    let v := u.setBoot (b2n d) { b with fill := true }
    exec (.memoryFillDone t none d) s = .next (if !b.s1 || b.fill then u
      else if decide (b2n d ≠ u.dx.die) || v.pool.ready then v
      else
        let w := (List.range 24).foldl (fun s m => if m = memRoute || m = memRetention then s else s.memFilled m) v
        { w with pool := { w.pool with ready := true } }) := rfl

theorem exec_selfTestDone_mortise {ok : Bool} :
    let u := s.at_ t
    let b := u.boot (b2n d)
    let v := u.setBoot (b2n d) { b with failTest := true }
    exec (.selfTestDone t none d ok) s = .next (if !(b.fill && b.pll) || b.test || b.failTest then u
      else if ok then u.setBoot (b2n d) { b with test := true }
      else if v.part = .vt8 then v.setIso kStandby 0 (some icFault) else v) := rfl

theorem exec_selfTestDone_tenon {tn : Fin 6} {ok : Bool} :
    let u := s.at_ t
    let x := u.tenon tn.val
    exec (.selfTestDone t (some tn) d ok) s = .next (if !u.present tn.val || !x.filled || x.tested || u.mode ≠ mBoot then u
      else if ok then u.setTenon tn.val { x with tested := true }
      else (u.wr F.BOOT_STATUS_TENON_FAIL 0 (u.rd F.BOOT_STATUS_TENON_FAIL 0 ||| 2 ^ tn.val)).isolateTenon tn.val icFault 4
        false) := rfl

/-- The boot bundles of a die whose test passed and whose bundles are still to be judged. -/
theorem not_bundles_settled (htest : ((s.at_ t).boot (b2n d)).test = true)
    (hbundles : ((s.at_ t).boot (b2n d)).bundles = false) (hfail : ((s.at_ t).boot (b2n d)).failBundle = false)
    (hready : b2n d = (s.at_ t).dx.die → (s.at_ t).mode = mBoot → (s.at_ t).tenonsTested = true) :
    ¬ (!((s.at_ t).boot (b2n d)).test || ((s.at_ t).boot (b2n d)).bundles || ((s.at_ t).boot (b2n d)).failBundle ||
      ((b2n d == (s.at_ t).dx.die && (s.at_ t).mode == mBoot) && !(s.at_ t).tenonsTested)) = true := by
  rw [htest, hbundles, hfail]
  intro h
  simp only [Bool.not_true, Bool.false_or, Bool.and_eq_true, beq_iff_eq, Bool.not_eq_true'] at h
  obtain ⟨⟨hdie, hmode⟩, huntested⟩ := h
  exact Bool.false_ne_true (huntested.symm.trans (hready hdie hmode))

theorem exec_bootBundleVerify_none (htest : ((s.at_ t).boot (b2n d)).test = true)
    (hbundles : ((s.at_ t).boot (b2n d)).bundles = false) (hfail : ((s.at_ t).boot (b2n d)).failBundle = false)
    (hready : b2n d = (s.at_ t).dx.die → (s.at_ t).mode = mBoot → (s.at_ t).tenonsTested = true)
    (hentries : (s.at_ t).bootEntries (b2n d) = []) :
    exec (.bootBundleVerify t d) s =
      .next ((s.at_ t).setBoot (b2n d) { (s.at_ t).boot (b2n d) with bundles := true }) := by
  refine (next_neg (not_bundles_settled htest hbundles hfail hready)).trans ?_
  simp only [hentries, List.foldl_nil, Bool.false_eq_true, if_false]

/-- One governing entry whose bundle verifies: it is loaded and started on the active in BOOT, and counted elsewhere. -/
theorem exec_bootBundleVerify_good {z : Nat} {e : BootEntry} {l : List Section}
    (htest : ((s.at_ t).boot (b2n d)).test = true)
    (hbundles : ((s.at_ t).boot (b2n d)).bundles = false) (hfail : ((s.at_ t).boot (b2n d)).failBundle = false)
    (hready : b2n d = (s.at_ t).dx.die → (s.at_ t).mode = mBoot → (s.at_ t).tenonsTested = true)
    (hentries : (s.at_ t).bootEntries (b2n d) = [(z, e)]) (hgood : (s.at_ t).bootBundle (b2n d) e = .ok l) :
    let u := s.at_ t
    let r := if b2n d = u.dx.die ∧ u.mode = mBoot then
        (let r := u.zLoaded (b2n d) z l; if e.autorun then r.zRun z else r)
      else u.countUp F.SEC_CNT_LOADS (b2n d) 1 (2 ^ 32 - 1)
    exec (.bootBundleVerify t d) s = .next (r.setBoot (b2n d) { u.boot (b2n d) with bundles := true }) := by
  refine (next_neg (not_bundles_settled htest hbundles hfail hready)).trans ?_
  by_cases hact : b2n d = (s.at_ t).dx.die ∧ (s.at_ t).mode = mBoot
  · have hact' := and_eq_true_of (beq_iff_eq.mpr hact.1) (beq_iff_eq.mpr hact.2)
    simp only [hentries, List.foldl_cons, List.foldl_nil, hgood, hact', if_pos hact, Bool.not_true, Bool.false_eq_true, if_false]
  · have hact' : (b2n d == (s.at_ t).dx.die && (s.at_ t).mode == mBoot) = false := by
      rw [← Bool.not_eq_true, Bool.and_eq_true, beq_iff_eq, beq_iff_eq]
      exact hact
    simp only [hentries, List.foldl_cons, List.foldl_nil, hgood, hact', if_neg hact, Bool.not_false, Bool.false_eq_true, if_false,
      if_true]

/-- One governing entry whose bundle does not verify: the die's boot stops. -/
theorem exec_bootBundleVerify_bad {z c : Nat} {e : BootEntry} (htest : ((s.at_ t).boot (b2n d)).test = true)
    (hbundles : ((s.at_ t).boot (b2n d)).bundles = false) (hfail : ((s.at_ t).boot (b2n d)).failBundle = false)
    (hready : b2n d = (s.at_ t).dx.die → (s.at_ t).mode = mBoot → (s.at_ t).tenonsTested = true)
    (hentries : (s.at_ t).bootEntries (b2n d) = [(z, e)]) (hbad : (s.at_ t).bootBundle (b2n d) e = .error c) :
    let u := s.at_ t
    let r := (({ u with free := u.free + 1 } : State).badBundle (b2n d) c 15).setBoot (b2n d)
      { u.boot (b2n d) with failBundle := true }
    exec (.bootBundleVerify t d) s = .next (if r.part = .vt8 then r.setIso kStandby 0 (some icFault) else r) := by
  refine (next_neg (not_bundles_settled htest hbundles hfail hready)).trans ?_
  simp only [hentries, List.foldl_cons, List.foldl_nil, hbad, if_true]

/-- The one Mortise of a part ends its boot. -/
theorem exec_bootComplete_single (hbundles : ((s.at_ t).boot (b2n d)).bundles = true)
    (hdone : ((s.at_ t).boot (b2n d)).doneAt = none) (hpo : (s.at_ t).poAsserted = false) (hpart : (s.at_ t).part ≠ .vt8)
    (hdie : b2n d = 0) :
    exec (.bootComplete t d) s =
      .next ((s.at_ t).setBoot 0 { (s.at_ t).boot (b2n d) with doneAt := some (s.at_ t).now }).bootEnd := by
  refine (next_neg ?_).trans ((next_pos hpart).trans ((next_pos hdie).trans ?_))
  · rw [hbundles, hdone, hpo]
    exact Bool.false_ne_true
  · rw [hdie]

end

theorem State.mem_bootEntries {u : State} {d : Nat} {p : Nat × BootEntry} (h : p ∈ u.bootEntries d) :
    p.1 < 4 ∧ u.governing d p.1 = some p.2 := by
  obtain ⟨z, hz, hp⟩ := List.mem_filterMap.mp h
  obtain ⟨e, he, rfl⟩ := Option.map_eq_some_iff.mp hp
  exact ⟨List.mem_range.mp hz, he⟩

/-- Settles O44: the boot's steps in their order, then the health record. -/
theorem bootRunsStepByStep : Obligations.BootRunsStepByStep := by
  intro s t d u b
  refine ⟨fun hclock k => next_pos ?_, fun hpo hclock =>
      ⟨fun hs1 => (exec_bootStepDone_forward hpo hclock).trans (next_pos hs1),
      fun hs1 => (exec_bootStepDone_forward hpo hclock).trans (next_neg (ne_true_of_eq_false hs1)),
      fun hs1 hpll => (exec_bootStepDone_lock hpo hclock).trans (next_pos (and_eq_true_of hs1 ?_)),
      fun hs1 => (exec_bootStepDone_lock hpo hclock).trans (next_neg ?_)⟩,
    fun hs1 => exec_memoryFillDone_mortise.trans (next_pos ?_), fun hs1 hfill hpool => exec_memoryFillDone_mortise.trans ?_,
    fun hfill ok => exec_selfTestDone_mortise.trans (next_pos ?_), ?dieTest, ?tenonTest, fun htest => next_pos ?_, ?bundles,
    fun hbundles => next_pos ?_, exec_bootComplete_single, fun p => State.mem_bootEntries,
    fun a1 a2 a3 a4 a5 a6 a7 a8 hoff => next_pos ?_, fun a1 a2 a3 a4 a5 a6 a7 a8 hhost hmode hon hdue => ⟨_, next_neg ?_⟩⟩
  · rw [show ((s.at_ t).boot (b2n d)).refclk = false from hclock]
    exact Bool.or_true _
  · rw [show ((s.at_ t).boot (b2n d)).pll = false from hpll]
    rfl
  · rw [show ((s.at_ t).boot (b2n d)).s1 = false from hs1]
    exact Bool.false_ne_true
  · rw [show ((s.at_ t).boot (b2n d)).s1 = false from hs1]
    rfl
  · refine (next_neg ?_).trans (next_pos ?_)
    · rw [show ((s.at_ t).boot (b2n d)).s1 = true from hs1, show ((s.at_ t).boot (b2n d)).fill = false from hfill]
      exact Bool.false_ne_true
    · rw [Bool.or_eq_true]
      exact Or.inr hpool
  · rw [show ((s.at_ t).boot (b2n d)).fill = false from hfill]
    rfl
  case dieTest =>
    intro hfill hpll htest hfail
    have hnot : ¬ (!(b.fill && b.pll) || b.test || b.failTest) = true := by
      rw [hfill, hpll, htest, hfail]
      exact Bool.false_ne_true
    exact ⟨exec_selfTestDone_mortise.trans ((next_neg hnot).trans (next_pos rfl)),
      fun hpart => exec_selfTestDone_mortise.trans
        ((next_neg hnot).trans ((next_neg Bool.false_ne_true).trans (next_pos hpart)))⟩
  case tenonTest =>
    intro tn hpresent hfilled htested hmode
    have hnot : ¬ (!u.present tn.val || !(u.tenon tn.val).filled || (u.tenon tn.val).tested || decide (u.mode ≠ mBoot)) =
        true := by
      rw [hpresent, hfilled, htested, decide_eq_false (not_not_intro hmode)]
      exact Bool.false_ne_true
    exact ⟨exec_selfTestDone_tenon.trans ((next_neg hnot).trans (next_pos rfl)),
      exec_selfTestDone_tenon.trans ((next_neg hnot).trans (next_neg Bool.false_ne_true))⟩
  · rw [show ((s.at_ t).boot (b2n d)).test = false from htest]
    rfl
  case bundles =>
    intro htest hbundles hfail hready
    refine ⟨exec_bootBundleVerify_none htest hbundles hfail hready, fun z e hentries => ?_⟩
    split
    · next l hgood => exact exec_bootBundleVerify_good htest hbundles hfail hready hentries hgood
    · next c hbad => exact exec_bootBundleVerify_bad htest hbundles hfail hready hentries hbad
  · rw [show ((s.at_ t).boot (b2n d)).bundles = false from hbundles]
    rfl
  · rw [show (s.at_ t).on F.HEALTH_CFG_EN 0 = false from hoff, Bool.not_false, Bool.or_true, Bool.true_or]
  · rw [show (s.at_ t).hostIfOn = true from hhost, show (s.at_ t).on F.HEALTH_CFG_EN 0 = true from hon,
      decide_eq_false (show ¬ (s.at_ t).mode = mBoot from hmode), decide_eq_false (not_not_intro hdue)]
    exact Bool.false_ne_true

end Sys2Proof.Machine
end

