-- ==== Sys2Proof/Proofs/PartsAndTap.lean ====
section
/-! PROOF. Tenons and parts (chapters 01 and 18): locks, frames and ports, records admitted and lost, PART_CMD; and the TAP
(R548). -/

namespace Sys2Proof.Machine

open Sys2Proof

/-! ### Tenons -/

section

variable {s : State} {t : Nat} {tn : Fin 6}

/-- A locked Tenon of the part loses its lock and is isolated; one that is isolated already raises its event as well. -/
theorem exec_lossOfLock_locked (hpresent : (s.at_ t).present tn.val = true) (hlocked : ((s.at_ t).tenon tn.val).locked = true) :
    let u := s.at_ t
    let v := (u.setTenon tn.val { u.tenon tn.val with locked := false }).isolateTenon tn.val icFault 1 false
    exec (.lossOfLock t tn) s = .next (if u.isolated kTenon tn.val then v.dieEvent tn.val 1 else v) :=
  next_pos (and_eq_true_of hpresent hlocked)

/-- A frame on an open port of the part, the one due: whole, it is taken; else a replay is asked for, or the port goes
down. -/
theorem exec_tenonLinkFrameRx_due {pb down ok : Bool} (hpresent : (s.at_ t).present tn.val = true)
    (hopen : ((s.at_ t).tenon tn.val).down pb = false) (hport : pb = false ∨ (s.at_ t).part = .vt8) :
    let u := s.at_ t
    let x := u.tenon tn.val
    let r := x.link pb down
    let v := u.setTenon tn.val (x.setLink pb down { r with fails := r.fails + 1, replay := true })
    exec (.tenonLinkFrameRx t tn (pb, down) (r.next, ok)) s = .next (
      if ok then u.setTenon tn.val (x.setLink pb down { next := r.next + 1 })
      else if 7 ≤ r.fails then v.tenonPortDown tn.val pb else v) := by
  refine next_neg ?_
  have hthere : (pb && (s.at_ t).part != .vt8) = false := by
    rcases hport with rfl | hpart
    · rfl
    · rw [hpart]
      exact Bool.and_false pb
  rw [hpresent, hopen, hthere, decide_eq_false (not_not_intro rfl)]
  exact Bool.false_ne_true

theorem exec_tenonLinkFrameRx_other {pb down ok : Bool} {num : Nat}
    (hnum : num ≠ (((s.at_ t).tenon tn.val).link pb down).next) :
    exec (.tenonLinkFrameRx t tn (pb, down) (num, ok)) s = .next (s.at_ t) := by
  refine next_pos ?_
  rw [decide_eq_true hnum, Bool.or_true]

theorem State.tenonPortDown_down {u : State} {b : Bool} (h : (u.tenon tn.val).down (b && u.part == .vt8) = true) :
    u.tenonPortDown tn.val b = u := by
  refine if_pos ?_
  rw [h, Bool.or_true]

theorem exec_recordAdmit_down {b : Bool} (h : ((s.at_ t).tenon tn.val).down b = true) :
    exec (.recordAdmit t tn b) s = .next (s.at_ t) := by
  refine next_pos ?_
  rw [h, Bool.or_true, Bool.true_or, Bool.true_or, Bool.true_or]

theorem exec_recordAdmit_replay {b : Bool} (h : (((s.at_ t).tenon tn.val).link b false).replay = true) :
    exec (.recordAdmit t tn b) s = .next (s.at_ t) := by
  refine next_pos ?_
  rw [h, Bool.or_true]

/-- The oldest record of the one port of a part with one Mortise is admitted. -/
theorem exec_recordAdmit_first {r : Rec} {rest : List Rec} (hpresent : (s.at_ t).present tn.val = true)
    (hpart : (s.at_ t).part ≠ .vt8) (hup : ((s.at_ t).tenon tn.val).downA = false) (hpo : (s.at_ t).poAsserted = false)
    (hreplay : (((s.at_ t).tenon tn.val).link false false).replay = false)
    (hrec : ((s.at_ t).tenon tn.val).tx false = r :: rest) (hservice : (s.at_ t).isolated kTenon tn.val = false) :
    exec (.recordAdmit t tn false) s =
      .next (((s.at_ t).setTenon tn.val (((s.at_ t).tenon tn.val).setTx false rest)).admitRec r) := by
  have hdown : ((s.at_ t).tenon tn.val).down false = false := hup
  refine (next_neg ?_).trans ?_
  · rw [hpresent, hdown, hpo, hreplay]
    exact Bool.false_ne_true
  · have hservice' :
        ((s.at_ t).setTenon tn.val (((s.at_ t).tenon tn.val).setTx false rest)).isolated kTenon tn.val = false := hservice
    have hpart' : ((s.at_ t).setTenon tn.val (((s.at_ t).tenon tn.val).setTx false rest)).part ≠ .vt8 := hpart
    simp only [hrec, hservice', hpart, hpart', ne_eq, not_false_eq_true, decide_true, decide_false, Bool.true_or,
      Bool.not_true, Bool.false_and, Bool.false_eq_true, if_false]

theorem exec_portLossRecord_none (h : ((s.at_ t).tenon tn.val).tx ((s.at_ t).part == .vt8 && (s.at_ t).dx.die == 1) = []) :
    exec (.portLossRecord t tn) s = .next (s.at_ t) := by
  show execPortLossRecord t tn s = _
  simp only [execPortLossRecord, h]

theorem exec_portLossRecord_first {r : Rec} {rest : List Rec}
    (h : ((s.at_ t).tenon tn.val).tx ((s.at_ t).part == .vt8 && (s.at_ t).dx.die == 1) = r :: rest)
    (hpresent : (s.at_ t).present tn.val = true) (hpo : (s.at_ t).poAsserted = false) :
    exec (.portLossRecord t tn) s = .next ((s.at_ t).portLoss r) := by
  show execPortLossRecord t tn s = _
  simp only [execPortLossRecord, h, hpresent, hpo, Bool.not_false, Bool.and_true, if_true]

theorem exec_tenonLossRecord_none {b : Bool} {sid : BitVec 16} (h : (s.at_ t).loss (b2n b) sid.toNat = none) :
    exec (.tenonLossRecord t tn b sid) s = .next (s.at_ t) := by
  show execTenonLossRecord t tn b sid s = _
  simp only [execTenonLossRecord, h]

theorem exec_tenonLossRecord_sent {b : Bool} {sid : BitVec 16} {l : LossPend} (h : (s.at_ t).loss (b2n b) sid.toNat = some l)
    (hpresent : (s.at_ t).present tn.val = true) (htenon : sid.toNat / 256 % 16 = tn.val)
    (hroom : fifoBytes (((s.at_ t).tenon tn.val).tx b) + (lossRec sid.toNat tn.val l).len * 8 ≤ fifoSize) :
    let u := s.at_ t
    let x := u.tenon tn.val
    exec (.tenonLossRecord t tn b sid) s =
      .next ((u.setTenon tn.val (x.setTx b (x.tx b ++ [lossRec sid.toNat tn.val l]))).setLoss (b2n b) sid.toNat none) := by
  show execTenonLossRecord t tn b sid s = _
  simp only [execTenonLossRecord, h]
  exact next_pos (and_eq_true_of (and_eq_true_of hpresent (decide_eq_true htenon)) (decide_eq_true hroom))

end

/-! ### Parts -/

section

variable {u : State} {k i : Nat}

/-- A part command in BOOT is refused. -/
theorem State.partCmd_boot (f : Nat → Nat → State → State) (hsel : u.partSel = (k, i)) (hpo : u.poAsserted = false)
    (hthere : u.partThere k i = true) (hboot : u.mode = mBoot) : u.partCmd f = u.refuse := by
  simp only [State.partCmd, hsel, hpo, hthere, hboot, Bool.not_true, Bool.or_false, Bool.false_eq_true, if_false, decide_true,
    Bool.true_or, if_true]

/-- Outside BOOT a core or a lane obeys in every mode. -/
theorem State.partCmd_narrow (f : Nat → Nat → State → State) (hsel : u.partSel = (k, i)) (hpo : u.poAsserted = false)
    (hthere : u.partThere k i = true) (hboot : u.mode ≠ mBoot) (htenon : k ≠ kTenon) (hstandby : k ≠ kStandby)
    (hbent : k ≠ kBent) : u.partCmd f = f k i u := by
  simp only [State.partCmd, hsel, hpo, hthere, hboot, beq_eq_false_iff_ne.mpr htenon, beq_eq_false_iff_ne.mpr hstandby,
    beq_eq_false_iff_ne.mpr hbent, Bool.not_true, Bool.or_false, Bool.false_and, decide_false, Bool.false_eq_true, if_false]

end

/-- Settles O45: a Tenon's lock and frames, its counter, its records and losses, its silence, and the part commands. -/
theorem tenonsAndPartsComeAndGo : Obligations.TenonsAndPartsComeAndGo := by
  intro s t tn u x
  refine ⟨?present, ⟨next_pos, next_neg⟩, fun b => rfl, fun b => State.tenonPortDown_down, fun b => exec_recordAdmit_down,
    fun r rest hpresent hpart hup hpo => ⟨exec_recordAdmit_first hpresent hpart hup hpo, exec_recordAdmit_replay⟩,
    exec_portLossRecord_none, fun r rest => exec_portLossRecord_first,
    fun b sid => ⟨exec_tenonLossRecord_none, fun l => exec_tenonLossRecord_sent⟩, fun hservice => next_neg ?_,
    fun hiso hloss ha hb => next_pos (and_eq_true_of (and_eq_true_of (and_eq_true_of hiso hloss) ha) ?_), ?parts⟩
  case present =>
    intro hpresent
    refine ⟨fun hclock hpo => next_pos (and_eq_true_of (and_eq_true_of hpresent hclock) ?_), fun hclock => next_neg ?_,
      fun hlocked => ⟨fun hservice => ?_, fun hiso => ?_⟩, fun hlocked => next_neg ?_, ?frames⟩
    · rw [show (s.at_ t).poAsserted = false from hpo]
      rfl
    · rw [show ((s.at_ t).tenon tn.val).clocked = false from hclock, Bool.and_false]
      exact Bool.false_ne_true
    · exact (exec_lossOfLock_locked hpresent hlocked).trans (next_neg (ne_true_of_eq_false hservice))
    · exact (exec_lossOfLock_locked hpresent hlocked).trans (next_pos hiso)
    · rw [show ((s.at_ t).tenon tn.val).locked = false from hlocked, Bool.and_false]
      exact Bool.false_ne_true
    case frames =>
      intro pb down hopen hport r v
      have hbad := exec_tenonLinkFrameRx_due (down := down) (ok := false) hpresent hopen hport
      exact ⟨fun num ok => exec_tenonLinkFrameRx_other, exec_tenonLinkFrameRx_due (ok := true) hpresent hopen hport,
        fun hfew => hbad.trans (next_neg (Nat.not_le.mpr hfew)), fun hmany => hbad.trans (next_pos hmany)⟩
  · rw [show (s.at_ t).isolated kTenon tn.val = false from hservice, Bool.false_and, Bool.false_and, Bool.false_and]
    exact Bool.false_ne_true
  · rw [show ((s.at_ t).tenon tn.val).downB = true from hb, Bool.true_or]
  case parts =>
    intro k i hsel hpo hthere
    refine ⟨fun hboot => ?_, fun hboot htenon hstandby hbent => ?_⟩
    · have refused := fun f => congrArg (fun v => Host.Outcome.next (φ := Fault) (ρ := Refusal) (State.dueDone v))
        (State.partCmd_boot f hsel hpo hthere hboot)
      exact ⟨refused _, refused _, refused _⟩
    · have obeyed := fun f => congrArg (fun v => Host.Outcome.next (φ := Fault) (ρ := Refusal) (State.dueDone v))
        (State.partCmd_narrow f hsel hpo hthere hboot htenon hstandby hbent)
      exact ⟨obeyed _, obeyed _, obeyed _⟩

/-! ### The TAP -/

theorem length_natBits (v n : Nat) : (natBits v n).length = n := by
  induction n generalizing v with
  | zero => rfl
  | succ n ih => rw [natBits, List.length_cons, ih]

/-- Settles O47: each instruction's register by the definition of its scan; EXTEST by the mode, and the two debug
instructions by whether debug is open. -/
theorem tapInstructionsShiftTheirRegisters : Obligations.TapInstructionsShiftTheirRegisters := by
  intro s t pins tdi u
  refine ⟨rfl, rfl, rfl, fun hmode => next_pos ?_, fun hboot hsetup => next_neg ?_, rfl, rfl,
    fun hclosed => ⟨next_neg (ne_true_of_eq_false hclosed), next_neg (ne_true_of_eq_false hclosed)⟩,
    fun hopen => ⟨_, length_natBits _ _, next_pos hopen, next_pos hopen⟩, fun ir bits => rfl⟩
  · rw [State.tapDrives, Bool.or_eq_true, beq_iff_eq, beq_iff_eq]
    exact hmode
  · rw [State.tapDrives, Bool.or_eq_true, beq_iff_eq, beq_iff_eq]
    exact fun hmode => hmode.elim hboot hsetup

end Sys2Proof.Machine
end

