-- ==== Sys2Proof/Proofs/RegisterAccess.lean ====
section
/-! PROOF. Register accesses (chapters 16 and 22): the host's, the Tenons' commands, and the descriptors and frames that
reach a register of this node or of another. -/

namespace Sys2Proof.Machine

open Sys2Proof

section

variable {s v : State} {t : Nat}

/-- A read of a doorbell page goes to the endpoint that serves it. -/
theorem exec_halfReadLatch_some {d : Bool} {a : BitVec 26 ⊕ BitVec 20} {len : BitVec 13} (hlen : len ≠ 0) :
    exec (.halfReadLatch t d a len) s = .next (a.elim
      (fun off => (s.at_ t).hostW0Read (b2n d) off.toNat len.toNat)
      (fun bell => (s.at_ t).send (.bellData bell.toNat
        (if (s.at_ t).serves (b2n d) 0x50000 then (s.at_ t).bellRead bell.toNat len.toNat else 0)))) := by
  refine (next_neg hlen).trans ?_
  cases a with
  | inl off => rfl
  | inr bell => rfl

/-- A register access of a Tenon changes nothing where the Tenon is absent, takes no command, or was asked at the port of the
Mortise that does not hold PEG. -/
theorem exec_tenonCommand_blocked {tn : Fin 6} {pb wr : Bool} {num : BitVec 32} {off : BitVec 23} {be : BitVec 8}
    {val : BitVec 64} (h : (s.at_ t).present tn.val = false ∨ (s.at_ t).tenonTakes tn.val = false ∨
      pb ≠ ((s.at_ t).part == .vt8 && (s.at_ t).dx.die == 1)) :
    exec (.tenonCommand t tn (pb, num) off wr be val) s = .next (s.at_ t) := by
  refine next_neg fun hgo => ?_
  simp only [Bool.and_eq_true] at hgo
  obtain ⟨⟨⟨⟨hpresent, htakes⟩, -⟩, hport⟩, -⟩ := hgo
  rcases h with h | h | h
  · exact Bool.false_ne_true (h.symm.trans hpresent)
  · exact Bool.false_ne_true (h.symm.trans htakes)
  · exact h (beq_iff_eq.mp hport)

/-- At the port of the Mortise that holds PEG, and with no frame before it outstanding, the command reaches its Tenon. -/
theorem exec_tenonCommand_taken {tn : Fin 6} {pb wr : Bool} {num : BitVec 32} {off : BitVec 23} {be : BitVec 8}
    {val : BitVec 64} (hpresent : (s.at_ t).present tn.val = true) (htakes : (s.at_ t).tenonTakes tn.val = true)
    (hpo : (s.at_ t).poAsserted = false) (hport : pb = ((s.at_ t).part == .vt8 && (s.at_ t).dx.die == 1))
    (hreplay : (((s.at_ t).tenon tn.val).link pb true).replay = false) {access : State → Nat × State}
    (haccess : (fun v => if wr then
        (0, State.w0Put v (s.at_ t).dx.die (tenonAddr tn.val (off.toNat / 8 * 8)) be.toNat val.toNat)
      else State.w0Word v (s.at_ t).dx.die (tenonAddr tn.val (off.toNat / 8 * 8))) = access) :
    exec (.tenonCommand t tn (pb, num) off wr be val) s =
      .next ((s.at_ t).tenonExec tn.val num.toNat access).dueDone := by
  subst haccess
  refine next_pos (and_eq_true_of (and_eq_true_of (and_eq_true_of (and_eq_true_of hpresent htakes) ?_) ?_) ?_)
  · rw [hpo]
    rfl
  · exact beq_iff_eq.mpr hport
  · rw [hreplay]
    rfl

theorem exec_regRead_local {sq : Fin 256} {j : Job} {r : Nat} {w : State} (h : Started (s.at_ t) sq.val 0x02 j)
    (hlocal : ((s.at_ t).setJob j).localNode j = true)
    (hread : ((s.at_ t).setJob j).w0Read ((s.at_ t).setJob j).dx.die
      (bitsAt (j.w 1) 0 26 / (if bitAt (j.w 1) 32 then 8 else 4) * (if bitAt (j.w 1) 32 then 8 else 4))
      (if bitAt (j.w 1) 32 then 8 else 4) = (r, w)) :
    exec (.regRead t sq) s = .next (w.commit j stDone r) := by
  refine next_started h ?_
  simp only [hlocal, hread, if_true]

/-- REG_WRITE is judged once its descriptor has started; then what was due is done. -/
theorem exec_regWrite_of {sq : Fin 256} {j : Job} (h : Started (s.at_ t) sq.val 0x03 j)
    (hv : (if !((s.at_ t).setJob j).localNode j then
        ((s.at_ t).setJob j).regAsk j frRegWr [j.regWord, j.w 2 % 2 ^ 64]
      else if ((s.at_ t).setJob j).journaling then ((s.at_ t).setJob j).journal (.run j.id)
      else j.runRegWrite ((s.at_ t).setJob j)) = v) :
    exec (.regWrite t sq) s = .next v.dueDone :=
  congrArg (fun v => Host.Outcome.next (State.dueDone v)) ((State.startDesc_started h).trans hv)

variable {p : Fin 16} {lseq : BitVec 12} {src : BitVec 16} {tag : BitVec 14}

/-- A REG_RD is answered with the word read. -/
theorem State.regAnswer_of {u w : State} {port source tagNum off n r : Nat} (hread : u.w0Read u.dx.die off n = (r, w)) :
    u.regAnswer port source tagNum off n = w.reply port source frRegRsp tagNum 0 [r] := by
  simp only [State.regAnswer, hread]

theorem exec_regRsp_unasked {val : BitVec 64} (h : Arrives (s.at_ t) p.val lseq.toNat v)
    (hnone : (credited v p.val 2 1).jobs.find? (fun j => (j.op == 0x02 || j.op == 0x03) && j.tag == tag.toNat + 1) = none) :
    exec (.regRsp t p lseq tag val) s = .next (credited v p.val 2 1) := by
  refine congrArg Host.Outcome.next ((State.rxFor_taken h 2 1 _).trans ?_)
  simp only [hnone]

theorem exec_regRsp_asked {val : BitVec 64} {j : Job} (h : Arrives (s.at_ t) p.val lseq.toNat v)
    (hjob : (credited v p.val 2 1).jobs.find? (fun j => (j.op == 0x02 || j.op == 0x03) && j.tag == tag.toNat + 1) =
      some j) :
    exec (.regRsp t p lseq tag val) s =
      .next ((credited v p.val 2 1).commit j stDone (if j.op = 0x02 then val.toNat else 0)) := by
  refine congrArg Host.Outcome.next ((State.rxFor_taken h 2 1 _).trans ?_)
  simp only [hjob]

end

/-- Settles O46: the host's accesses, the Tenons' commands, the descriptors, and the frames in order. -/
theorem registersAreReadWrittenAndAsked : Obligations.RegistersAreReadWrittenAndAsked := by
  intro s t u
  refine ⟨fun d off be v => ⟨rfl, fun a => next_pos rfl, fun len hlen => exec_halfReadLatch_some hlen,
      fun a len hlen => exec_halfReadLatch_some hlen⟩,
    fun d tn off be v num => ⟨next_pos rfl, (next_neg Bool.false_ne_true).trans (next_pos rfl),
      fun pb wr => exec_tenonCommand_blocked, fun pb hpresent htakes hpo hport hreplay =>
        ⟨exec_tenonCommand_taken hpresent htakes hpo hport hreplay (funext fun s => if_pos rfl),
          exec_tenonCommand_taken hpresent htakes hpo hport hreplay (funext fun s => if_neg Bool.false_ne_true)⟩⟩,
    ?regRead, ?regWrite, ?frames⟩
  case regRead =>
    intro sq j h v n
    exact ⟨fun hlocal r w hread => exec_regRead_local h hlocal hread,
      fun hfar => next_started h (if_neg (ne_true_of_eq_false hfar))⟩
  case regWrite =>
    intro sq j h v
    have here : v.localNode j = true → ¬ (!v.localNode j) = true := fun hlocal => by
      rw [hlocal]
      exact Bool.false_ne_true
    refine ⟨fun hfar => exec_regWrite_of h (if_pos ?_), fun hlocal hwait => exec_regWrite_of h ?_,
      fun hlocal hnow => exec_regWrite_of h ?_⟩
    · rw [show ((s.at_ t).setJob j).localNode j = false from hfar]
      rfl
    · exact (if_neg (here hlocal)).trans (if_pos hwait)
    · exact (if_neg (here hlocal)).trans (if_neg (ne_true_of_eq_false hnow))
  case frames =>
    intro p lseq src tag off val v h
    refine ⟨?read, ?waits, ?write, exec_regRsp_unasked h, fun j => exec_regRsp_asked h⟩
    case read =>
      intro w64 r w n hread hnone
      refine congrArg Host.Outcome.next ((State.rxFor_taken h 1 1 _).trans ?_)
      exact (if_neg (ne_true_of_eq_false hnone)).trans (State.regAnswer_of hread)
    case waits =>
      intro hwait w64 n
      exact congrArg Host.Outcome.next ((State.rxFor_taken h 1 1 _).trans (if_pos hwait))
    case write =>
      exact congrArg (fun v => Host.Outcome.next (State.dueDone v)) (State.rxFor_taken h 1 2 _)

end Sys2Proof.Machine
end
